-- ==== Sys2Proof/Word.lean ====
section
/-! DEFINITION. The word types of the Scaune L4 (00_scope.md R9, R10; 02_encoding.md R42: a token carries 64 bits). -/
namespace Sys2Proof

/-- A byte of memory, of the stall store or of a tile image (R10). -/
abbrev Byte := BitVec 8
/-- A 16-bit value: heats, tags, capture numbers. -/
abbrev W16 := BitVec 16
/-- A 32-bit value: SPE scratch entries (R35), BSQ (R25), FP32 patterns (R98). -/
abbrev W32 := BitVec 32
/-- A 64-bit value: tokens (R42) and frame registers (R23). -/
abbrev W64 := BitVec 64
/-- A 128-bit value: block headers (R40), descriptors (R30), cells (R328) and hurdle words (R255). -/
abbrev W128 := BitVec 128

end Sys2Proof
end

