-- ==== Sys2Proof/Syntax.lean ====
section
/-! DEFINITION. The instructions and events of the Scaune L4: one constructor of `Instr` per row of the opcode table
(02_encoding.md R52-R60; 95_what_each_step_holds.md). The first 194 constructors are instruction words of the block
engine; the others are the device's own operations and events, whose arguments name the objects they act on (and, where the
environment decides something, such as an uncorrectable error met or a firmware command's operands, what it decides). -/
namespace Sys2Proof

/-- Predicate mode (R52, R43); value 11 is reserved and has no constructor. -/
inductive PM where
  | always | onTrue | onFalse
  deriving DecidableEq, Repr, Inhabited

/-- Operand field of a target (R53). -/
inductive OpField where
  | left | right | pred
  deriving DecidableEq, Repr, Inhabited

/-- A target that is not 00: an operand field of a slot (R53). -/
structure Target where
  fld  : OpField
  slot : BitVec 7
  deriving DecidableEq, Repr, Inhabited

/-- What every instruction word but S format carries beside its payload (R52): predicate mode and two targets. -/
structure Hd where
  pm : PM
  t0 : Option Target
  t1 : Option Target
  deriving DecidableEq, Repr, Inhabited

/-- WID of format M (R55). -/
inductive Wid where
  | ub | uh | uw | d | sb | sh | sw
  deriving DecidableEq, Repr, Inhabited

/-- ORD of format M (R55). -/
inductive Ord where
  | plain | acq | rel | acqRel
  deriving DecidableEq, Repr, Inhabited

/-- HM of format M (R55, R38). -/
inductive HeatMode where
  | own | base | explicit
  deriving DecidableEq, Repr, Inhabited

/-- SCP of format M (R55, R222). -/
inductive Scope where
  | frame | stall | hall | pkg | sys
  deriving DecidableEq, Repr, Inhabited

/-- The payload of format M (R54, R55). -/
structure MF where
  lsid : BitVec 5
  wid  : Wid
  ord  : Ord
  hm   : HeatMode
  scp  : Scope
  ofs  : BitVec 21
  deriving DecidableEq, Repr, Inhabited

/-- TST conditions (R139). -/
inductive Tcc where
  | eq | ne | lt | ge | ltu | geu
  deriving DecidableEq, Repr, Inhabited

/-- FTST conditions (R149). -/
inductive Fcc where
  | eq | lt | le | un
  deriving DecidableEq, Repr, Inhabited

/-- FCVT conversions (R152). -/
inductive FcvtKind where
  | f2i | f2u | i2f | u2f | f2bf | f2h | bf2f | h2f
  deriving DecidableEq, Repr, Inhabited

/-- FRND directions (R153). -/
inductive FrndDir where
  | rm | rne | rtz | rdn | rup | rmm
  deriving DecidableEq, Repr, Inhabited

/-- FSGN forms (R151). -/
inductive FsgnOp where
  | cp | cn | cx
  deriving DecidableEq, Repr, Inhabited

/-- The node operations of reductions (R176, R304). -/
inductive RedOp where
  | add | max | min
  deriving DecidableEq, Repr, Inhabited

/-- VCMP conditions (R168, R179). -/
inductive VCond where
  | eq | ne | lt | le | ltu | leu | un
  deriving DecidableEq, Repr, Inhabited

/-- The shift count of VSHL and VSHR: SUB[4:0], or TB's elements with `.v` (R168, R179). -/
inductive ShCount where
  | imm (n : BitVec 5)
  | tile (tb : BitVec 6)
  deriving DecidableEq, Repr, Inhabited

/-- The payload of a product instruction (R126, R128). -/
structure PF where
  ta  : BitVec 6
  tb  : BitVec 6
  tc  : BitVec 6
  acc : Bool
  sq  : Bool
  nb  : Bool
  deriving DecidableEq, Repr, Inhabited

/-- The payload of a three-tile vector instruction (R167). -/
structure VF3 where
  ta : BitVec 6
  tb : BitVec 6
  tc : BitVec 6
  nb : Bool
  deriving DecidableEq, Repr, Inhabited

/-- The payload of a two-tile vector instruction (R167). -/
structure VF2 where
  ta : BitVec 6
  tc : BitVec 6
  nb : Bool
  deriving DecidableEq, Repr, Inhabited

/-- The fields of an S-format instruction (R58) but MODE, whose one defined bit is the constructor's own argument. -/
structure SF where
  shape : BitVec 14
  out   : BitVec 11
  l0    : BitVec 11
  l1    : BitVec 11
  l2    : BitVec 11
  l3    : BitVec 11
  l4    : BitVec 11
  l5    : BitVec 11
  l6    : BitVec 11
  l7    : BitVec 11
  deriving DecidableEq, Repr, Inhabited

/-- Which of firmware's two signatures verify, RSA-3072 and SLH-DSA (R413). -/
structure FirmwareCheck where
  rsa : Bool
  slh : Bool
  deriving DecidableEq, Repr, Inhabited

/-- Hall interleave mode (R84, R388). -/
inductive Interleave where
  | localMode | spread
  deriving DecidableEq, Repr, Inhabited

/-- The enabled units of one hall (R461): stalls by stall identifier within the hall, slices, channels, Ethernet ports. -/
structure FuseMap where
  stalls   : List Nat
  slices   : List Nat
  channels : List Nat
  ports    : List Nat
  deriving DecidableEq, Repr, Inhabited

/-- TDISP requests and interface states (R411). -/
inductive TdispReq where
  | lock | run | stop | unlock
  deriving DecidableEq, Repr, Inhabited

/-- Congestion parameters, fabric address and package number (R323). -/
structure Transport where
  pkgNum     : Nat
  fabricAddr : Nat
  congestion : Nat
  deriving DecidableEq, Repr, Inhabited

/-- What DBG_READ names (R415). -/
inductive DbgWhat where
  | frame (ref : Nat)
  | stall (st : Nat)
  deriving DecidableEq, Repr, Inhabited

/-- A region of context memory given by VA and size (R382). -/
structure Region where
  va   : Nat
  size : Nat
  deriving DecidableEq, Repr, Inhabited

/-- The parameters of CTX_CREATE (R382). -/
structure CtxParams where
  num        : Nat
  rtp        : Nat
  debuggable : Bool
  confid     : Bool
  cls        : Nat
  pitch      : List Nat
  heatPool   : Nat
  arena      : Nat
  future     : Region
  frameArea  : Region
  faultLog   : Region
  cq         : Region
  trace      : Region
  redLimit   : Nat
  function   : Nat
  deriving DecidableEq, Repr, Inhabited

/-- The parameters that may change while a context is pre-empted (R20, R382); `none` leaves one as it is. -/
structure CtxChange where
  cls       : Option Nat
  heatPool  : Option Nat
  arena     : Option Nat
  future    : Option Nat
  frameArea : Option Region
  faultLog  : Option Region
  cq        : Option Region
  trace     : Option Region
  redLimit  : Option Nat
  deriving DecidableEq, Repr, Inhabited

/-- One instruction word, or one operation or event of the device: one constructor per row of the opcode table. -/
inductive Instr where
  /-- BRO (R136): Records the successor at the block address plus a signed 16-byte offset. -/
  | bro (h : Hd) (eid : BitVec 3) (ofs : BitVec 33)
  /-- BRI (R136): Records the left operand as the successor; the address is checked under R137. -/
  | bri (h : Hd) (eid : BitVec 3)
  /-- CALL (R136): Records an offset successor and g30 := the fall-through address, both taking effect at commit. -/
  | call (h : Hd) (eid : BitVec 3) (ofs : BitVec 33)
  /-- RET (R136): Records g30 as it stood at block entry as the successor. -/
  | ret (h : Hd) (eid : BitVec 3)
  /-- FEND (R138): Records the end of the frame, which takes effect at commit. -/
  | fend (h : Hd)
  /-- ITER (R139): Delivers the loop iteration index, or 0 outside a loop block. -/
  | iter (h : Hd)
  /-- NULL (R139): Satisfies a WMASK bit without writing the register. -/
  | null (h : Hd) (reg : BitVec 5)
  /-- MNULL (R139): Satisfies an MMASK bit with no access and closes the order-unit gap of its LSID. -/
  | mnull (h : Hd) (lsid : BitVec 5)
  /-- GRD (R139): Delivers a frame register as it stood at block entry. -/
  | grd (h : Hd) (reg : BitVec 5)
  /-- GWR (R139): Writes the left operand to a frame register at commit. -/
  | gwr (h : Hd) (reg : BitVec 5)
  /-- MOVI (R139): Delivers the sign-extended 32-bit immediate. -/
  | movi (h : Hd) (imm : W32)
  /-- MOVHI (R139): Delivers IMM·2^32 plus the low 32 bits of L. -/
  | movhi (h : Hd) (imm : W32)
  /-- MOV (R139): Delivers L unchanged, which is used for fan-out. -/
  | mov (h : Hd)
  /-- SEL (R139): Delivers L if bit 0 of P is 1, else R. -/
  | sel (h : Hd)
  /-- TST (R139): Delivers 1 or 0 for a 64-bit comparison selected by SUB. -/
  | tst (h : Hd) (cc : Tcc)
  /-- NOP (R140): Has no effect. -/
  | nop (h : Hd)
  /-- YIELD (R140): After commit, lets the stall serve another ready frame before this frame's next block. -/
  | yld (h : Hd)
  /-- ADD (R141): Delivers the wrapped sum of L and R. -/
  | add (h : Hd) (w : Bool)
  /-- SUB (R141): Delivers the wrapped difference L − R. -/
  | sub (h : Hd) (w : Bool)
  /-- MUL (R141): Delivers the low W bits of L·R. -/
  | mul (h : Hd) (w : Bool)
  /-- MULH (R141): Delivers the high half of the signed product. -/
  | mulh (h : Hd) (w : Bool)
  /-- MULHU (R141): Delivers the high half of the unsigned product. -/
  | mulhu (h : Hd) (w : Bool)
  /-- DIV (R142): Signed division without a trap; defined results for division by zero and for overflow. -/
  | div (h : Hd) (w : Bool)
  /-- DIVU (R142): Unsigned division; division by zero gives all ones. -/
  | divu (h : Hd) (w : Bool)
  /-- REM (R142): Signed remainder taking the dividend's sign. -/
  | rem (h : Hd) (w : Bool)
  /-- REMU (R142): Unsigned remainder. -/
  | remu (h : Hd) (w : Bool)
  /-- AND (R141): Bitwise AND. -/
  | and (h : Hd) (w : Bool)
  /-- OR (R141): Bitwise OR. -/
  | or (h : Hd) (w : Bool)
  /-- XOR (R141): Bitwise exclusive OR. -/
  | xor (h : Hd) (w : Bool)
  /-- ANDN (R141): Delivers L & ~R. -/
  | andn (h : Hd) (w : Bool)
  /-- SHL (R141): Shifts left by R mod W. -/
  | shl (h : Hd) (w : Bool)
  /-- SHR (R141): Logical shift right by R mod W. -/
  | shr (h : Hd) (w : Bool)
  /-- SAR (R141): Arithmetic shift right by R mod W. -/
  | sar (h : Hd) (w : Bool)
  /-- ROTL (R141): Rotates left within W bits. -/
  | rotl (h : Hd) (w : Bool)
  /-- CLZ (R141): Counts leading zeros. -/
  | clz (h : Hd) (w : Bool)
  /-- CTZ (R141): Counts trailing zeros. -/
  | ctz (h : Hd) (w : Bool)
  /-- POPC (R141): Counts one bits. -/
  | popc (h : Hd) (w : Bool)
  /-- MIN (R141): Signed minimum. -/
  | min (h : Hd) (w : Bool)
  /-- MAX (R141): Signed maximum. -/
  | max (h : Hd) (w : Bool)
  /-- MINU (R141): Unsigned minimum. -/
  | minu (h : Hd) (w : Bool)
  /-- MAXU (R141): Unsigned maximum. -/
  | maxu (h : Hd) (w : Bool)
  /-- ABS (R141): Absolute value; the most negative value gives itself. -/
  | abs (h : Hd) (w : Bool)
  /-- ADDSH (R141): Delivers L + R·2^k for k from 0 to 7. -/
  | addsh (h : Hd) (w : Bool) (k : BitVec 3)
  /-- ADDI (R143): Adds the sign-extended immediate. -/
  | addi (h : Hd) (w : Bool) (imm : W32)
  /-- ANDI (R143): Bitwise AND with the sign-extended immediate. -/
  | andi (h : Hd) (imm : W32)
  /-- ORI (R143): Bitwise OR with the sign-extended immediate. -/
  | ori (h : Hd) (imm : W32)
  /-- XORI (R143): Bitwise exclusive OR with the sign-extended immediate. -/
  | xori (h : Hd) (imm : W32)
  /-- SHLI (R143): Shifts left by an immediate count. -/
  | shli (h : Hd) (w : Bool) (n : BitVec 6)
  /-- SHRI (R143): Logical shift right by an immediate count. -/
  | shri (h : Hd) (w : Bool) (n : BitVec 6)
  /-- SARI (R143): Arithmetic shift right by an immediate count. -/
  | sari (h : Hd) (w : Bool) (n : BitVec 6)
  /-- SEXT (R143): Sign-extends L from n bits. -/
  | sext (h : Hd) (n : BitVec 7)
  /-- ZEXT (R143): Zero-extends L from n bits. -/
  | zext (h : Hd) (n : BitVec 7)
  /-- BFX (R144): Extracts a bit field, optionally signed. -/
  | bfx (h : Hd) (pos wd1 : BitVec 6) (sx : Bool)
  /-- BFI (R144): Inserts the low bits of R into a field of L. -/
  | bfi (h : Hd) (pos wd1 : BitVec 6)
  /-- FADD (R146): FP32 addition under FCSR.RM with sticky flags. -/
  | fadd (h : Hd)
  /-- FSUB (R146): FP32 subtraction. -/
  | fsub (h : Hd)
  /-- FMUL (R146): FP32 multiplication. -/
  | fmul (h : Hd)
  /-- FFMA (R146): FP32 fused multiply-add L×R+P with one rounding. -/
  | ffma (h : Hd)
  /-- FDIV (R146): FP32 division. -/
  | fdiv (h : Hd)
  /-- FSQRT (R146): FP32 square root. -/
  | fsqrt (h : Hd)
  /-- FMIN (R148): Returns the smaller operand's bits, with the NaN rules of R148. -/
  | fmin (h : Hd)
  /-- FMAX (R148): Returns the larger operand's bits, with the NaN rules of R148. -/
  | fmax (h : Hd)
  /-- FTST (R149): FP32 comparison delivering 0 or 1. -/
  | ftst (h : Hd) (cc : Fcc)
  /-- FCVT (R152): Converts between FP32, integers, BF16 and binary16 as SUB selects. -/
  | fcvt (h : Hd) (kind : FcvtKind) (w : Bool)
  /-- FCLASS (R150): Delivers a one-hot class mask of the FP32 operand. -/
  | fclass (h : Hd)
  /-- FRND (R153): Rounds to an integral FP32 value in the selected direction. -/
  | frnd (h : Hd) (dir : FrndDir)
  /-- FSGN (R151): Sets the sign of L from R without rounding. -/
  | fsgn (h : Hd) (op : FsgnOp)
  /-- LD (R238): Loads 1 to 8 bytes from the heat cell and delivers them extended. -/
  | ld (h : Hd) (m : MF)
  /-- ST (R239): Stores 1 to 8 bytes to the heat cell after commit. -/
  | st (h : Hd) (m : MF)
  /-- LDH (R238): Loads from the cell of an explicitly named heat. -/
  | ldh (h : Hd) (m : MF)
  /-- LDS (R240): Loads as LD but delivers 0 instead of faulting. -/
  | lds (h : Hd) (m : MF)
  /-- PREF (R241): Asks the home slice to hold a sector; not an event. -/
  | pref (h : Hd) (m : MF)
  /-- AMO_ADD (R242): Atomic add at the home slice, delivering the old value. -/
  | amoAdd (h : Hd) (m : MF)
  /-- AMO_AND (R242): Atomic AND. -/
  | amoAnd (h : Hd) (m : MF)
  /-- AMO_OR (R242): Atomic OR. -/
  | amoOr (h : Hd) (m : MF)
  /-- AMO_XOR (R242): Atomic exclusive OR. -/
  | amoXor (h : Hd) (m : MF)
  /-- AMO_SWAP (R242): Atomic swap. -/
  | amoSwap (h : Hd) (m : MF)
  /-- AMO_MIN (R242): Atomic signed minimum. -/
  | amoMin (h : Hd) (m : MF)
  /-- AMO_MAX (R242): Atomic signed maximum. -/
  | amoMax (h : Hd) (m : MF)
  /-- CAS (R242): Atomic compare-and-swap delivering the old value. -/
  | cas (h : Hd) (m : MF)
  /-- FENCE (R224): Orders the frame's memory operations by kind and scope. -/
  | fence (h : Hd) (m : MF)
  /-- STMC (R248): Multicast store: the value word goes home and a copy is delivered to each valid consumer entry. -/
  | stmc (h : Hd) (m : MF)
  /-- HT_NEW (R251): Takes a free heat tag, which becomes live at commit. -/
  | htNew (h : Hd)
  /-- HT_END (R252): Ends the frame's heat once it is the last frame, freeing the heat's cells at commit. -/
  | htEnd (h : Hd)
  /-- HT_CANCEL (R253): Reclaims every frame carrying the named heat. -/
  | htCancel (h : Hd)
  /-- HD_INIT (R256): Initialises a hurdle word after commit. -/
  | hdInit (h : Hd) (m : MF)
  /-- HD_ARR (R256): Adds arrivals to a hurdle after commit. -/
  | hdArr (h : Hd) (m : MF)
  /-- HD_WAIT (R257): Returns PHASE, or parks until the next phase completes. -/
  | hdWait (h : Hd) (m : MF)
  /-- HD_TEST (R257): Returns 1 where HD.WAIT would return, else 0; in DET it waits. -/
  | hdTest (h : Hd) (m : MF)
  /-- HD_XPCT (R256): Adds to the hurdle's EXPECT after commit. -/
  | hdXpct (h : Hd) (m : MF)
  /-- SPAWN (R332): Takes a future cell and creates an eager child frame at commit. -/
  | spawn (h : Hd) (extra : BitVec 8)
  /-- FREF (R333): Holds, lends or adopts references to a future. -/
  | fref (h : Hd)
  /-- FDROP (R333): Drops one held reference to a future. -/
  | fdrop (h : Hd)
  /-- FGET (R334): Reads a future cell, parking on EMPTY. -/
  | fget (h : Hd) (m : MF)
  /-- FSET (R334): Sets a future's value at the home after commit. -/
  | fset (h : Hd) (m : MF)
  /-- FTEST (R335): Delivers 1 if the future is FULL, else 0; in DET it waits. -/
  | ftest (h : Hd)
  /-- PEEK (R335): Delivers the cell's ST code without waiting. -/
  | peek (h : Hd)
  /-- LAUNCH (R336): Takes a launch slot and creates a launch's root frames at commit. -/
  | launch (h : Hd)
  /-- LWAIT (R337): Parks until the launch completes, then delivers its status. -/
  | lwait (h : Hd)
  /-- CANCEL (R338): Admits a cancel at a level's counter and cancels the level at commit. -/
  | cancel (h : Hd)
  /-- SEND (R340): Sends a token to a node input, needing a credit at commit. -/
  | send (h : Hd)
  /-- TDEF (R280): Defines a tile descriptor as a tile-table operation. -/
  | tdef (h : Hd) (tc : BitVec 6)
  /-- TSTATE (R281): Delivers half of a tile descriptor after earlier work on the tile. -/
  | tstate (h : Hd) (ta : BitVec 6) (hi : Bool)
  /-- TTEST (R281): Delivers 1 if the tile is READY; in DET it waits. -/
  | ttest (h : Hd) (ta : BitVec 6)
  /-- TFREE (R282): Folds AFL and empties a tile, or drains one ring slot unread. -/
  | tfree (h : Hd) (ta : BitVec 6)
  /-- TZERO (R283): A stall-local porter job that zeroes a tile. -/
  | tzero (h : Hd) (tc : BitVec 6) (nb : Bool)
  /-- TGET (R284): Delivers one element of a READY tile. -/
  | tget (h : Hd) (ta : BitVec 6) (nb : Bool)
  /-- TSET_E (R285): Writes one element of a READY tile at commit. -/
  | tsetE (h : Hd) (tc : BitVec 6)
  /-- TSET_LNK (R285): Sets a tile's width-map and scale links. -/
  | tsetLnk (h : Hd) (tc : BitVec 6)
  /-- TSET_EXP (R285): Sets the EXP of an EMPTY tile. -/
  | tsetExp (h : Hd) (tc : BitVec 6)
  /-- TRING (R286): Binds slot tiles as a ring to a stream port, or unbinds it. -/
  | tring (h : Hd) (ta tc : BitVec 6) (n : BitVec 4)
  /-- TCOPY (R283): A stall-local porter job that copies a tile together with its AFL. -/
  | tcopy (h : Hd) (ta tc : BitVec 6) (nb : Bool)
  /-- PLD (R288): A porter job that loads a tile from memory by card. -/
  | pld (h : Hd) (tc : BitVec 6) (nb : Bool) (cpl : BitVec 2)
  /-- PST (R289): A porter job that writes a tile's byte image to memory. -/
  | pst (h : Hd) (ta : BitVec 6) (nb : Bool) (cpl : BitVec 2)
  /-- PCPY (R290): A porter job that copies memory to memory. -/
  | pcpy (h : Hd) (cpl : BitVec 2)
  /-- PGAT (R291): A porter job that gathers indexed bytes into a tile. -/
  | pgat (h : Hd) (tc : BitVec 6) (nb : Bool) (cpl : BitVec 2)
  /-- PSCT (R291): A porter job that scatters tile bytes to indexed addresses. -/
  | psct (h : Hd) (ta : BitVec 6) (nb : Bool) (cpl : BitVec 2)
  /-- PRDC (R292): A porter job that reduces tile elements into memory atomically. -/
  | prdc (h : Hd) (ta : BitVec 6) (nb : Bool) (cpl : BitVec 2)
  /-- PXPD (R293): A porter job that expands 2:4-compressed data into a tile. -/
  | pxpd (h : Hd) (tc : BitVec 6) (nb : Bool) (cpl : BitVec 2)
  /-- PCMP (R293): A porter job that compresses a tile 2:4 into memory. -/
  | pcmp (h : Hd) (ta : BitVec 6) (nb : Bool) (cpl : BitVec 2)
  /-- PSTRM_IN (R294): A porter job that streams a memory pattern into a ring's slots. -/
  | pstrmIn (h : Hd) (tc : BitVec 6) (cpl : BitVec 2)
  /-- PSTRM_OUT (R294): A porter job that drains a ring's slots to a memory pattern. -/
  | pstrmOut (h : Hd) (tc : BitVec 6) (cpl : BitVec 2)
  /-- PBAR (R295): A porter inbox barrier for jobs naming a tile, or for all jobs. -/
  | pbar (h : Hd) (tile : Option (BitVec 6))
  /-- PPSET (R127): Sets the precision pair PP at commit. -/
  | ppset (h : Hd) (pa pb : BitVec 5)
  /-- PMMA_I (R128): Sends an integer bit-serial matrix product message at commit. -/
  | pmmaI (h : Hd) (p : PF)
  /-- PMMA_S (R128): Sends a block-scaled product message with promotion to FP32. -/
  | pmmaS (h : Hd) (p : PF)
  /-- PMMA_X (R128): Sends a binary XNOR-popcount product message. -/
  | pmmaX (h : Hd) (p : PF)
  /-- PMV_I (R129): Sends an integer matrix-vector product message. -/
  | pmvI (h : Hd) (p : PF)
  /-- PMV_S (R129): Sends a scaled matrix-vector product message. -/
  | pmvS (h : Hd) (p : PF)
  /-- PMV_X (R129): Sends a binary matrix-vector product message. -/
  | pmvX (h : Hd) (p : PF)
  /-- PZACC (R130): Sends a message that zeroes an accumulator tile and makes it READY. -/
  | pzacc (h : Hd) (tc : BitVec 6) (sq nb : Bool)
  /-- PWMAP (R131): Sends a message that computes the width map of a planar tile. -/
  | pwmap (h : Hd) (ta tc : BitVec 6) (nb : Bool)
  /-- SPT (R192): Sends an SPE upward-pass subtree message. -/
  | spt (t : SF) (acc : Bool)
  /-- SPD (R193): Sends an SPE downward adjoint-pass message. -/
  | spd (t : SF) (one : Bool)
  /-- SPLD (R198): Sends an SPE message that loads scratch entries from a tile. -/
  | spld (h : Hd) (ta : BitVec 6) (nb : Bool)
  /-- SPST (R198): Sends an SPE message that stores scratch entries into a tile. -/
  | spst (h : Hd) (tc : BitVec 6) (nb : Bool)
  /-- SPZ (R198): Sends an SPE message that clears scratch entries to 0 or to the SP32 zero. -/
  | spz (h : Hd) (sp : Bool)
  /-- SPFENCE (R199): Waits for the frame's earlier SPE messages, then delivers SPF. -/
  | spfence (h : Hd)
  /-- VADD (R169): Vector elementwise add message. -/
  | vadd (h : Hd) (v : VF3)
  /-- VSUB (R169): Vector elementwise subtract message. -/
  | vsub (h : Hd) (v : VF3)
  /-- VMUL (R169): Vector elementwise multiply message. -/
  | vmul (h : Hd) (v : VF3)
  /-- VFMA (R169): Vector fused multiply-add message merging into TC. -/
  | vfma (h : Hd) (v : VF3)
  /-- VFMS (R169): Vector fused multiply-subtract message merging into TC. -/
  | vfms (h : Hd) (v : VF3)
  /-- VMIN (R169): Vector elementwise minimum message. -/
  | vmin (h : Hd) (v : VF3)
  /-- VMAX (R169): Vector elementwise maximum message. -/
  | vmax (h : Hd) (v : VF3)
  /-- VABS (R169): Vector absolute value message. -/
  | vabs (h : Hd) (v : VF2)
  /-- VNEG (R169): Vector negation message. -/
  | vneg (h : Hd) (v : VF2)
  /-- VRCP (R170): Vector correctly rounded reciprocal message. -/
  | vrcp (h : Hd) (v : VF2)
  /-- VRSQ (R170): Vector reciprocal square root message. -/
  | vrsq (h : Hd) (v : VF2)
  /-- VDIV (R169): Vector elementwise division message. -/
  | vdiv (h : Hd) (v : VF3)
  /-- VSQRT (R170): Vector square root message. -/
  | vsqrt (h : Hd) (v : VF2)
  /-- VEXP2 (R170): Vector base-2 exponential message. -/
  | vexp2 (h : Hd) (v : VF2)
  /-- VLOG2 (R170): Vector base-2 logarithm message. -/
  | vlog2 (h : Hd) (v : VF2)
  /-- VCVT (R171): Vector format conversion message. -/
  | vcvt (h : Hd) (v : VF2)
  /-- VQNT (R173): Message that quantises word data into a planar tile, with optional scales and width map. -/
  | vqnt (h : Hd) (v : VF3) (wm : Bool)
  /-- VDQNT (R174): Message that dequantises a planar tile into word data. -/
  | vdqnt (h : Hd) (v : VF2)
  /-- VSCL (R175): Message that applies or removes E8 scales. -/
  | vscl (h : Hd) (v : VF3) (dv : Bool)
  /-- VRED (R177): Fixed-tree reduction message per row or over the whole tile. -/
  | vred (h : Hd) (v : VF2) (op : RedOp) (all : Bool)
  /-- VSCAN (R178): Fixed-tree inclusive prefix message. -/
  | vscan (h : Hd) (v : VF2) (op : RedOp) (all : Bool)
  /-- VBCAST (R179): Broadcasts a token or a single row into a tile. -/
  | vbcast (h : Hd) (src : Option (BitVec 6)) (tc : BitVec 6) (nb : Bool)
  /-- VPERM (R179): Permutes lanes within rows by an index tile. -/
  | vperm (h : Hd) (v : VF3)
  /-- VSEL (R179): Merges the elements of TA into TC under a mask. -/
  | vsel (h : Hd) (v : VF3)
  /-- VCMP (R179): Elementwise comparison into INT32 0 or 1. -/
  | vcmp (h : Hd) (v : VF3) (cc : VCond)
  /-- VAND (R179): Bitwise AND of 32-bit patterns. -/
  | vand (h : Hd) (v : VF3)
  /-- VOR (R179): Bitwise OR of 32-bit patterns. -/
  | vor (h : Hd) (v : VF3)
  /-- VXOR (R179): Bitwise exclusive OR of 32-bit patterns. -/
  | vxor (h : Hd) (v : VF3)
  /-- VSHL (R179): Shifts elements left by a count or a per-element count. -/
  | vshl (h : Hd) (v : VF2) (cnt : ShCount)
  /-- VSHR (R179): Shifts elements right, logical or arithmetic. -/
  | vshr (h : Hd) (v : VF2) (cnt : ShCount) (ar : Bool)
  /-- VPOPC (R179): Counts the ones of each element. -/
  | vpopc (h : Hd) (v : VF2)
  /-- VIOTA (R179): Writes each element's own index. -/
  | viota (h : Hd) (tc : BitVec 6) (nb : Bool)
  /-- VISECT (R181): Writes the intersection positions of two bitmaps. -/
  | visect (h : Hd) (v : VF3)
  /-- VPFX (R182): Computes popcount prefixes or ranks of a bitmap. -/
  | vpfx (h : Hd) (v : VF2) (rank : Option (BitVec 6))
  /-- VGAT (R183): Gathers elements or bytes through an index tile. -/
  | vgat (h : Hd) (v : VF3) (bytes : Bool)
  /-- VSCT (R184): Scatters elements into TC through an index tile. -/
  | vsct (h : Hd) (v : VF3)
  /-- VDOT8 (R185): Exact INT8 dot product per row of packed bytes. -/
  | vdot8 (h : Hd) (v : VF3)
  /-- RED (R306): Contributes a node value to a reduction object after commit. -/
  | red (h : Hd)
  /-- RDINIT (R305): Takes a reduction object and delivers its handle. -/
  | rdinit (h : Hd)
  /-- RDINIT_FREE (R305): Frees a live reduction object at commit. -/
  | rdinitFree (h : Hd)
  /-- RDWAIT (R312): Parks until the object completes, then delivers the result. -/
  | rdwait (h : Hd)
  /-- RDWAIT_F (R312): Parks until the object completes, then delivers its flags. -/
  | rdwaitF (h : Hd)
  /-- XSEND (R316): A porter job that sends a tile to another part by key. -/
  | xsend (h : Hd) (ta : BitVec 6) (nb : Bool)
  /-- XRECV (R318): A fill job that receives a matching remote tile message. -/
  | xrecv (h : Hd) (tc : BitVec 6) (nb : Bool)
  /-- SVC (R447): At commit, holds the frame before its successor and raises an SVC record. -/
  | svc (h : Hd) (imm : W32)
  /-- TRAP (R448): Faults its block with class TRAP. -/
  | trap (h : Hd) (imm : W32)
  /-- BKPT (R419): Stops the frame in a debuggable context, or faults BREAKPOINT otherwise. -/
  | bkpt (h : Hd) (code : BitVec 8)
  /-- ERET (R450): Ends the handler frame and resumes the held frame or reruns the paused job. -/
  | eret (h : Hd)
  /-- ERET_END (R450): Ends the handler frame and ends the held frame or abandons the job. -/
  | eretEnd (h : Hd)
  /-- ERET_REDIR (R450): Ends the handler frame and resumes the held frame at block L with g0 := R. -/
  | eretRedir (h : Hd)
  /-- CSRR (R444): Reads a frame control or handler register. -/
  | csrr (h : Hd) (n : BitVec 12)
  /-- CSRW (R444): Writes a frame control or handler register at commit. -/
  | csrw (h : Hd) (n : BitVec 12)
  /-- MARK (R419): Writes a trace marker record at commit when traced. -/
  | mark (h : Hd) (imm : W32)
  /-- MARK_V (R419): Writes a trace marker record carrying 16 bits of L. -/
  | markV (h : Hd) (imm : W32)
  /-- FLTRD (R446): Delivers one word of the handler's fault record. -/
  | fltrd (h : Hd)
  /-- HINT (R62): A hint-region opcode that fires at mapping and does nothing. -/
  | hint (opc : BitVec 3)
  /-- FRAME_SERVE (R363): The stall takes the least ready frame under the serving key into its frame table. -/
  | frameServe (st : Nat)
  /-- BLOCK_FETCH (R366): The block engine fetches a frame's next block whole. -/
  | blockFetch (fid : Nat) (stale : Bool)
  /-- BLOCK_MAP (R366): The fetched block is mapped onto slots and its empty-operand instructions fire. -/
  | blockMap (fid : Nat)
  /-- SPECULATIVE_MAP (R370): The next-block predictor maps a speculative block beyond the frame's non-speculative block. -/
  | speculativeMap (fid addr : Nat)
  /-- OPERAND_TOKEN_ARRIVAL (R368): A result token crosses the operand mesh and reaches a consumer slot. -/
  | operandTokenArrival (bid k : Nat)
  /-- BLOCK_COMMIT (R46): A complete block commits its writes, spawns, CSRWs and flags together, and its messages leave in slot order. -/
  | blockCommit (bid : Nat)
  /-- HANDLER_FRAME_CREATE (R436): A handler frame is created for a waiting record once a handler frame record is free. -/
  | handlerFrameCreate (hall : Nat)
  /-- ATOMIC_ADMIT (R243): An atomic is admitted at its home once no atomic is pending on its word, and reads the old value. -/
  | atomicAdmit (op : Nat)
  /-- MEM_READ_RESPONSE (R234): A read's data returns from its home and is delivered as a token. -/
  | memReadResponse (op : Nat) (err : Bool)
  /-- PAGE_WALK_DONE (R390): A page-table walk ends with a translation or a fault. -/
  | pageWalkDone (w : Nat)
  /-- STORE_PERFORM (R239): A committed write performs at its home slice. -/
  | storePerform (k : Nat) (err : Bool)
  /-- HURDLE_UPDATE_PERFORM (R256): An HD.INIT, HD.ARR, HD.XPCT or job arrival performs at the hurdle's home. -/
  | hurdleUpdatePerform (k : Nat) (err : Bool)
  /-- MCAST_DELIVERY (R249): A multicast delivery reaches its consumer tile and is accepted or dropped. -/
  | mcastDelivery (k : Nat)
  /-- FUTURE_CELL_FSET (R330): An FSET reaches the cell's home and fills it, releasing its waiters. -/
  | futureCellFset (k : Nat)
  /-- FUTURE_REACH_CHANGE (R330): A reference change reaches the cell's home and may reclaim the producer or free the cell. -/
  | futureReachChange (k : Nat)
  /-- PRODUCER_END (R332): The producer's end reaches its own cell and fills an EMPTY cell with NOVAL. -/
  | producerEnd (k : Nat)
  /-- CONTINUATION_UNLINK (R329): A DEAD mark reaches the home and the reclaimed waiter's record is unlinked. -/
  | continuationUnlink (k : Nat)
  /-- TOKEN_ARRIVAL (R347): A token reaches a node's matching store under its (node, input, tag) key. -/
  | tokenArrival (k : Nat)
  /-- LEVEL_COUNTER_UPDATE (R19): An increment, decrement or cancel is ordered at a level's counter, completing or cancelling the level. -/
  | levelCounterUpdate (k : Nat)
  /-- RECLAIM_REQUEST (R342): A reclamation request reaches the frame's stall and runs the reclamation steps. -/
  | reclaimRequest (k : Nat)
  /-- HEAT_CELLS_FREE (R253): A cancelled heat's cells are freed and its tag returns once its count and writes drain. -/
  | heatCellsFree (ctx tag : Nat)
  /-- CALLROOM_OVERFLOW_ENTRY (R361): A frame from the overflow list enters the call room as space frees. -/
  | callroomOverflowEntry (hall : Nat)
  /-- PA_MESSAGE_START (R119): The plane array starts the oldest message that meets the tile and sequence rules. -/
  | paMessageStart (st : Nat)
  /-- PA_CHUNK_END (R125): A K chunk ends, its residues are checked, and it may be re-executed or stopped. -/
  | paChunkEnd (st : Nat) (ok : Bool)
  /-- PA_MESSAGE_COMPLETE (R128): After its cycles the message completes and TC becomes READY. -/
  | paMessageComplete (st : Nat)
  /-- VEC_MESSAGE_START (R160): The vector unit starts the oldest message that can start. -/
  | vecMessageStart (st : Nat)
  /-- VEC_ROW_END (R166): A result row ends and is checked by residue mod 3. -/
  | vecRowEnd (st : Nat) (ok : Bool)
  /-- VEC_MESSAGE_COMPLETE (R159): The message's count ends and its destinations become READY. -/
  | vecMessageComplete (st : Nat)
  /-- SPE_MESSAGE_ISSUE (R203): The SPE issues the next inbox message at the earliest allowed cycle. -/
  | speMessageIssue (st : Nat)
  /-- SPE_MESSAGE_COMPLETE (R202): An SPE message's writes, tile transition and flags take effect. -/
  | speMessageComplete (st : Nat) (ok : Bool)
  /-- TILE_TABLE_OP_APPLY (R262): A TDEF, TFREE, TSET or TRING applies in stall order once the earlier work has passed. -/
  | tileTableOpApply (st k : Nat)
  /-- PORTER_JOB_ACCEPT (R273): The porter reads and checks a job's card and enters its footprint, or rejects or holds it. -/
  | porterJobAccept (st : Nat)
  /-- PORTER_JOB_START (R273): The porter starts the oldest accepted job that meets footprint, stall order and the tile rule. -/
  | porterJobStart (st : Nat)
  /-- PORTER_ROUND_START (R274): A job round translates and reads its bytes. -/
  | porterRoundStart (st job : Nat)
  /-- PORTER_ROUND_COMPLETE (R274): A round completes and performs its writes. -/
  | porterRoundComplete (st job : Nat) (err : Bool)
  /-- PORTER_JOB_COMPLETE (R277): A job's destinations follow R274 and its completion action occurs. -/
  | porterJobComplete (st job : Nat)
  /-- TILE_PAGE_REFILL (R455): A tile page is refilled from its backing and pinned, and the waiting access proceeds. -/
  | tilePageRefill (st page : Nat) (err : Bool)
  /-- XMSG_ARRIVE (R317): A remote tile message reaches the destination hall's remote store. -/
  | xmsgArrive (k : Nat)
  /-- RED_CONTRIBUTION_ARRIVE (R307): A contribution reaches its reduction object and is combined by tag or by arrival. -/
  | redContributionArrive (k : Nat)
  /-- RED_PART_FORWARD_ARRIVE (R310): A node forwarded between parts arrives at its owning part. -/
  | redPartForwardArrive (k : Nat)
  /-- RED_RESULT_ARRIVE (R310): Part 0's result arrives at a part, which then completes. -/
  | redResultArrive (k : Nat)
  /-- STUCK_DETECTION (R379): The Starters find the context stuck and raise one DEADLOCK or HEAT_EXHAUSTED record. -/
  | stuckDetection (ctx : Nat)
  /-- INGRESS_SLOT_WRITE (R352): A host write to an ingress slot is stored, or dropped as an overrun. -/
  | ingressSlotWrite (ctx slot word : Nat) (val : W64) (ide : Bool)
  /-- LAUNCH_PACKET (R354): An accepted LAUNCH packet opens a launch with its gate, heat and argument. -/
  | launchPacket (ctx : Nat)
  /-- TOKEN_PACKET (R354): An accepted TOKEN packet sends a token once it holds a credit. -/
  | tokenPacket (ctx : Nat)
  /-- CANCEL_PACKET (R354): An accepted CANCEL packet cancels a level at once. -/
  | cancelPacket (ctx : Nat)
  /-- START_PACKET (R428): An accepted START packet opens a capture window. -/
  | startPacket (ctx : Nat)
  /-- STOP_PACKET (R428): An accepted STOP packet closes the capture window. -/
  | stopPacket (ctx : Nat)
  /-- IMAGE_LOAD (R355): Losel reads, measures, checks and maps a graph image for held packets. -/
  | imageLoad (ctx : Nat) (cut : List (Nat × Nat)) (pages : List Nat)
  /-- INSTANCE_SOURCE_RELEASE (R321): After every part acknowledges, part 0 releases the instance's sources. -/
  | instanceSourceRelease (inst : Nat) (allLoaded : Bool)
  /-- COMPLETION_ENTRY_POST (R356): The bridge writes a completion entry once the queue has room. -/
  | completionEntryPost (ctx : Nat)
  /-- CQ_HEAD_WRITE (R356): The host consumes completion entries by writing the queue head. -/
  | cqHeadWrite (ctx head : Nat)
  /-- CTX_CREATE (R382): Firmware creates a context with its parameters, or refuses. -/
  | ctxCreate (p : CtxParams)
  /-- CTX_RUN (R382): Lets a pre-empted context run. -/
  | ctxRun (ctx : Nat)
  /-- CTX_DESTROY (R385): Discards a context's work, releases its resources and zeroes its stalls. -/
  | ctxDestroy (ctx : Nat)
  /-- CTX_CHANGE (R20): Firmware changes a pre-empted context's cache class, pools or limits. -/
  | ctxChange (ctx : Nat) (c : CtxChange)
  /-- REPITCH (R365): Firmware moves a pre-empted context's saved stall states to a new pitch. -/
  | repitch (ctx : Nat) (pitch : List Nat)
  /-- CLASS_SET (R383): Writes a cache class's way mask and admission rate at slices. -/
  | classSet (hall : Nat) (slice : Option Nat) (cls : Nat) (ways : W16) (rate : Nat)
  /-- CLASS_GET (R384): Returns a class-table entry and its sectors served. -/
  | classGet (hall slice cls : Nat)
  /-- ADMISSION_WINDOW (R378): At each 1,024-cycle boundary a slice refills its class token buckets and applies pending class settings. -/
  | admissionWindow (hall slice : Nat)
  /-- TLB_INVAL (R397): Drops a context's cached translations and sends drain tokens. -/
  | tlbInval (ctx va len : Nat)
  /-- DRAIN_TOKEN_ARRIVE (R397): A drain token reaches the memory edge; when all have arrived, the invalidation is acknowledged. -/
  | drainTokenArrive (k : Nat)
  /-- BLOCK_INVAL (R67): Invalidates the context's block caches. -/
  | blockInval (ctx : Nat)
  /-- PAIR_DELEGATE (R405): Delegates a slice pair and maps its control page into a context. -/
  | pairDelegate (ctx hall pair va : Nat) (tables : List Nat)
  /-- PAIR_RELEASE (R405): Shrinks the pair's window to 0, unmaps its pages and takes the pair back. -/
  | pairRelease (hall pair : Nat)
  /-- WPR_WRITE (R402): A store to WPR is refused or starts a scratch-way change. -/
  | wprWrite (k : Nat)
  /-- WPR_PHASE1_END (R403): The last conflicting job ends and phase 2 of the change begins. -/
  | wprPhase1End (hall pair : Nat)
  /-- WPR_CHANGE_END (R404): Phase 2 ends: CUR updates, held jobs are rejected and the hurdle receives an arrival. -/
  | wprChangeEnd (hall pair : Nat)
  /-- REGISTER_WRITE (R402): A store to a pair-control register without behaviour of its own. -/
  | registerWrite (k : Nat)
  /-- MIGR_THRESH_SET (R406): The driver sets the migration threshold. -/
  | migrThreshSet (n : Nat)
  /-- MIGR_CLEAR (R407): Clears QUEUED and COUNT for a host page. -/
  | migrClear (page : Nat)
  /-- ATTEST (R412): Returns a signed attestation report for a context. -/
  | attest (ctx : Nat) (nonce : BitVec 256)
  /-- DBG_BP (R415): Writes a block-address breakpoint entry. -/
  | dbgBp (ctx idx : Nat) (entry : W64) (sealedOk : Bool)
  /-- DBG_WP (R415): Writes a data watchpoint entry. -/
  | dbgWp (ctx idx : Nat) (entry : W128) (sealedOk : Bool)
  /-- DBG_HALT (R421): Stops every frame of a launch or context. -/
  | dbgHalt (ctx : Nat) (slot : Option Nat) (sealedOk : Bool)
  /-- DBG_RESUME (R422): Resumes a stopped frame, optionally passing or stepping. -/
  | dbgResume (ctx ref : Nat) (pass stp sealedOk : Bool)
  /-- DBG_READ (R415): Returns frame or stall state. -/
  | dbgRead (ctx : Nat) (what : DbgWhat) (sealedOk : Bool)
  /-- DBG_WRITE (R415): Writes a register of a stopped frame. -/
  | dbgWrite (ctx ref : Nat) (reg : BitVec 5) (val : W64) (sealedOk : Bool)
  /-- TRACE_SET (R426): Sets the trace ring and its controls and resets its pointers. -/
  | traceSet (ctx : Nat) (w0 w1 : W64) (sealedOk : Bool)
  /-- TRACE_ROOM_RETURN (R427): Room returns in a full trace ring; held records proceed, or a loss record is written. -/
  | traceRoomReturn (ctx : Nat)
  /-- CRIT_PATH_WALK_STEP (R430): A walk arrives at a stall, writes a step record and moves to the origin. -/
  | critPathWalkStep (k : Nat)
  /-- CNT_READ (R431): Reads a stall or context counter. -/
  | cntRead (ofStall : Bool) (which counter : Nat) (sealedOk : Bool)
  /-- PACER_OPEN (R375): Reserves a diagonal of vector-network slots for a connection. -/
  | pacerOpen (hall : Nat) (cmd : W64)
  /-- PACER_CLOSE (R375): Frees a connection's slots. -/
  | pacerClose (hall : Nat) (cmd : W64)
  /-- PACER_QUERY (R375): Reports a connection's first slot without change. -/
  | pacerQuery (hall : Nat) (cmd : W64)
  /-- SLOT_TABLE_UPDATE (R375): A pacer edit takes effect at all routers at the next period boundary. -/
  | slotTableUpdate (hall : Nat)
  /-- PREEMPT (R452): Firmware pre-empts a stall, which commits or discards blocks, stops engines and saves its state. -/
  | preempt (st : Nat)
  /-- STALL_RESUME (R454): A resumed stall restores its saved state and continues. -/
  | stallResume (st : Nat)
  /-- HALL_STATUS (R461): Returns each hall's state. -/
  | hallStatus
  /-- FUSE_READ (R461): Returns the part number and the enabled-unit bitmaps. -/
  | fuseRead
  /-- HALL_RESET (R462): Resets one hall warm or cold and reruns stage C. -/
  | hallReset (hall : Nat) (cold : Bool)
  /-- LOST_CLEAR (R457): Clears a lost-sector entry. -/
  | lostClear (hall pa : Nat)
  /-- BRIDGE_FLIT_BAD_CHECK (R322): A hall-bridge flit received with a bad check is negatively acknowledged and replayed. -/
  | bridgeFlitBadCheck (bridge seq : Nat)
  /-- REPLAY_ENTRY_LOST (R459): A destroyed replay-buffer entry is rebuilt from the retained packet buffer. -/
  | replayEntryLost (bridge seq : Nat) (retainedOk : Bool)
  /-- UE_PACKET_TRIMMED (R323): A trimmed Ultra Ethernet packet is treated as lost and retransmitted. -/
  | uePacketTrimmed (pkt : Nat)
  /-- TDISP_REQUEST (R411): A TDISP request moves a confidential context's interface between its states. -/
  | tdispRequest (ctx : Nat) (req : TdispReq)
  /-- POWER_GOOD (R460): Power-good starts stage A on standby power. -/
  | powerGood
  /-- STAGE_B (R460): Firmware is verified and measured, and the hall interleave is chosen. -/
  | stageB (ok : FirmwareCheck) (il : Interleave)
  /-- STAGE_C (R460): A hall trains DRAM, self-tests, reads its fuse map and becomes AVAILABLE. -/
  | stageC (hall : Nat) (fuse : FuseMap)
  /-- POWER_ENVELOPE_EXCEEDED (R7): The power controller lowers island frequencies to stay within 2,400 W. -/
  | powerEnvelopeExceeded (watts : Nat) (islands : List (Nat × Nat))
  /-- JUNCTION_LIMIT (R463): Above 105 °C islands are lowered; at 115 °C the hall stops and is FAILED. -/
  | junctionLimit (hall temp : Nat) (islands : List (Nat × Nat))
  /-- RESERVED_TYPE_PACKET (R353): An accepted ingress packet whose TYPE is reserved is rejected with status BAD_PACKET and has no other effect. -/
  | reservedTypePacket (ctx : Nat)
  /-- TRANSPORT_PARAMETER_SET (R323): System software sets Ultra Ethernet congestion parameters, fabric addresses and package numbers through the Huost mailbox. -/
  | transportParameterSet (p : Transport)
  /-- LINK_LEVEL_RETRY (R459): An Ultra Ethernet port that receives a frame in error repairs it with link-level retry, then with RUD or ROD retransmission end to end. -/
  | linkLevelRetry (port pkt : Nat) (repaired : Bool)
  /-- MAILBOX_MEMORY_ACCESS (R410): A mailbox memory access command reads or writes context memory, and is refused for pages of a confidential context. -/
  | mailboxMemoryAccess (ctx va len : Nat) (data : Option (List Byte))
  /-- PAGE_MAP (R386): At the driver's request, firmware maps a physical page into a context, zeroing it first unless content was already written for that context. -/
  | pageMap (ctx va pa lvl : Nat) (flags : BitVec 12) (keep : Bool) (tables : List Nat)
  /-- INGRESS_GRANT_SET (R339): Firmware sets an entry of a context's ingress grant table naming another context's ingress. -/
  | ingressGrantSet (ctx idx : Nat) (target : Option Nat)
  deriving DecidableEq, Repr, Inhabited

end Sys2Proof
end

