-- ==== Sys2Proof/Config.lean ====
section
/-! DEFINITION. What an implementation fixes or leaves open: the free values of the model (opaque, without a body), the
schedule's actions, and what may arrive from other packages. Every opaque constant is named in a log entry. -/
namespace Sys2Proof

/-- A tile carried by XSEND to another part (11_determinism.md R316), as it stands on the link. -/
structure RemoteTile where
  inst : Nat
  /-- destination part -/
  dst  : Nat
  /-- source part -/
  src  : Nat
  chan : Nat
  sqn  : Nat
  lay  : Bool
  fmt  : Nat
  wid  : BitVec 4
  shape : BitVec 12
  sc   : Bool
  afl  : BitVec 5
  image : List Byte
  deriving DecidableEq, Repr, Inhabited

/-- What reaches this package from another one over Ultra Ethernet (R323): tokens, reduction traffic, remote tiles. -/
inductive UeItem where
  | token (inst node input : Nat) (value : W64) (tag : W16)
  | contribution (hall slot lvl idx : Nat) (value : W64)
  | forward (inst : Nat) (key : W16) (part lvl idx : Nat) (value : W64) (desc : W64) (flags : BitVec 5)
  | partValue (inst : Nat) (key : W16) (part covered : Nat) (value : W64) (desc : W64) (flags : BitVec 5)
  | result (inst : Nat) (key : W16) (part : Nat) (value : W64) (desc : W64) (flags : BitVec 5)
  | tile (t : RemoteTile)
  /-- a credit of a cut edge comes back (R320) -/
  | credit (inst node input : Nat)
  /-- an instance that was cancelled or has failed ends in every part (R321) -/
  | endInst (inst : Nat)
  /-- a part of a context's image failed to load: its hall and ordinal (R321) -/
  | loadFailed (ctx image hall part : Nat)
  /-- an object has broken in every part (R310, R313) -/
  | redBreak (inst : Nat) (key : W16)
  /-- a part of an object has been freed there (R310) -/
  | redFree (inst : Nat) (key : W16) (part parts : Nat)
  deriving DecidableEq, Repr, Inhabited

/-- An uncorrectable error that no other event carries (R456): where it is met. -/
inductive SoftError where
  /-- a tile row read by the running plane-array, vector, SPE or porter work of a stall -/
  | planeTile (st : Nat)
  | vectorTile (st : Nat)
  | speTile (st : Nat)
  | jobTile (st job : Nat)
  /-- the frame table or a frame-spill row -/
  | frameRecord (fid : Nat)
  /-- a token FIFO: the instance and the node -/
  | tokenFifo (inst node : Nat)
  /-- a pair of SPE scratch entries -/
  | scratchPair (st pair : Nat)
  /-- a sector at its home: DRAM, a scratch window -/
  | sector (pa : Nat)
  /-- data of the cache line that holds an address -/
  | cacheData (pa : Nat)
  /-- a row of tags: the set of an address at its home slice -/
  | cacheTags (pa : Nat)
  /-- an entry of a hall's TLB, of a stall's, or a block of a stall's block cache: dropped, and walked or fetched again -/
  | tlbEntry (hall idx : Nat)
  | stallTlbEntry (st idx : Nat)
  | cachedBlock (st idx : Nat)
  /-- a range entry of a stall: dropped, and its pages are walked -/
  | rangeEntry (st idx : Nat)
  /-- a row of a heat directory: the cell of a heat's sector -/
  | heatDirectory (ctx heat sector : Nat)
  /-- a row of a footprint table: that of a job of a stall -/
  | footprint (st job : Nat)
  /-- an error that is corrected: counted, and nothing else -/
  | corrected (hall : Nat)
  deriving DecidableEq, Repr, Inhabited

/-- What the host driver reads through the mailbox, by context or hall (R249, R323, R352, R358, R407, R409, R433, R435, R456). -/
inductive MailRead where
  | droppedDeliveries (ctx : Nat)
  | overruns (ctx : Nat)
  | loadLog (ctx : Nat)
  | firmwareLog (hall : Nat)
  | droppedReports (hall : Nat)
  | correctedErrors (hall : Nat)
  | droppedNotices
  | links
  | completion (ctx index : Nat)
  | power (hall : Nat)
  deriving DecidableEq, Repr, Inhabited

/-- One action of the schedule. The machine has many agents and the manual leaves their interleaving open
(00_scope.md R5; 08_memory_model.md): plain data in the state says which acts next. -/
inductive Act where
  /-- the block engine issues the instruction in a slot of a mapped block (R42, R367) -/
  | fire (bid slot : Nat)
  /-- an operation or event of the opcode table happens -/
  | event (i : Instr)
  /-- a stall's clock advances (R5, R29) -/
  | clock (st n : Nat)
  /-- the host writes its own memory, reached through the host window (R387) -/
  | hostWrite (pa : Nat) (b : Byte)
  /-- the host driver takes entries from the migration notification ring (R407) -/
  | noticesTaken (n : Nat)
  /-- the host driver reads the mailbox -/
  | mailRead (what : MailRead)
  /-- the host reads a word of a context's ingress port page, by its byte offset (R351) -/
  | portRead (ctx ofs : Nat)
  /-- traffic of another package arrives on an Ethernet port (R323) -/
  | ueArrive (port : Nat) (x : UeItem)
  /-- an uncorrectable or corrected error occurs (R456) -/
  | softError (x : SoftError)
  deriving DecidableEq, Repr, Inhabited

namespace Config

/-- The next action when the schedule of the state holds none: nothing constrains it (DESIGN CHOICE, log 1). -/
opaque freeAct : Nat → Act

/-- A free choice among free resources of a pool (R482), applied to the state's draw counter (DESIGN CHOICE, log 2). -/
opaque pick : Nat → Nat

/-- Where in its context's frame area the hardware writes the continuation record of a waiting instruction (R329 gives no address), in
records of 16 bytes, by the number of its block and its slot (DESIGN CHOICE, log 3). -/
opaque contRecord : Nat → Nat → BitVec 52

/-- The residue syndrome in the extra word of ARITH_RETRY_FAIL and STALL_SUSPECT (R441: not further defined; DESIGN CHOICE, log 4). -/
opaque syndrome : Nat → W64

/-- The job handle in the extra word of a paused job's record (R275, R441), by the job's number (DESIGN CHOICE, log 5). -/
opaque jobHandle : Nat → W32

/-- SHA-384 of the running firmware (R412 FWM; DESIGN CHOICE, log 6). -/
opaque firmwareHash : BitVec 384

/-- SHA-384 of the device identity public keys (R412 DEVID; DESIGN CHOICE, log 6). -/
opaque deviceIdHash : BitVec 384

/-- The RSASSA-PSS signature of R412 over the report's first 208 bytes (DESIGN CHOICE, log 6). -/
opaque signRsa : List Byte → List Byte

/-- The SLH-DSA signature of R412 over the report's first 208 bytes (DESIGN CHOICE, log 6). -/
opaque signSlh : List Byte → List Byte

/-- A translation attribute choice the manual does not promise: which of sixteen unlike entries of a 64 KiB page a
translation uses (R393; DESIGN CHOICE, log 7). -/
opaque c64kEntry : Nat → BitVec 4

/-- VA[55:0] of the graph image that a token sent through an ingress grant names at the target context's port, by context and
grant index: R339 says only that the grant names another context's ingress (DESIGN CHOICE, log 8). -/
opaque grantImage : Nat → Nat → BitVec 56

/-- What a byte of a destination tile holds after its engine message was abandoned: the earlier content is lost (R124, R165), and no
rule says what stands there; by the draw counter and the byte's index (DESIGN CHOICE, log 10). -/
opaque lostByte : Nat → Nat → Byte

/-- Bytes of a token-FIFO bank that one token takes: R347 keeps tokens there and R358 rejects an image whose need passes what the banks
hold, but no rule gives a token's size (DESIGN CHOICE, log 112). -/
opaque tokenBytes : Nat

/-- 64 KiB pages of the host span that the migration table is configured for (R406; DESIGN CHOICE, log 121). -/
opaque hostSpan : Nat

/-- The AES-XTS-256 key that the management engine draws from its random source, by the draw counter (R410; DESIGN CHOICE, log 122). -/
opaque drawKey : Nat → BitVec 512

/-- AES-XTS-256 (IEEE 1619) on one 16-byte block of a 128-byte data unit, by the key, the tweak PA[51:7] and the block's index: the
permutation it is, written as the transpositions it is a product of (R410; DESIGN CHOICE, log 122). -/
opaque xtsSwaps : BitVec 512 → BitVec 128 → Nat → List (BitVec 128 × BitVec 128)

/-- The node of the image of `grantImage` (DESIGN CHOICE, log 8). -/
opaque grantNode : Nat → Nat → BitVec 12

end Config

end Sys2Proof
end

