-- ==== Sys2Proof/WellFormed.lean ====
section
/-! DEFINITION. Which instruction words are well formed: the operand sets of R42 and R45, the tokens of R53, and the value
ranges of R55, R57, R135, R143, R144, R127, R168, R237, R331. A word that breaks a check is the ILLEGAL cause of R63 that
the check names. Events carry no encoding and are no instruction words. -/
namespace Sys2Proof

/-- A required operand set (R42): left, right and third operand. -/
structure OpSet where
  l : Bool
  r : Bool
  p : Bool
  deriving DecidableEq, Repr, Inhabited

namespace OpSet
def none : OpSet := ⟨false, false, false⟩
def onlyL : OpSet := ⟨true, false, false⟩
def lr : OpSet := ⟨true, true, false⟩
def lrp : OpSet := ⟨true, true, true⟩
end OpSet

/-- The operands of a load form by heat mode (R56): the address alone, or heat and address. -/
def MF.loadOps (m : MF) : OpSet := if m.hm = .explicit then .lr else .onlyL

/-- The operands of a storing form by heat mode (R56, R45): address and data, or heat, address and, on the third operand,
data. -/
def MF.storeOps (m : MF) : OpSet := if m.hm = .explicit then .lrp else .lr

/-- The operand set of a porter job (R277): the card, and the completion target where CPL is not 0. -/
def cplOps (cpl : BitVec 2) : OpSet := if cpl = 0 then .onlyL else .lr

/-- The operand set of a message that may carry a sequence number (R120). -/
def seqOps (sq : Bool) : OpSet := if sq then .onlyL else .none

/-- The operands an instruction word requires beside its predicate (R42; R136, R139, R141, R143, R146, R237, R250, R279,
R303, R314, R331, R443). -/
def Instr.operands : Instr → OpSet
  | .bro _ _ _ => .none
  | .bri _ _ => .onlyL
  | .call _ _ _ => .none
  | .ret _ _ => .none
  | .fend _ => .none
  | .iter _ => .none
  | .null _ _ => .none
  | .mnull _ _ => .none
  | .grd _ _ => .none
  | .gwr _ _ => .onlyL
  | .movi _ _ => .none
  | .movhi _ _ => .onlyL
  | .mov _ => .onlyL
  | .sel _ => .lrp
  | .tst _ _ => .lr
  | .nop _ => .none
  | .yld _ => .none
  | .add _ _ => .lr
  | .sub _ _ => .lr
  | .mul _ _ => .lr
  | .mulh _ _ => .lr
  | .mulhu _ _ => .lr
  | .div _ _ => .lr
  | .divu _ _ => .lr
  | .rem _ _ => .lr
  | .remu _ _ => .lr
  | .and _ _ => .lr
  | .or _ _ => .lr
  | .xor _ _ => .lr
  | .andn _ _ => .lr
  | .shl _ _ => .lr
  | .shr _ _ => .lr
  | .sar _ _ => .lr
  | .rotl _ _ => .lr
  | .clz _ _ => .onlyL
  | .ctz _ _ => .onlyL
  | .popc _ _ => .onlyL
  | .min _ _ => .lr
  | .max _ _ => .lr
  | .minu _ _ => .lr
  | .maxu _ _ => .lr
  | .abs _ _ => .onlyL
  | .addsh _ _ _ => .lr
  | .addi _ _ _ => .onlyL
  | .andi _ _ => .onlyL
  | .ori _ _ => .onlyL
  | .xori _ _ => .onlyL
  | .shli _ _ _ => .onlyL
  | .shri _ _ _ => .onlyL
  | .sari _ _ _ => .onlyL
  | .sext _ _ => .onlyL
  | .zext _ _ => .onlyL
  | .bfx _ _ _ _ => .onlyL
  | .bfi _ _ _ => .lr
  | .fadd _ => .lr
  | .fsub _ => .lr
  | .fmul _ => .lr
  | .ffma _ => .lrp
  | .fdiv _ => .lr
  | .fsqrt _ => .onlyL
  | .fmin _ => .lr
  | .fmax _ => .lr
  | .ftst _ _ => .lr
  | .fcvt _ _ _ => .onlyL
  | .fclass _ => .onlyL
  | .frnd _ _ => .onlyL
  | .fsgn _ _ => .lr
  | .ld _ m => m.loadOps
  | .st _ m => m.storeOps
  | .ldh _ _ => .lr
  | .lds _ m => m.loadOps
  | .pref _ m => m.loadOps
  | .amoAdd _ m => m.storeOps
  | .amoAnd _ m => m.storeOps
  | .amoOr _ m => m.storeOps
  | .amoXor _ m => m.storeOps
  | .amoSwap _ m => m.storeOps
  | .amoMin _ m => m.storeOps
  | .amoMax _ m => m.storeOps
  | .cas _ _ => .lrp
  | .fence _ _ => .none
  | .stmc _ m => m.storeOps
  | .htNew _ => .none
  | .htEnd _ => .none
  | .htCancel _ => .onlyL
  | .hdInit _ _ => .lr
  | .hdArr _ _ => .lr
  | .hdWait _ _ => .lr
  | .hdTest _ _ => .lr
  | .hdXpct _ _ => .lr
  | .spawn _ _ => .lr
  | .fref _ => .lr
  | .fdrop _ => .onlyL
  | .fget _ _ => .onlyL
  | .fset _ _ => .lr
  | .ftest _ => .onlyL
  | .peek _ => .onlyL
  | .launch _ => .lr
  | .lwait _ => .onlyL
  | .cancel _ => .lr
  | .send _ => .lr
  | .tdef _ _ => .lr
  | .tstate _ _ _ => .none
  | .ttest _ _ => .none
  | .tfree _ _ => .none
  | .tzero _ _ _ => .none
  | .tget _ _ _ => .onlyL
  | .tsetE _ _ => .lr
  | .tsetLnk _ _ => .onlyL
  | .tsetExp _ _ => .onlyL
  | .tring _ _ _ _ => .none
  | .tcopy _ _ _ _ => .none
  | .pld _ _ _ cpl => cplOps cpl
  | .pst _ _ _ cpl => cplOps cpl
  | .pcpy _ cpl => cplOps cpl
  | .pgat _ _ _ cpl => cplOps cpl
  | .psct _ _ _ cpl => cplOps cpl
  | .prdc _ _ _ cpl => cplOps cpl
  | .pxpd _ _ _ cpl => cplOps cpl
  | .pcmp _ _ _ cpl => cplOps cpl
  | .pstrmIn _ _ cpl => cplOps cpl
  | .pstrmOut _ _ cpl => cplOps cpl
  | .pbar _ _ => .none
  | .ppset _ _ _ => .none
  | .pmmaI _ p => seqOps p.sq
  | .pmmaS _ p => seqOps p.sq
  | .pmmaX _ p => seqOps p.sq
  | .pmvI _ p => seqOps p.sq
  | .pmvS _ p => seqOps p.sq
  | .pmvX _ p => seqOps p.sq
  | .pzacc _ _ sq _ => seqOps sq
  | .pwmap _ _ _ _ => .none
  | .spt _ _ => .none
  | .spd _ _ => .none
  | .spld _ _ _ => .onlyL
  | .spst _ _ _ => .onlyL
  | .spz _ _ => .onlyL
  | .spfence _ => .none
  | .vadd _ _ => .none
  | .vsub _ _ => .none
  | .vmul _ _ => .none
  | .vfma _ _ => .none
  | .vfms _ _ => .none
  | .vmin _ _ => .none
  | .vmax _ _ => .none
  | .vabs _ _ => .none
  | .vneg _ _ => .none
  | .vrcp _ _ => .none
  | .vrsq _ _ => .none
  | .vdiv _ _ => .none
  | .vsqrt _ _ => .none
  | .vexp2 _ _ => .none
  | .vlog2 _ _ => .none
  | .vcvt _ _ => .none
  | .vqnt _ _ _ => .none
  | .vdqnt _ _ => .none
  | .vscl _ _ _ => .none
  | .vred _ _ _ _ => .none
  | .vscan _ _ _ _ => .none
  | .vbcast _ src _ _ => if src = none then .onlyL else .none
  | .vperm _ _ => .none
  | .vsel _ _ => .none
  | .vcmp _ _ _ => .none
  | .vand _ _ => .none
  | .vor _ _ => .none
  | .vxor _ _ => .none
  | .vshl _ _ _ => .none
  | .vshr _ _ _ _ => .none
  | .vpopc _ _ => .none
  | .viota _ _ _ => .none
  | .visect _ _ => .none
  | .vpfx _ _ _ => .none
  | .vgat _ _ _ => .none
  | .vsct _ _ => .none
  | .vdot8 _ _ => .none
  | .red _ => .lr
  | .rdinit _ => .onlyL
  | .rdinitFree _ => .onlyL
  | .rdwait _ => .onlyL
  | .rdwaitF _ => .onlyL
  | .xsend _ _ _ => .onlyL
  | .xrecv _ _ _ => .onlyL
  | .svc _ _ => .onlyL
  | .trap _ _ => .none
  | .bkpt _ _ => .none
  | .eret _ => .none
  | .eretEnd _ => .none
  | .eretRedir _ => .lr
  | .csrr _ _ => .none
  | .csrw _ _ => .onlyL
  | .mark _ _ => .none
  | .markV _ _ => .onlyL
  | .fltrd _ => .onlyL
  | .hint _ => .none
  | _ => .none

/-- The rows of the table whose Token column reads "none" (R53): their targets must be 00. Events deliver nothing here. -/
def Instr.hasToken : Instr → Bool
  | .bro _ _ _ => false
  | .bri _ _ => false
  | .call _ _ _ => false
  | .ret _ _ => false
  | .fend _ => false
  | .iter _ => true
  | .null _ _ => false
  | .mnull _ _ => false
  | .grd _ _ => true
  | .gwr _ _ => false
  | .movi _ _ => true
  | .movhi _ _ => true
  | .mov _ => true
  | .sel _ => true
  | .tst _ _ => true
  | .nop _ => false
  | .yld _ => false
  | .add _ _ => true
  | .sub _ _ => true
  | .mul _ _ => true
  | .mulh _ _ => true
  | .mulhu _ _ => true
  | .div _ _ => true
  | .divu _ _ => true
  | .rem _ _ => true
  | .remu _ _ => true
  | .and _ _ => true
  | .or _ _ => true
  | .xor _ _ => true
  | .andn _ _ => true
  | .shl _ _ => true
  | .shr _ _ => true
  | .sar _ _ => true
  | .rotl _ _ => true
  | .clz _ _ => true
  | .ctz _ _ => true
  | .popc _ _ => true
  | .min _ _ => true
  | .max _ _ => true
  | .minu _ _ => true
  | .maxu _ _ => true
  | .abs _ _ => true
  | .addsh _ _ _ => true
  | .addi _ _ _ => true
  | .andi _ _ => true
  | .ori _ _ => true
  | .xori _ _ => true
  | .shli _ _ _ => true
  | .shri _ _ _ => true
  | .sari _ _ _ => true
  | .sext _ _ => true
  | .zext _ _ => true
  | .bfx _ _ _ _ => true
  | .bfi _ _ _ => true
  | .fadd _ => true
  | .fsub _ => true
  | .fmul _ => true
  | .ffma _ => true
  | .fdiv _ => true
  | .fsqrt _ => true
  | .fmin _ => true
  | .fmax _ => true
  | .ftst _ _ => true
  | .fcvt _ _ _ => true
  | .fclass _ => true
  | .frnd _ _ => true
  | .fsgn _ _ => true
  | .ld _ _ => true
  | .st _ _ => false
  | .ldh _ _ => true
  | .lds _ _ => true
  | .pref _ _ => false
  | .amoAdd _ _ => true
  | .amoAnd _ _ => true
  | .amoOr _ _ => true
  | .amoXor _ _ => true
  | .amoSwap _ _ => true
  | .amoMin _ _ => true
  | .amoMax _ _ => true
  | .cas _ _ => true
  | .fence _ _ => false
  | .stmc _ _ => false
  | .htNew _ => true
  | .htEnd _ => false
  | .htCancel _ => false
  | .hdInit _ _ => false
  | .hdArr _ _ => false
  | .hdWait _ _ => true
  | .hdTest _ _ => true
  | .hdXpct _ _ => false
  | .spawn _ _ => true
  | .fref _ => false
  | .fdrop _ => false
  | .fget _ _ => true
  | .fset _ _ => false
  | .ftest _ => true
  | .peek _ => true
  | .launch _ => true
  | .lwait _ => true
  | .cancel _ => true
  | .send _ => false
  | .tdef _ _ => false
  | .tstate _ _ _ => true
  | .ttest _ _ => true
  | .tfree _ _ => false
  | .tzero _ _ _ => false
  | .tget _ _ _ => true
  | .tsetE _ _ => false
  | .tsetLnk _ _ => false
  | .tsetExp _ _ => false
  | .tring _ _ _ _ => false
  | .tcopy _ _ _ _ => false
  | .pld _ _ _ _ => false
  | .pst _ _ _ _ => false
  | .pcpy _ _ => false
  | .pgat _ _ _ _ => false
  | .psct _ _ _ _ => false
  | .prdc _ _ _ _ => false
  | .pxpd _ _ _ _ => false
  | .pcmp _ _ _ _ => false
  | .pstrmIn _ _ _ => false
  | .pstrmOut _ _ _ => false
  | .pbar _ _ => false
  | .ppset _ _ _ => false
  | .pmmaI _ _ => false
  | .pmmaS _ _ => false
  | .pmmaX _ _ => false
  | .pmvI _ _ => false
  | .pmvS _ _ => false
  | .pmvX _ _ => false
  | .pzacc _ _ _ _ => false
  | .pwmap _ _ _ _ => false
  | .spt _ _ => false
  | .spd _ _ => false
  | .spld _ _ _ => false
  | .spst _ _ _ => false
  | .spz _ _ => false
  | .spfence _ => true
  | .vadd _ _ => false
  | .vsub _ _ => false
  | .vmul _ _ => false
  | .vfma _ _ => false
  | .vfms _ _ => false
  | .vmin _ _ => false
  | .vmax _ _ => false
  | .vabs _ _ => false
  | .vneg _ _ => false
  | .vrcp _ _ => false
  | .vrsq _ _ => false
  | .vdiv _ _ => false
  | .vsqrt _ _ => false
  | .vexp2 _ _ => false
  | .vlog2 _ _ => false
  | .vcvt _ _ => false
  | .vqnt _ _ _ => false
  | .vdqnt _ _ => false
  | .vscl _ _ _ => false
  | .vred _ _ _ _ => false
  | .vscan _ _ _ _ => false
  | .vbcast _ _ _ _ => false
  | .vperm _ _ => false
  | .vsel _ _ => false
  | .vcmp _ _ _ => false
  | .vand _ _ => false
  | .vor _ _ => false
  | .vxor _ _ => false
  | .vshl _ _ _ => false
  | .vshr _ _ _ _ => false
  | .vpopc _ _ => false
  | .viota _ _ _ => false
  | .visect _ _ => false
  | .vpfx _ _ _ => false
  | .vgat _ _ _ => false
  | .vsct _ _ => false
  | .vdot8 _ _ => false
  | .red _ => false
  | .rdinit _ => true
  | .rdinitFree _ => false
  | .rdwait _ => true
  | .rdwaitF _ => true
  | .xsend _ _ _ => false
  | .xrecv _ _ _ => false
  | .svc _ _ => false
  | .trap _ _ => false
  | .bkpt _ _ => false
  | .eret _ => false
  | .eretEnd _ => false
  | .eretRedir _ => false
  | .csrr _ _ => true
  | .csrw _ _ => false
  | .mark _ _ => false
  | .markV _ _ => false
  | .fltrd _ => true
  | .hint _ => false
  | _ => false

/-- The header of an instruction word (R52); an S-format word, a hint and an event have the empty one (R58, R62). -/
def Instr.hd : Instr → Hd
  | .bro h _ _ => h
  | .bri h _ => h
  | .call h _ _ => h
  | .ret h _ => h
  | .fend h => h
  | .iter h => h
  | .null h _ => h
  | .mnull h _ => h
  | .grd h _ => h
  | .gwr h _ => h
  | .movi h _ => h
  | .movhi h _ => h
  | .mov h => h
  | .sel h => h
  | .tst h _ => h
  | .nop h => h
  | .yld h => h
  | .add h _ => h
  | .sub h _ => h
  | .mul h _ => h
  | .mulh h _ => h
  | .mulhu h _ => h
  | .div h _ => h
  | .divu h _ => h
  | .rem h _ => h
  | .remu h _ => h
  | .and h _ => h
  | .or h _ => h
  | .xor h _ => h
  | .andn h _ => h
  | .shl h _ => h
  | .shr h _ => h
  | .sar h _ => h
  | .rotl h _ => h
  | .clz h _ => h
  | .ctz h _ => h
  | .popc h _ => h
  | .min h _ => h
  | .max h _ => h
  | .minu h _ => h
  | .maxu h _ => h
  | .abs h _ => h
  | .addsh h _ _ => h
  | .addi h _ _ => h
  | .andi h _ => h
  | .ori h _ => h
  | .xori h _ => h
  | .shli h _ _ => h
  | .shri h _ _ => h
  | .sari h _ _ => h
  | .sext h _ => h
  | .zext h _ => h
  | .bfx h _ _ _ => h
  | .bfi h _ _ => h
  | .fadd h => h
  | .fsub h => h
  | .fmul h => h
  | .ffma h => h
  | .fdiv h => h
  | .fsqrt h => h
  | .fmin h => h
  | .fmax h => h
  | .ftst h _ => h
  | .fcvt h _ _ => h
  | .fclass h => h
  | .frnd h _ => h
  | .fsgn h _ => h
  | .ld h _ => h
  | .st h _ => h
  | .ldh h _ => h
  | .lds h _ => h
  | .pref h _ => h
  | .amoAdd h _ => h
  | .amoAnd h _ => h
  | .amoOr h _ => h
  | .amoXor h _ => h
  | .amoSwap h _ => h
  | .amoMin h _ => h
  | .amoMax h _ => h
  | .cas h _ => h
  | .fence h _ => h
  | .stmc h _ => h
  | .htNew h => h
  | .htEnd h => h
  | .htCancel h => h
  | .hdInit h _ => h
  | .hdArr h _ => h
  | .hdWait h _ => h
  | .hdTest h _ => h
  | .hdXpct h _ => h
  | .spawn h _ => h
  | .fref h => h
  | .fdrop h => h
  | .fget h _ => h
  | .fset h _ => h
  | .ftest h => h
  | .peek h => h
  | .launch h => h
  | .lwait h => h
  | .cancel h => h
  | .send h => h
  | .tdef h _ => h
  | .tstate h _ _ => h
  | .ttest h _ => h
  | .tfree h _ => h
  | .tzero h _ _ => h
  | .tget h _ _ => h
  | .tsetE h _ => h
  | .tsetLnk h _ => h
  | .tsetExp h _ => h
  | .tring h _ _ _ => h
  | .tcopy h _ _ _ => h
  | .pld h _ _ _ => h
  | .pst h _ _ _ => h
  | .pcpy h _ => h
  | .pgat h _ _ _ => h
  | .psct h _ _ _ => h
  | .prdc h _ _ _ => h
  | .pxpd h _ _ _ => h
  | .pcmp h _ _ _ => h
  | .pstrmIn h _ _ => h
  | .pstrmOut h _ _ => h
  | .pbar h _ => h
  | .ppset h _ _ => h
  | .pmmaI h _ => h
  | .pmmaS h _ => h
  | .pmmaX h _ => h
  | .pmvI h _ => h
  | .pmvS h _ => h
  | .pmvX h _ => h
  | .pzacc h _ _ _ => h
  | .pwmap h _ _ _ => h
  | .spt _ _ => ⟨.always, none, none⟩
  | .spd _ _ => ⟨.always, none, none⟩
  | .spld h _ _ => h
  | .spst h _ _ => h
  | .spz h _ => h
  | .spfence h => h
  | .vadd h _ => h
  | .vsub h _ => h
  | .vmul h _ => h
  | .vfma h _ => h
  | .vfms h _ => h
  | .vmin h _ => h
  | .vmax h _ => h
  | .vabs h _ => h
  | .vneg h _ => h
  | .vrcp h _ => h
  | .vrsq h _ => h
  | .vdiv h _ => h
  | .vsqrt h _ => h
  | .vexp2 h _ => h
  | .vlog2 h _ => h
  | .vcvt h _ => h
  | .vqnt h _ _ => h
  | .vdqnt h _ => h
  | .vscl h _ _ => h
  | .vred h _ _ _ => h
  | .vscan h _ _ _ => h
  | .vbcast h _ _ _ => h
  | .vperm h _ => h
  | .vsel h _ => h
  | .vcmp h _ _ => h
  | .vand h _ => h
  | .vor h _ => h
  | .vxor h _ => h
  | .vshl h _ _ => h
  | .vshr h _ _ _ => h
  | .vpopc h _ => h
  | .viota h _ _ => h
  | .visect h _ => h
  | .vpfx h _ _ => h
  | .vgat h _ _ => h
  | .vsct h _ => h
  | .vdot8 h _ => h
  | .red h => h
  | .rdinit h => h
  | .rdinitFree h => h
  | .rdwait h => h
  | .rdwaitF h => h
  | .xsend h _ _ => h
  | .xrecv h _ _ => h
  | .svc h _ => h
  | .trap h _ => h
  | .bkpt h _ => h
  | .eret h => h
  | .eretEnd h => h
  | .eretRedir h => h
  | .csrr h _ => h
  | .csrw h _ => h
  | .mark h _ => h
  | .markV h _ => h
  | .fltrd h => h
  | .hint _ => ⟨.always, none, none⟩
  | _ => ⟨.always, none, none⟩

/-- Whether a constructor is an instruction word of the block engine (R59), and not an event of the device. -/
def Instr.isWord : Instr → Bool
  | .bro _ _ _ => true
  | .bri _ _ => true
  | .call _ _ _ => true
  | .ret _ _ => true
  | .fend _ => true
  | .iter _ => true
  | .null _ _ => true
  | .mnull _ _ => true
  | .grd _ _ => true
  | .gwr _ _ => true
  | .movi _ _ => true
  | .movhi _ _ => true
  | .mov _ => true
  | .sel _ => true
  | .tst _ _ => true
  | .nop _ => true
  | .yld _ => true
  | .add _ _ => true
  | .sub _ _ => true
  | .mul _ _ => true
  | .mulh _ _ => true
  | .mulhu _ _ => true
  | .div _ _ => true
  | .divu _ _ => true
  | .rem _ _ => true
  | .remu _ _ => true
  | .and _ _ => true
  | .or _ _ => true
  | .xor _ _ => true
  | .andn _ _ => true
  | .shl _ _ => true
  | .shr _ _ => true
  | .sar _ _ => true
  | .rotl _ _ => true
  | .clz _ _ => true
  | .ctz _ _ => true
  | .popc _ _ => true
  | .min _ _ => true
  | .max _ _ => true
  | .minu _ _ => true
  | .maxu _ _ => true
  | .abs _ _ => true
  | .addsh _ _ _ => true
  | .addi _ _ _ => true
  | .andi _ _ => true
  | .ori _ _ => true
  | .xori _ _ => true
  | .shli _ _ _ => true
  | .shri _ _ _ => true
  | .sari _ _ _ => true
  | .sext _ _ => true
  | .zext _ _ => true
  | .bfx _ _ _ _ => true
  | .bfi _ _ _ => true
  | .fadd _ => true
  | .fsub _ => true
  | .fmul _ => true
  | .ffma _ => true
  | .fdiv _ => true
  | .fsqrt _ => true
  | .fmin _ => true
  | .fmax _ => true
  | .ftst _ _ => true
  | .fcvt _ _ _ => true
  | .fclass _ => true
  | .frnd _ _ => true
  | .fsgn _ _ => true
  | .ld _ _ => true
  | .st _ _ => true
  | .ldh _ _ => true
  | .lds _ _ => true
  | .pref _ _ => true
  | .amoAdd _ _ => true
  | .amoAnd _ _ => true
  | .amoOr _ _ => true
  | .amoXor _ _ => true
  | .amoSwap _ _ => true
  | .amoMin _ _ => true
  | .amoMax _ _ => true
  | .cas _ _ => true
  | .fence _ _ => true
  | .stmc _ _ => true
  | .htNew _ => true
  | .htEnd _ => true
  | .htCancel _ => true
  | .hdInit _ _ => true
  | .hdArr _ _ => true
  | .hdWait _ _ => true
  | .hdTest _ _ => true
  | .hdXpct _ _ => true
  | .spawn _ _ => true
  | .fref _ => true
  | .fdrop _ => true
  | .fget _ _ => true
  | .fset _ _ => true
  | .ftest _ => true
  | .peek _ => true
  | .launch _ => true
  | .lwait _ => true
  | .cancel _ => true
  | .send _ => true
  | .tdef _ _ => true
  | .tstate _ _ _ => true
  | .ttest _ _ => true
  | .tfree _ _ => true
  | .tzero _ _ _ => true
  | .tget _ _ _ => true
  | .tsetE _ _ => true
  | .tsetLnk _ _ => true
  | .tsetExp _ _ => true
  | .tring _ _ _ _ => true
  | .tcopy _ _ _ _ => true
  | .pld _ _ _ _ => true
  | .pst _ _ _ _ => true
  | .pcpy _ _ => true
  | .pgat _ _ _ _ => true
  | .psct _ _ _ _ => true
  | .prdc _ _ _ _ => true
  | .pxpd _ _ _ _ => true
  | .pcmp _ _ _ _ => true
  | .pstrmIn _ _ _ => true
  | .pstrmOut _ _ _ => true
  | .pbar _ _ => true
  | .ppset _ _ _ => true
  | .pmmaI _ _ => true
  | .pmmaS _ _ => true
  | .pmmaX _ _ => true
  | .pmvI _ _ => true
  | .pmvS _ _ => true
  | .pmvX _ _ => true
  | .pzacc _ _ _ _ => true
  | .pwmap _ _ _ _ => true
  | .spt _ _ => true
  | .spd _ _ => true
  | .spld _ _ _ => true
  | .spst _ _ _ => true
  | .spz _ _ => true
  | .spfence _ => true
  | .vadd _ _ => true
  | .vsub _ _ => true
  | .vmul _ _ => true
  | .vfma _ _ => true
  | .vfms _ _ => true
  | .vmin _ _ => true
  | .vmax _ _ => true
  | .vabs _ _ => true
  | .vneg _ _ => true
  | .vrcp _ _ => true
  | .vrsq _ _ => true
  | .vdiv _ _ => true
  | .vsqrt _ _ => true
  | .vexp2 _ _ => true
  | .vlog2 _ _ => true
  | .vcvt _ _ => true
  | .vqnt _ _ _ => true
  | .vdqnt _ _ => true
  | .vscl _ _ _ => true
  | .vred _ _ _ _ => true
  | .vscan _ _ _ _ => true
  | .vbcast _ _ _ _ => true
  | .vperm _ _ => true
  | .vsel _ _ => true
  | .vcmp _ _ _ => true
  | .vand _ _ => true
  | .vor _ _ => true
  | .vxor _ _ => true
  | .vshl _ _ _ => true
  | .vshr _ _ _ _ => true
  | .vpopc _ _ => true
  | .viota _ _ _ => true
  | .visect _ _ => true
  | .vpfx _ _ _ => true
  | .vgat _ _ _ => true
  | .vsct _ _ => true
  | .vdot8 _ _ => true
  | .red _ => true
  | .rdinit _ => true
  | .rdinitFree _ => true
  | .rdwait _ => true
  | .rdwaitF _ => true
  | .xsend _ _ _ => true
  | .xrecv _ _ _ => true
  | .svc _ _ => true
  | .trap _ _ => true
  | .bkpt _ _ => true
  | .eret _ => true
  | .eretEnd _ => true
  | .eretRedir _ => true
  | .csrr _ _ => true
  | .csrw _ _ => true
  | .mark _ _ => true
  | .markV _ _ => true
  | .fltrd _ => true
  | .hint _ => true
  | _ => false

/-- WID 0 to 3 (R55: stores, atomics and CAS). -/
def Wid.isUnsigned : Wid → Bool
  | .ub | .uh | .uw | .d => true
  | .sb | .sh | .sw => false

/-- The row of R237 for forms that accept only WID 0, ORD 0 and HM 0 or 1. -/
def MF.bareOk (m : MF) : Bool := m.wid == .ub && m.ord == .plain && m.hm != .explicit

/-- ORD 0 or 1 (R237: LD, LDH). -/
def Ord.loadOk : Ord → Bool
  | .plain | .acq => true
  | .rel | .acqRel => false

/-- ORD 0 or 2 (R237: ST, STMC). -/
def Ord.storeOk : Ord → Bool
  | .plain | .rel => true
  | .acq | .acqRel => false

/-- The value ranges whose breach is a reserved value, ILLEGAL cause 2 (R61, R63). -/
def Instr.valuesOk : Instr → Bool
  | .shli _ w n => !w || n.toNat < 32
  | .shri _ w n => !w || n.toNat < 32
  | .sari _ w n => !w || n.toNat < 32
  | .sext _ n => 1 ≤ n.toNat && n.toNat ≤ 64
  | .zext _ n => 1 ≤ n.toNat && n.toNat ≤ 64
  | .bfx _ pos wd1 _ => pos.toNat + wd1.toNat + 1 ≤ 64
  | .bfi _ pos wd1 => pos.toNat + wd1.toNat + 1 ≤ 64
  | .fcvt _ kind w => !w || kind == .f2i || kind == .f2u || kind == .i2f || kind == .u2f
  | .ld _ m => m.ord.loadOk
  | .st _ m => m.wid.isUnsigned && m.ord.storeOk
  | .ldh _ m => m.ord.loadOk && m.hm == .explicit
  | .lds _ m => m.ord == .plain
  | .pref _ m => m.wid == .ub && m.ord == .plain
  | .amoAdd _ m => m.wid.isUnsigned
  | .amoAnd _ m => m.wid.isUnsigned
  | .amoOr _ m => m.wid.isUnsigned
  | .amoXor _ m => m.wid.isUnsigned
  | .amoSwap _ m => m.wid.isUnsigned
  | .amoMin _ m => m.wid.isUnsigned
  | .amoMax _ m => m.wid.isUnsigned
  | .cas _ m => m.wid.isUnsigned
  | .fence _ m => m.wid == .ub && m.hm == .own
  | .stmc _ m => m.wid.isUnsigned && m.ord.storeOk
  | .hdInit _ m => m.bareOk
  | .hdArr _ m => m.bareOk
  | .hdWait _ m => m.bareOk
  | .hdTest _ m => m.bareOk
  | .hdXpct _ m => m.bareOk
  | .fget _ m => m.wid == .d && m.ord == .plain && m.hm != .explicit
  | .fset _ m => m.wid == .d && m.ord == .plain && m.hm != .explicit
  | .ppset _ pa pb => 1 ≤ pa.toNat && pa.toNat ≤ 16 && 1 ≤ pb.toNat && pb.toNat ≤ 16
  | .bkpt h _ => h.pm == .always
  | _ => true

/-- No target is named (R53). -/
def Hd.noTargets (h : Hd) : Bool := h.t0.isNone && h.t1.isNone

/-- A form whose Token column reads "none" names no target; a breach is ILLEGAL cause 4 (R53, R63). -/
def Instr.targetsOk (i : Instr) : Bool := i.hasToken || i.hd.noTargets

/-- A form with a third operand has predicate mode 00, and CAS has no explicit heat mode; a breach is ILLEGAL cause 6
(R45, R63, R237). -/
def Instr.thirdOk (i : Instr) : Bool :=
  (!i.operands.p || i.hd.pm == .always) &&
    match i with
    | .cas _ m => m.hm != .explicit
    | _ => true

/-- TRING with a count of 0 names no first slot (R279: the TA field must be 0), and MNULL, FENCE and the like carry only
the fields R135 and R237 give them; such unused fields are reserved and are not part of the instruction. -/
def Instr.fieldsOk : Instr → Bool
  | .tring _ ta _ n => n != 0 || ta == 0
  | .fence _ m => m.ofs == 0
  | _ => true

/-- A well-formed instruction word. -/
def Instr.wellFormed (i : Instr) : Bool := i.isWord && i.valuesOk && i.targetsOk && i.thirdOk && i.fieldsOk

/-- The lowest ILLEGAL cause among the breaches of one slot's own word (R483), for a word that names an instruction. -/
def Instr.breach (i : Instr) : Option Nat :=
  if !i.valuesOk then some 2 else if !i.targetsOk then some 4 else if !i.thirdOk then some 6 else none

/-- The full required operand set of R42: the instruction's own operands, and the predicate under PM 01 or 10. -/
def Instr.required (i : Instr) : OpSet :=
  { i.operands with p := i.operands.p || i.hd.pm != .always }

/-- A word that spans two slots (R58). -/
def Instr.twoSlot : Instr → Bool
  | .spt _ _ | .spd _ _ => true
  | _ => false

end Sys2Proof
end

