-- ==== Sys2Proof/Decode.lean ====
section
/-! DEFINITION. The decoder of the 64-bit instruction word (02_encoding.md R52-R62), total on any word, rejecting with the
ILLEGAL cause of R63, and the encoder written from the same tables. A reserved FIELD is dropped by the decoder (lenient mode,
R61); a word has a nonzero reserved field exactly when encoding what it decodes to does not give it back, which is the
strict check of R64. -/
namespace Sys2Proof

/-! ### Fields of a word -/

/-- The major opcode [63:56] (R52). -/
def opcOf (w : W64) : BitVec 8 := w.extractLsb' 56 8
/-- The predicate mode [55:54]. -/
def pmOf (w : W64) : BitVec 2 := w.extractLsb' 54 2
/-- The payload [53:18]. -/
def payOf (w : W64) : BitVec 36 := w.extractLsb' 18 36
/-- The second target [17:9]. -/
def tg1Of (w : W64) : BitVec 9 := w.extractLsb' 9 9
/-- The first target [8:0]. -/
def tg0Of (w : W64) : BitVec 9 := w.extractLsb' 0 9

/-- A predicate mode; 11 is reserved (R52). -/
def decodePM (b : BitVec 2) : Option PM :=
  if b = 0 then some .always else if b = 1 then some .onTrue else if b = 2 then some .onFalse else none
def encodePM : PM → BitVec 2
  | .always => 0
  | .onTrue => 1
  | .onFalse => 2

/-- A target (R53): with operand field 00 the slot number is reserved. -/
def decodeTarget (t : BitVec 9) : Option Target :=
  let slot := t.extractLsb' 0 7
  let f : BitVec 2 := t.extractLsb' 7 2
  if f = 0 then none
  else if f = 1 then some ⟨.left, slot⟩
  else if f = 2 then some ⟨.right, slot⟩
  else some ⟨.pred, slot⟩
def encodeField : OpField → BitVec 2
  | .left => 1
  | .right => 2
  | .pred => 3
def encodeTarget : Option Target → BitVec 9
  | none => 0
  | some t => encodeField t.fld ++ t.slot

def decodeWid (b : BitVec 3) : Option Wid :=
  if b = 0 then some .ub else if b = 1 then some .uh else if b = 2 then some .uw else if b = 3 then some .d
  else if b = 4 then some .sb else if b = 5 then some .sh else if b = 6 then some .sw else none
def encodeWid : Wid → BitVec 3
  | .ub => 0 | .uh => 1 | .uw => 2 | .d => 3 | .sb => 4 | .sh => 5 | .sw => 6

def decodeOrd (b : BitVec 2) : Ord :=
  if b = 0 then .plain else if b = 1 then .acq else if b = 2 then .rel else .acqRel
def encodeOrd : Ord → BitVec 2
  | .plain => 0 | .acq => 1 | .rel => 2 | .acqRel => 3

def decodeHM (b : BitVec 2) : Option HeatMode :=
  if b = 0 then some .own else if b = 1 then some .base else if b = 2 then some .explicit else none
def encodeHM : HeatMode → BitVec 2
  | .own => 0 | .base => 1 | .explicit => 2

def decodeScope (b : BitVec 3) : Option Scope :=
  if b = 0 then some .frame else if b = 1 then some .stall else if b = 2 then some .hall else if b = 3 then some .pkg
  else if b = 4 then some .sys else none
def encodeScope : Scope → BitVec 3
  | .frame => 0 | .stall => 1 | .hall => 2 | .pkg => 3 | .sys => 4

/-- The M payload (R54, R55); `none` where a field holds a value named reserved. -/
def decodeMF (p : BitVec 36) : Option MF :=
  match decodeWid (p.extractLsb' 28 3), decodeHM (p.extractLsb' 24 2), decodeScope (p.extractLsb' 21 3) with
  | some w, some h, some s => some ⟨p.extractLsb' 31 5, w, decodeOrd (p.extractLsb' 26 2), h, s, p.extractLsb' 0 21⟩
  | _, _, _ => none
def encodeMF (m : MF) : BitVec 36 :=
  m.lsid ++ encodeWid m.wid ++ encodeOrd m.ord ++ encodeHM m.hm ++ encodeScope m.scp ++ m.ofs

/-- A whole word from its parts (R52). -/
def packWord (opc : BitVec 8) (h : Hd) (pay : BitVec 36) : W64 :=
  opc ++ encodePM h.pm ++ pay ++ encodeTarget h.t1 ++ encodeTarget h.t0

/-- Format A payload (R54). -/
def payA (sub : BitVec 8) (ty : BitVec 4) : BitVec 36 := sub ++ ty ++ (0 : BitVec 24)
/-- Format I payload. -/
def payI (sub : BitVec 4) (imm : W32) : BitVec 36 := sub ++ imm
/-- Format G payload, and MNULL's (R135). -/
def payG (reg : BitVec 5) : BitVec 36 := reg ++ (0 : BitVec 31)
/-- Format B payload. -/
def payB (eid : BitVec 3) (ofs : BitVec 33) : BitVec 36 := eid ++ ofs
/-- Format T payload. -/
def payT (ta tb tc : BitVec 6) (sub : BitVec 10) (tfl : BitVec 8) : BitVec 36 := ta ++ tb ++ tc ++ sub ++ tfl

def subA (p : BitVec 36) : BitVec 8 := p.extractLsb' 28 8
def tyA (p : BitVec 36) : BitVec 4 := p.extractLsb' 24 4
def subI (p : BitVec 36) : BitVec 4 := p.extractLsb' 32 4
def immI (p : BitVec 36) : W32 := p.extractLsb' 0 32
def regG (p : BitVec 36) : BitVec 5 := p.extractLsb' 31 5
def eidB (p : BitVec 36) : BitVec 3 := p.extractLsb' 33 3
def ofsB (p : BitVec 36) : BitVec 33 := p.extractLsb' 0 33
def taT (p : BitVec 36) : BitVec 6 := p.extractLsb' 30 6
def tbT (p : BitVec 36) : BitVec 6 := p.extractLsb' 24 6
def tcT (p : BitVec 36) : BitVec 6 := p.extractLsb' 18 6
def subT (p : BitVec 36) : BitVec 10 := p.extractLsb' 8 10
def tflT (p : BitVec 36) : BitVec 8 := p.extractLsb' 0 8
/-- TFL bit [0], NB (R54). -/
def nbT (p : BitVec 36) : Bool := p.getLsbD 0
/-- TFL bit [1], ACC of a product and WM of VQNT (R126, R167). -/
def flag1T (p : BitVec 36) : Bool := p.getLsbD 1
/-- TFL bit [2], SEQ (R126). -/
def flag2T (p : BitVec 36) : Bool := p.getLsbD 2
/-- TFL bits [3:2], CPL (R277). -/
def cplT (p : BitVec 36) : BitVec 2 := p.extractLsb' 2 2

/-- A Boolean as one bit. -/
def bit (b : Bool) : BitVec 1 := BitVec.ofBool b

/-- TFL of a job: CPL at [3:2], NB at [0] (R279). -/
def tflJob (nb : Bool) (cpl : BitVec 2) : BitVec 8 := (0 : BitVec 4) ++ cpl ++ (0 : BitVec 1) ++ bit nb
/-- TFL of a form whose only flag is NB. -/
def tflNb (nb : Bool) : BitVec 8 := (0 : BitVec 7) ++ bit nb
/-- TFL of a product: SEQ, ACC, NB (R126). -/
def tflP (sq acc nb : Bool) : BitVec 8 := (0 : BitVec 5) ++ bit sq ++ bit acc ++ bit nb

/-! ### Decoding -/

/-- A word that names an instruction, or the ILLEGAL cause 1 or 2 (R63). -/
abbrev Decoded := Except Nat Instr

/-- `k` where the test holds, the reserved value of cause 2 otherwise. -/
def okIf (c : Bool) (i : Instr) : Decoded := if c then .ok i else .error 2

/-- Format A with SUB `s` and TYPE 0. -/
def decA (p : BitVec 36) (s : BitVec 8) (i : Instr) : Decoded := okIf (subA p == s && tyA p == 0) i

/-- Format A of the integer family: TYPE 0 or 1 (R57, R134). -/
def decAW (p : BitVec 36) (s : BitVec 8) (k : Bool → Instr) : Decoded :=
  okIf (subA p == s && (tyA p == 0 || tyA p == 1)) (k (tyA p == 1))

/-- The integer opcodes that several mnemonics share: SUB selects (R59, R141). -/
def decAWs (p : BitVec 36) (ks : List (Bool → Instr)) : Decoded :=
  match ks[(subA p).toNat]? with
  | some k => okIf (tyA p == 0 || tyA p == 1) (k (tyA p == 1))
  | none => .error 2

/-- Opcodes of format A, TYPE 0, that several forms share by SUB. -/
def decAs (p : BitVec 36) (ks : List Instr) : Decoded :=
  match ks[(subA p).toNat]? with
  | some i => okIf (tyA p == 0) i
  | none => .error 2

/-- Format I with SUB 0. -/
def decI (p : BitVec 36) (i : Instr) : Decoded := okIf (subI p == 0) i

/-- Format I whose SUB bit [0] is the width W (R143). -/
def decIW (p : BitVec 36) (k : Bool → Instr) : Decoded := okIf (subI p == 0 || subI p == 1) (k (subI p == 1))

/-- Format M. -/
def decM (p : BitVec 36) (k : MF → Instr) : Decoded :=
  match decodeMF p with
  | some m => .ok (k m)
  | none => .error 2

/-- Format T opcodes shared by SUB[9:8] (R59, R279). -/
def decT98 (p : BitVec 36) (ks : List Instr) : Decoded :=
  match ks[((subT p).extractLsb' 8 2).toNat]? with
  | some i => .ok i
  | none => .error 2

/-- A vector form with SUB 0 (R168: other SUB values are reserved). -/
def decV (p : BitVec 36) (i : Instr) : Decoded := okIf (subT p == 0) i

/-- A vector form whose SUB is 0 or 1. -/
def decV01 (p : BitVec 36) (k : Bool → Instr) : Decoded := okIf (subT p == 0 || subT p == 1) (k (subT p == 1))

def vf3 (p : BitVec 36) : VF3 := ⟨taT p, tbT p, tcT p, nbT p⟩
def vf2 (p : BitVec 36) : VF2 := ⟨taT p, tcT p, nbT p⟩
def pf (p : BitVec 36) : PF := ⟨taT p, tbT p, tcT p, flag1T p, flag2T p, nbT p⟩

/-- The reduction operation of SUB[1:0] (R168). -/
def decodeRedOp (b : BitVec 2) : Option RedOp :=
  if b = 0 then some .add else if b = 1 then some .max else if b = 2 then some .min else none
def encodeRedOp : RedOp → BitVec 2
  | .add => 0 | .max => 1 | .min => 2

/-- VRED and VSCAN (R168): SUB[1:0] the operation, [2] the range. -/
def decVRed (p : BitVec 36) (k : RedOp → Bool → Instr) : Decoded :=
  match decodeRedOp ((subT p).extractLsb' 0 2) with
  | some o => okIf ((subT p).extractLsb' 3 7 == 0) (k o ((subT p).getLsbD 2))
  | none => .error 2

def decodeVCond (b : BitVec 10) : Option VCond :=
  if b = 0 then some .eq else if b = 1 then some .ne else if b = 2 then some .lt else if b = 3 then some .le
  else if b = 4 then some .ltu else if b = 5 then some .leu else if b = 6 then some .un else none
def encodeVCond : VCond → BitVec 10
  | .eq => 0 | .ne => 1 | .lt => 2 | .le => 3 | .ltu => 4 | .leu => 5 | .un => 6

/-- The shift count of VSHL and VSHR (R168): with `.v` the count field must be 0. -/
def decodeSh (p : BitVec 36) : Option ShCount :=
  if (subT p).getLsbD 5 then (if (subT p).extractLsb' 0 5 == 0 then some (.tile (tbT p)) else none)
  else some (.imm ((subT p).extractLsb' 0 5))
def shTb : ShCount → BitVec 6
  | .imm _ => 0
  | .tile tb => tb
def shSub (ar : Bool) : ShCount → BitVec 10
  | .imm n => (0 : BitVec 3) ++ bit ar ++ (0 : BitVec 1) ++ n
  | .tile _ => (0 : BitVec 3) ++ bit ar ++ (1 : BitVec 1) ++ (0 : BitVec 5)

def tccs : List Tcc := [.eq, .ne, .lt, .ge, .ltu, .geu]
def encodeTcc : Tcc → BitVec 8
  | .eq => 0 | .ne => 1 | .lt => 2 | .ge => 3 | .ltu => 4 | .geu => 5
def fccs : List Fcc := [.eq, .lt, .le, .un]
def encodeFcc : Fcc → BitVec 8
  | .eq => 0 | .lt => 1 | .le => 2 | .un => 3
def fcvts : List FcvtKind := [.f2i, .f2u, .i2f, .u2f, .f2bf, .f2h, .bf2f, .h2f]
def encodeFcvt : FcvtKind → BitVec 8
  | .f2i => 0 | .f2u => 1 | .i2f => 2 | .u2f => 3 | .f2bf => 4 | .f2h => 5 | .bf2f => 6 | .h2f => 7
def frnds : List FrndDir := [.rm, .rne, .rtz, .rdn, .rup, .rmm]
def encodeFrnd : FrndDir → BitVec 8
  | .rm => 0 | .rne => 1 | .rtz => 2 | .rdn => 3 | .rup => 4 | .rmm => 5
def fsgns : List FsgnOp := [.cp, .cn, .cx]
def encodeFsgn : FsgnOp → BitVec 8
  | .cp => 0 | .cn => 1 | .cx => 2

/-- FCVT: SUB the conversion, TYPE the integer width (R152). -/
def decFcvt (p : BitVec 36) (h : Hd) : Decoded :=
  match fcvts[(subA p).toNat]? with
  | some k => okIf (tyA p == 0 || tyA p == 1) (.fcvt h k (tyA p == 1))
  | none => .error 2

/-- The 128 bits of an S-format instruction (R58): slot n above slot n+1. -/
def sWord (w w2 : W64) : W128 := w ++ w2
def sfOf (b : W128) : SF :=
  { shape := b.extractLsb' 99 14, out := b.extractLsb' 88 11, l0 := b.extractLsb' 77 11, l1 := b.extractLsb' 66 11,
    l2 := b.extractLsb' 55 11, l3 := b.extractLsb' 44 11, l4 := b.extractLsb' 33 11, l5 := b.extractLsb' 22 11,
    l6 := b.extractLsb' 11 11, l7 := b.extractLsb' 0 11 }

/-- SPT and SPD (R58, R194): PM must be 00; a set reserved MODE bit is a reserved value. -/
def decS (w w2 : W64) (mask : BitVec 5) (k : SF → Instr) : Decoded :=
  okIf (pmOf w == 0 && ((sWord w w2).extractLsb' 113 5 &&& ~~~mask) == 0) (k (sfOf (sWord w w2)))
def modeS (w w2 : W64) (i : Nat) : Bool := (sWord w w2).getLsbD (113 + i)

/-- The instruction a word's opcode and payload name, by the opcode map (R59) and each chapter's SUB values (R60). The
opcode is the low byte of the split; `h` is the decoded header. -/
def decodeBody (opc : Nat) (h : Hd) (p : BitVec 36) : Decoded :=
  match opc with
  | 0x01 => .ok (.bro h (eidB p) (ofsB p))
  | 0x02 => .ok (.bri h (eidB p))
  | 0x03 => .ok (.call h (eidB p) (ofsB p))
  | 0x04 => .ok (.ret h (eidB p))
  | 0x05 => decA p 0 (.iter h)
  | 0x06 => .ok (.null h (regG p))
  | 0x07 => .ok (.mnull h (regG p))
  | 0x08 => .ok (.grd h (regG p))
  | 0x09 => .ok (.gwr h (regG p))
  | 0x0A => if subI p == 0 then .ok (.movi h (immI p)) else okIf (subI p == 1) (.movhi h (immI p))
  | 0x0B => decA p 0 (.mov h)
  | 0x0C => decA p 0 (.sel h)
  | 0x0D => decAs p (tccs.map (.tst h))
  | 0x0E => decA p 0 (.fend h)
  | 0x0F => decAs p [.nop h, .yld h]
  | 0x10 => decAW p 0 (.add h)
  | 0x11 => decAW p 0 (.sub h)
  | 0x12 => decIW p (.addi h · (immI p))
  | 0x13 => decAWs p [.mul h, .mulh h, .mulhu h]
  | 0x14 => decAWs p [.div h, .divu h, .rem h, .remu h]
  | 0x15 => decAW p 0 (.and h)
  | 0x16 => decAW p 0 (.or h)
  | 0x17 => decAW p 0 (.xor h)
  | 0x18 => decAW p 0 (.andn h)
  | 0x19 => decI p (.andi h (immI p))
  | 0x1A => decI p (.ori h (immI p))
  | 0x1B => decI p (.xori h (immI p))
  | 0x1C => decAW p 0 (.shl h)
  | 0x1D => decAW p 0 (.shr h)
  | 0x1E => decAW p 0 (.sar h)
  | 0x1F => decIW p (.shli h · ((immI p).extractLsb' 0 6))
  | 0x20 => decIW p (.shri h · ((immI p).extractLsb' 0 6))
  | 0x21 => decIW p (.sari h · ((immI p).extractLsb' 0 6))
  | 0x22 => decAW p 0 (.rotl h)
  | 0x23 => decAWs p [.clz h, .ctz h, .popc h]
  | 0x24 => decAWs p [.min h, .max h, .minu h, .maxu h]
  | 0x25 => decAW p 0 (.abs h)
  | 0x26 => if subI p == 0 then .ok (.sext h ((immI p).extractLsb' 0 7))
      else okIf (subI p == 1) (.zext h ((immI p).extractLsb' 0 7))
  | 0x27 => decI p (.bfx h ((immI p).extractLsb' 0 6) ((immI p).extractLsb' 6 6) ((immI p).getLsbD 12))
  | 0x28 => decI p (.bfi h ((immI p).extractLsb' 0 6) ((immI p).extractLsb' 6 6))
  | 0x29 => okIf ((subA p).extractLsb' 3 5 == 0 && (tyA p == 0 || tyA p == 1)) (.addsh h (tyA p == 1) ((subA p).extractLsb' 0 3))
  | 0x30 => decA p 0 (.fadd h)
  | 0x31 => decA p 0 (.fsub h)
  | 0x32 => decA p 0 (.fmul h)
  | 0x33 => decA p 0 (.ffma h)
  | 0x34 => decA p 0 (.fdiv h)
  | 0x35 => decA p 0 (.fsqrt h)
  | 0x36 => decA p 0 (.fmin h)
  | 0x37 => decA p 0 (.fmax h)
  | 0x38 => decAs p (fccs.map (.ftst h))
  | 0x39 => decFcvt p h
  | 0x3A => decA p 0 (.fclass h)
  | 0x3B => decAs p (frnds.map (.frnd h))
  | 0x3C => decAs p (fsgns.map (.fsgn h))
  | 0x40 => decM p (.ld h)
  | 0x41 => decM p (.st h)
  | 0x42 => decM p (.ldh h)
  | 0x43 => decM p (.lds h)
  | 0x44 => decM p (.pref h)
  | 0x45 => decM p (.amoAdd h)
  | 0x46 => decM p (.amoAnd h)
  | 0x47 => decM p (.amoOr h)
  | 0x48 => decM p (.amoXor h)
  | 0x49 => decM p (.amoSwap h)
  | 0x4A => decM p (.amoMin h)
  | 0x4B => decM p (.amoMax h)
  | 0x4C => decM p (.cas h)
  | 0x4D => decM p fun m => .fence h { m with ofs := 0 }
  | 0x4E => decM p (.stmc h)
  | 0x50 => decA p 0 (.htNew h)
  | 0x51 => decA p 0 (.htEnd h)
  | 0x52 => decA p 0 (.htCancel h)
  | 0x53 => decM p (.hdInit h)
  | 0x54 => decM p (.hdArr h)
  | 0x55 => decM p (.hdWait h)
  | 0x56 => decM p (.hdTest h)
  | 0x57 => decM p (.hdXpct h)
  | 0x58 => okIf (tyA p == 0) (.spawn h (subA p))
  | 0x59 => decAs p [.fref h, .fdrop h]
  | 0x5A => decM p (.fget h)
  | 0x5B => decM p (.fset h)
  | 0x5C => decAs p [.ftest h, .peek h]
  | 0x5D => decAs p [.launch h, .lwait h]
  | 0x5E => decA p 0 (.cancel h)
  | 0x5F => decA p 0 (.send h)
  | 0x60 => .ok (.tdef h (tcT p))
  | 0x61 => decT98 p [.tstate h (taT p) ((subT p).getLsbD 0), .ttest h (taT p)]
  | 0x62 => .ok (.tfree h (taT p))
  | 0x63 => .ok (.tzero h (tcT p) (nbT p))
  | 0x64 => .ok (.tget h (taT p) (nbT p))
  | 0x65 => decT98 p [.tsetE h (tcT p), .tsetLnk h (tcT p), .tsetExp h (tcT p)]
  | 0x66 => (let n : BitVec 4 := (subT p).extractLsb' 0 4; .ok (.tring h (if n = 0 then 0 else taT p) (tcT p) n))
  | 0x67 => .ok (.tcopy h (taT p) (tcT p) (nbT p))
  | 0x68 => .ok (.pld h (tcT p) (nbT p) (cplT p))
  | 0x69 => .ok (.pst h (taT p) (nbT p) (cplT p))
  | 0x6A => .ok (.pcpy h (cplT p))
  | 0x6B => decT98 p [.pgat h (tcT p) (nbT p) (cplT p), .psct h (taT p) (nbT p) (cplT p)]
  | 0x6C => .ok (.prdc h (taT p) (nbT p) (cplT p))
  | 0x6D => decT98 p [.pxpd h (tcT p) (nbT p) (cplT p), .pcmp h (taT p) (nbT p) (cplT p)]
  | 0x6E => .ok (if (subT p).getLsbD 0 then .pstrmOut h (tcT p) (cplT p) else .pstrmIn h (tcT p) (cplT p))
  | 0x6F => .ok (.pbar h (if (subT p).getLsbD 0 then none else some (tcT p)))
  | 0x70 => decI p (.ppset h ((immI p).extractLsb' 0 5) ((immI p).extractLsb' 8 5))
  | 0x71 => .ok (.pmmaI h (pf p))
  | 0x72 => .ok (.pmmaS h (pf p))
  | 0x73 => .ok (.pmmaX h (pf p))
  | 0x74 => decT98 p [.pmvI h (pf p), .pmvS h (pf p), .pmvX h (pf p)]
  | 0x75 => .ok (.pzacc h (tcT p) (flag2T p) (nbT p))
  | 0x76 => .ok (.pwmap h (taT p) (tcT p) (nbT p))
  | 0x7A => .ok (.spld h (taT p) (nbT p))
  | 0x7B => .ok (.spst h (tcT p) (nbT p))
  | 0x7C => decV01 p (.spz h)
  | 0x7D => .ok (.spfence h)
  | 0x80 => decV p (.vadd h (vf3 p))
  | 0x81 => decV p (.vsub h (vf3 p))
  | 0x82 => decV p (.vmul h (vf3 p))
  | 0x83 => decV p (.vfma h (vf3 p))
  | 0x84 => decV p (.vfms h (vf3 p))
  | 0x85 => decV p (.vmin h (vf3 p))
  | 0x86 => decV p (.vmax h (vf3 p))
  | 0x87 => decV p (.vabs h (vf2 p))
  | 0x88 => decV p (.vneg h (vf2 p))
  | 0x89 => decV p (.vrcp h (vf2 p))
  | 0x8A => decV p (.vrsq h (vf2 p))
  | 0x8B => decV p (.vdiv h (vf3 p))
  | 0x8C => decV p (.vsqrt h (vf2 p))
  | 0x8D => decV p (.vexp2 h (vf2 p))
  | 0x8E => decV p (.vlog2 h (vf2 p))
  | 0x8F => decV p (.vcvt h (vf2 p))
  | 0x90 => decV p (.vqnt h (vf3 p) (flag1T p))
  | 0x91 => decV p (.vdqnt h (vf2 p))
  | 0x92 => decV01 p (.vscl h (vf3 p))
  | 0x93 => decVRed p (.vred h (vf2 p))
  | 0x94 => decVRed p (.vscan h (vf2 p))
  | 0x95 => decV01 p (fun r => .vbcast h (if r then some (taT p) else none) (tcT p) (nbT p))
  | 0x96 => decV p (.vperm h (vf3 p))
  | 0x97 => decV p (.vsel h (vf3 p))
  | 0x98 => (match decodeVCond (subT p) with | some c => .ok (.vcmp h (vf3 p) c) | none => .error 2)
  | 0x99 => decV p (.vand h (vf3 p))
  | 0x9A => decV p (.vor h (vf3 p))
  | 0x9B => decV p (.vxor h (vf3 p))
  | 0x9C => (match decodeSh p with | some c => okIf ((subT p).extractLsb' 6 4 == 0) (.vshl h (vf2 p) c) | none => .error 2)
  | 0x9D => (match decodeSh p with
      | some c => okIf ((subT p).extractLsb' 7 3 == 0) (.vshr h (vf2 p) c ((subT p).getLsbD 6)) | none => .error 2)
  | 0x9E => decV p (.vpopc h (vf2 p))
  | 0x9F => decV p (.viota h (tcT p) (nbT p))
  | 0xA0 => decV p (.visect h (vf3 p))
  | 0xA1 => decV01 p (fun r => .vpfx h (vf2 p) (if r then some (tbT p) else none))
  | 0xA2 => decV01 p (.vgat h (vf3 p))
  | 0xA3 => decV p (.vsct h (vf3 p))
  | 0xA4 => decV p (.vdot8 h (vf3 p))
  | 0xB0 => decA p 0 (.red h)
  | 0xB1 => decAs p [.rdinit h, .rdinitFree h]
  | 0xB2 => decAs p [.rdwait h, .rdwaitF h]
  | 0xB3 => .ok (.xsend h (taT p) (nbT p))
  | 0xB4 => .ok (.xrecv h (tcT p) (nbT p))
  | 0xB8 => decI p (.svc h (immI p))
  | 0xB9 => decI p (.trap h (immI p))
  | 0xBA => okIf (tyA p == 0) (.bkpt h (subA p))
  | 0xBB => decAs p [.eret h, .eretEnd h, .eretRedir h]
  | 0xBC => decI p (.csrr h ((immI p).extractLsb' 0 12))
  | 0xBD => decI p (.csrw h ((immI p).extractLsb' 0 12))
  | 0xBE => if subI p == 0 then .ok (.mark h (immI p)) else okIf (subI p == 1) (.markV h (immI p))
  | 0xBF => decA p 0 (.fltrd h)
  | _ => .error 1

/-- The decoder of a slot's word, with the next slot's word for S format: an instruction, or the cause 1 or 2 of R63. -/
def decodeRaw (w w2 : W64) : Decoded :=
  let opc := opcOf w
  if opc.extractLsb' 3 5 == 0x1E#5 then .ok (.hint (opc.extractLsb' 0 3))
  else if opc == 0x78 then decS w w2 1 (.spt · (modeS w w2 0))
  else if opc == 0x79 then decS w w2 2 (.spd · (modeS w w2 1))
  else
    match decodeBody opc.toNat ⟨.always, decodeTarget (tg0Of w), decodeTarget (tg1Of w)⟩ (payOf w), decodePM (pmOf w) with
    | .error c, _ => .error c
    | .ok _, none => .error 2
    | .ok _, some pm => decodeBody opc.toNat ⟨pm, decodeTarget (tg0Of w), decodeTarget (tg1Of w)⟩ (payOf w)

/-- The decoder of a slot: the instruction, or the lowest ILLEGAL cause of the slot's own word among 1, 2, 4 and 6
(R63, R483). -/
def decodeWord (w w2 : W64) : Decoded :=
  match decodeRaw w w2 with
  | .error c => .error c
  | .ok i =>
    match i.breach with
    | some c => .error c
    | none => .ok i

/-! ### Encoding -/

/-- TYPE of the integer family: 1 is `.w` (R57). -/
def wA (w : Bool) : BitVec 4 := (0 : BitVec 3) ++ bit w
/-- SUB of an I-format integer form: bit [0] is W (R143). -/
def wI (w : Bool) : BitVec 4 := (0 : BitVec 3) ++ bit w

/-- The S-format words (R58), slot n first. -/
def encodeS (opc : BitVec 8) (mode : BitVec 5) (t : SF) : W128 :=
  opc ++ (0 : BitVec 2) ++ mode ++ t.shape ++ t.out ++ t.l0 ++ t.l1 ++ t.l2 ++ t.l3 ++ t.l4 ++ t.l5 ++ t.l6 ++ t.l7

/-- The words of an instruction, slot n and, for S format, slot n+1 (R52, R58); an event has none and encodes as the
reserved word 0. -/
def encode : Instr → W64 × W64
  | .bro h eid ofs => (packWord 0x01 h (payB eid ofs), 0)
  | .bri h eid => (packWord 0x02 h (payB eid 0), 0)
  | .call h eid ofs => (packWord 0x03 h (payB eid ofs), 0)
  | .ret h eid => (packWord 0x04 h (payB eid 0), 0)
  | .iter h => (packWord 0x05 h (payA 0 0), 0)
  | .null h reg => (packWord 0x06 h (payG reg), 0)
  | .mnull h l => (packWord 0x07 h (payG l), 0)
  | .grd h reg => (packWord 0x08 h (payG reg), 0)
  | .gwr h reg => (packWord 0x09 h (payG reg), 0)
  | .movi h imm => (packWord 0x0A h (payI 0 imm), 0)
  | .movhi h imm => (packWord 0x0A h (payI 1 imm), 0)
  | .mov h => (packWord 0x0B h (payA 0 0), 0)
  | .sel h => (packWord 0x0C h (payA 0 0), 0)
  | .tst h cc => (packWord 0x0D h (payA (encodeTcc cc) 0), 0)
  | .fend h => (packWord 0x0E h (payA 0 0), 0)
  | .nop h => (packWord 0x0F h (payA 0 0), 0)
  | .yld h => (packWord 0x0F h (payA 1 0), 0)
  | .addi h w imm => (packWord 0x12 h (payI (wI w) imm), 0)
  | .add h w => (packWord 0x10 h (payA 0 (wA w)), 0)
  | .sub h w => (packWord 0x11 h (payA 0 (wA w)), 0)
  | .mul h w => (packWord 0x13 h (payA 0 (wA w)), 0)
  | .mulh h w => (packWord 0x13 h (payA 1 (wA w)), 0)
  | .mulhu h w => (packWord 0x13 h (payA 2 (wA w)), 0)
  | .div h w => (packWord 0x14 h (payA 0 (wA w)), 0)
  | .divu h w => (packWord 0x14 h (payA 1 (wA w)), 0)
  | .rem h w => (packWord 0x14 h (payA 2 (wA w)), 0)
  | .remu h w => (packWord 0x14 h (payA 3 (wA w)), 0)
  | .and h w => (packWord 0x15 h (payA 0 (wA w)), 0)
  | .or h w => (packWord 0x16 h (payA 0 (wA w)), 0)
  | .xor h w => (packWord 0x17 h (payA 0 (wA w)), 0)
  | .andn h w => (packWord 0x18 h (payA 0 (wA w)), 0)
  | .shl h w => (packWord 0x1C h (payA 0 (wA w)), 0)
  | .shr h w => (packWord 0x1D h (payA 0 (wA w)), 0)
  | .sar h w => (packWord 0x1E h (payA 0 (wA w)), 0)
  | .rotl h w => (packWord 0x22 h (payA 0 (wA w)), 0)
  | .clz h w => (packWord 0x23 h (payA 0 (wA w)), 0)
  | .ctz h w => (packWord 0x23 h (payA 1 (wA w)), 0)
  | .popc h w => (packWord 0x23 h (payA 2 (wA w)), 0)
  | .min h w => (packWord 0x24 h (payA 0 (wA w)), 0)
  | .max h w => (packWord 0x24 h (payA 1 (wA w)), 0)
  | .minu h w => (packWord 0x24 h (payA 2 (wA w)), 0)
  | .maxu h w => (packWord 0x24 h (payA 3 (wA w)), 0)
  | .abs h w => (packWord 0x25 h (payA 0 (wA w)), 0)
  | .addsh h w k => (packWord 0x29 h (payA ((0 : BitVec 5) ++ k) (wA w)), 0)
  | .andi h imm => (packWord 0x19 h (payI 0 imm), 0)
  | .ori h imm => (packWord 0x1A h (payI 0 imm), 0)
  | .xori h imm => (packWord 0x1B h (payI 0 imm), 0)
  | .shli h w n => (packWord 0x1F h (payI (wI w) ((0 : BitVec 26) ++ n)), 0)
  | .shri h w n => (packWord 0x20 h (payI (wI w) ((0 : BitVec 26) ++ n)), 0)
  | .sari h w n => (packWord 0x21 h (payI (wI w) ((0 : BitVec 26) ++ n)), 0)
  | .sext h n => (packWord 0x26 h (payI 0 ((0 : BitVec 25) ++ n)), 0)
  | .zext h n => (packWord 0x26 h (payI 1 ((0 : BitVec 25) ++ n)), 0)
  | .bfx h pos wd1 sx => (packWord 0x27 h (payI 0 ((0 : BitVec 19) ++ bit sx ++ wd1 ++ pos)), 0)
  | .bfi h pos wd1 => (packWord 0x28 h (payI 0 ((0 : BitVec 20) ++ wd1 ++ pos)), 0)
  | .fadd h => (packWord 0x30 h (payA 0 0), 0)
  | .fsub h => (packWord 0x31 h (payA 0 0), 0)
  | .fmul h => (packWord 0x32 h (payA 0 0), 0)
  | .ffma h => (packWord 0x33 h (payA 0 0), 0)
  | .fdiv h => (packWord 0x34 h (payA 0 0), 0)
  | .fsqrt h => (packWord 0x35 h (payA 0 0), 0)
  | .fmin h => (packWord 0x36 h (payA 0 0), 0)
  | .fmax h => (packWord 0x37 h (payA 0 0), 0)
  | .ftst h cc => (packWord 0x38 h (payA (encodeFcc cc) 0), 0)
  | .fcvt h k w => (packWord 0x39 h (payA (encodeFcvt k) (wA w)), 0)
  | .fclass h => (packWord 0x3A h (payA 0 0), 0)
  | .frnd h d => (packWord 0x3B h (payA (encodeFrnd d) 0), 0)
  | .fsgn h o => (packWord 0x3C h (payA (encodeFsgn o) 0), 0)
  | .ld h m => (packWord 0x40 h (encodeMF m), 0)
  | .st h m => (packWord 0x41 h (encodeMF m), 0)
  | .ldh h m => (packWord 0x42 h (encodeMF m), 0)
  | .lds h m => (packWord 0x43 h (encodeMF m), 0)
  | .pref h m => (packWord 0x44 h (encodeMF m), 0)
  | .amoAdd h m => (packWord 0x45 h (encodeMF m), 0)
  | .amoAnd h m => (packWord 0x46 h (encodeMF m), 0)
  | .amoOr h m => (packWord 0x47 h (encodeMF m), 0)
  | .amoXor h m => (packWord 0x48 h (encodeMF m), 0)
  | .amoSwap h m => (packWord 0x49 h (encodeMF m), 0)
  | .amoMin h m => (packWord 0x4A h (encodeMF m), 0)
  | .amoMax h m => (packWord 0x4B h (encodeMF m), 0)
  | .cas h m => (packWord 0x4C h (encodeMF m), 0)
  | .fence h m => (packWord 0x4D h (encodeMF m), 0)
  | .stmc h m => (packWord 0x4E h (encodeMF m), 0)
  | .hdInit h m => (packWord 0x53 h (encodeMF m), 0)
  | .hdArr h m => (packWord 0x54 h (encodeMF m), 0)
  | .hdWait h m => (packWord 0x55 h (encodeMF m), 0)
  | .hdTest h m => (packWord 0x56 h (encodeMF m), 0)
  | .hdXpct h m => (packWord 0x57 h (encodeMF m), 0)
  | .fget h m => (packWord 0x5A h (encodeMF m), 0)
  | .fset h m => (packWord 0x5B h (encodeMF m), 0)
  | .htNew h => (packWord 0x50 h (payA 0 0), 0)
  | .htEnd h => (packWord 0x51 h (payA 0 0), 0)
  | .htCancel h => (packWord 0x52 h (payA 0 0), 0)
  | .spawn h x => (packWord 0x58 h (payA x 0), 0)
  | .fref h => (packWord 0x59 h (payA 0 0), 0)
  | .fdrop h => (packWord 0x59 h (payA 1 0), 0)
  | .ftest h => (packWord 0x5C h (payA 0 0), 0)
  | .peek h => (packWord 0x5C h (payA 1 0), 0)
  | .launch h => (packWord 0x5D h (payA 0 0), 0)
  | .lwait h => (packWord 0x5D h (payA 1 0), 0)
  | .cancel h => (packWord 0x5E h (payA 0 0), 0)
  | .send h => (packWord 0x5F h (payA 0 0), 0)
  | .tdef h tc => (packWord 0x60 h (payT 0 0 tc 0 0), 0)
  | .tstate h ta hi => (packWord 0x61 h (payT ta 0 0 ((0 : BitVec 9) ++ bit hi) 0), 0)
  | .ttest h ta => (packWord 0x61 h (payT ta 0 0 0x100 0), 0)
  | .tfree h ta => (packWord 0x62 h (payT ta 0 0 0 0), 0)
  | .tzero h tc nb => (packWord 0x63 h (payT 0 0 tc 0 (tflNb nb)), 0)
  | .tget h ta nb => (packWord 0x64 h (payT ta 0 0 0 (tflNb nb)), 0)
  | .tsetE h tc => (packWord 0x65 h (payT 0 0 tc 0 0), 0)
  | .tsetLnk h tc => (packWord 0x65 h (payT 0 0 tc 0x100 0), 0)
  | .tsetExp h tc => (packWord 0x65 h (payT 0 0 tc 0x200 0), 0)
  | .tring h ta tc n => (packWord 0x66 h (payT ta 0 tc ((0 : BitVec 6) ++ n) 0), 0)
  | .tcopy h ta tc nb => (packWord 0x67 h (payT ta 0 tc 0 (tflNb nb)), 0)
  | .pld h tc nb c => (packWord 0x68 h (payT 0 0 tc 0 (tflJob nb c)), 0)
  | .pst h ta nb c => (packWord 0x69 h (payT ta 0 0 0 (tflJob nb c)), 0)
  | .pcpy h c => (packWord 0x6A h (payT 0 0 0 0 (tflJob false c)), 0)
  | .pgat h tc nb c => (packWord 0x6B h (payT 0 0 tc 0 (tflJob nb c)), 0)
  | .psct h ta nb c => (packWord 0x6B h (payT ta 0 0 0x100 (tflJob nb c)), 0)
  | .prdc h ta nb c => (packWord 0x6C h (payT ta 0 0 0 (tflJob nb c)), 0)
  | .pxpd h tc nb c => (packWord 0x6D h (payT 0 0 tc 0 (tflJob nb c)), 0)
  | .pcmp h ta nb c => (packWord 0x6D h (payT ta 0 0 0x100 (tflJob nb c)), 0)
  | .pstrmIn h tc c => (packWord 0x6E h (payT 0 0 tc 0 (tflJob false c)), 0)
  | .pstrmOut h tc c => (packWord 0x6E h (payT 0 0 tc 1 (tflJob false c)), 0)
  | .pbar h t => (packWord 0x6F h (match t with | some tc => payT 0 0 tc 0 0 | none => payT 0 0 0 1 0), 0)
  | .ppset h pa pb => (packWord 0x70 h (payI 0 ((0 : BitVec 19) ++ pb ++ (0 : BitVec 3) ++ pa)), 0)
  | .pmmaI h p => (packWord 0x71 h (payT p.ta p.tb p.tc 0 (tflP p.sq p.acc p.nb)), 0)
  | .pmmaS h p => (packWord 0x72 h (payT p.ta p.tb p.tc 0 (tflP p.sq p.acc p.nb)), 0)
  | .pmmaX h p => (packWord 0x73 h (payT p.ta p.tb p.tc 0 (tflP p.sq p.acc p.nb)), 0)
  | .pmvI h p => (packWord 0x74 h (payT p.ta p.tb p.tc 0 (tflP p.sq p.acc p.nb)), 0)
  | .pmvS h p => (packWord 0x74 h (payT p.ta p.tb p.tc 0x100 (tflP p.sq p.acc p.nb)), 0)
  | .pmvX h p => (packWord 0x74 h (payT p.ta p.tb p.tc 0x200 (tflP p.sq p.acc p.nb)), 0)
  | .pzacc h tc sq nb => (packWord 0x75 h (payT 0 0 tc 0 (tflP sq false nb)), 0)
  | .pwmap h ta tc nb => (packWord 0x76 h (payT ta 0 tc 0 (tflNb nb)), 0)
  | .spt t acc => (let b := encodeS 0x78 ((0 : BitVec 4) ++ bit acc) t; (b.extractLsb' 64 64, b.extractLsb' 0 64))
  | .spd t one => (let b := encodeS 0x79 ((0 : BitVec 3) ++ bit one ++ (0 : BitVec 1)) t; (b.extractLsb' 64 64, b.extractLsb' 0 64))
  | .spld h ta nb => (packWord 0x7A h (payT ta 0 0 0 (tflNb nb)), 0)
  | .spst h tc nb => (packWord 0x7B h (payT 0 0 tc 0 (tflNb nb)), 0)
  | .spz h sp => (packWord 0x7C h (payT 0 0 0 ((0 : BitVec 9) ++ bit sp) 0), 0)
  | .spfence h => (packWord 0x7D h (payT 0 0 0 0 0), 0)
  | .vadd h v => (packWord 0x80 h (payT v.ta v.tb v.tc 0 (tflNb v.nb)), 0)
  | .vsub h v => (packWord 0x81 h (payT v.ta v.tb v.tc 0 (tflNb v.nb)), 0)
  | .vmul h v => (packWord 0x82 h (payT v.ta v.tb v.tc 0 (tflNb v.nb)), 0)
  | .vfma h v => (packWord 0x83 h (payT v.ta v.tb v.tc 0 (tflNb v.nb)), 0)
  | .vfms h v => (packWord 0x84 h (payT v.ta v.tb v.tc 0 (tflNb v.nb)), 0)
  | .vmin h v => (packWord 0x85 h (payT v.ta v.tb v.tc 0 (tflNb v.nb)), 0)
  | .vmax h v => (packWord 0x86 h (payT v.ta v.tb v.tc 0 (tflNb v.nb)), 0)
  | .vabs h v => (packWord 0x87 h (payT v.ta 0 v.tc 0 (tflNb v.nb)), 0)
  | .vneg h v => (packWord 0x88 h (payT v.ta 0 v.tc 0 (tflNb v.nb)), 0)
  | .vrcp h v => (packWord 0x89 h (payT v.ta 0 v.tc 0 (tflNb v.nb)), 0)
  | .vrsq h v => (packWord 0x8A h (payT v.ta 0 v.tc 0 (tflNb v.nb)), 0)
  | .vdiv h v => (packWord 0x8B h (payT v.ta v.tb v.tc 0 (tflNb v.nb)), 0)
  | .vsqrt h v => (packWord 0x8C h (payT v.ta 0 v.tc 0 (tflNb v.nb)), 0)
  | .vexp2 h v => (packWord 0x8D h (payT v.ta 0 v.tc 0 (tflNb v.nb)), 0)
  | .vlog2 h v => (packWord 0x8E h (payT v.ta 0 v.tc 0 (tflNb v.nb)), 0)
  | .vcvt h v => (packWord 0x8F h (payT v.ta 0 v.tc 0 (tflNb v.nb)), 0)
  | .vqnt h v wm => (packWord 0x90 h (payT v.ta v.tb v.tc 0 ((0 : BitVec 6) ++ bit wm ++ bit v.nb)), 0)
  | .vdqnt h v => (packWord 0x91 h (payT v.ta 0 v.tc 0 (tflNb v.nb)), 0)
  | .vscl h v b => (packWord 0x92 h (payT v.ta v.tb v.tc ((0 : BitVec 9) ++ bit b) (tflNb v.nb)), 0)
  | .vred h v op all => (packWord 0x93 h (payT v.ta 0 v.tc ((0 : BitVec 7) ++ bit all ++ encodeRedOp op) (tflNb v.nb)), 0)
  | .vscan h v op all => (packWord 0x94 h (payT v.ta 0 v.tc ((0 : BitVec 7) ++ bit all ++ encodeRedOp op) (tflNb v.nb)), 0)
  | .vbcast h src tc nb => (packWord 0x95 h (match src with | some ta => payT ta 0 tc 1 (tflNb nb) | none => payT 0 0 tc 0 (tflNb nb)), 0)
  | .vperm h v => (packWord 0x96 h (payT v.ta v.tb v.tc 0 (tflNb v.nb)), 0)
  | .vsel h v => (packWord 0x97 h (payT v.ta v.tb v.tc 0 (tflNb v.nb)), 0)
  | .vcmp h v c => (packWord 0x98 h (payT v.ta v.tb v.tc (encodeVCond c) (tflNb v.nb)), 0)
  | .vand h v => (packWord 0x99 h (payT v.ta v.tb v.tc 0 (tflNb v.nb)), 0)
  | .vor h v => (packWord 0x9A h (payT v.ta v.tb v.tc 0 (tflNb v.nb)), 0)
  | .vxor h v => (packWord 0x9B h (payT v.ta v.tb v.tc 0 (tflNb v.nb)), 0)
  | .vshl h v c => (packWord 0x9C h (payT v.ta (shTb c) v.tc (shSub false c) (tflNb v.nb)), 0)
  | .vshr h v c ar => (packWord 0x9D h (payT v.ta (shTb c) v.tc (shSub ar c) (tflNb v.nb)), 0)
  | .vpopc h v => (packWord 0x9E h (payT v.ta 0 v.tc 0 (tflNb v.nb)), 0)
  | .viota h tc nb => (packWord 0x9F h (payT 0 0 tc 0 (tflNb nb)), 0)
  | .visect h v => (packWord 0xA0 h (payT v.ta v.tb v.tc 0 (tflNb v.nb)), 0)
  | .vpfx h v r => (packWord 0xA1 h (match r with | some tb => payT v.ta tb v.tc 1 (tflNb v.nb) | none => payT v.ta 0 v.tc 0 (tflNb v.nb)), 0)
  | .vgat h v b => (packWord 0xA2 h (payT v.ta v.tb v.tc ((0 : BitVec 9) ++ bit b) (tflNb v.nb)), 0)
  | .vsct h v => (packWord 0xA3 h (payT v.ta v.tb v.tc 0 (tflNb v.nb)), 0)
  | .vdot8 h v => (packWord 0xA4 h (payT v.ta v.tb v.tc 0 (tflNb v.nb)), 0)
  | .red h => (packWord 0xB0 h (payA 0 0), 0)
  | .rdinit h => (packWord 0xB1 h (payA 0 0), 0)
  | .rdinitFree h => (packWord 0xB1 h (payA 1 0), 0)
  | .rdwait h => (packWord 0xB2 h (payA 0 0), 0)
  | .rdwaitF h => (packWord 0xB2 h (payA 1 0), 0)
  | .eret h => (packWord 0xBB h (payA 0 0), 0)
  | .eretEnd h => (packWord 0xBB h (payA 1 0), 0)
  | .eretRedir h => (packWord 0xBB h (payA 2 0), 0)
  | .fltrd h => (packWord 0xBF h (payA 0 0), 0)
  | .xsend h ta nb => (packWord 0xB3 h (payT ta 0 0 0 (tflNb nb)), 0)
  | .xrecv h tc nb => (packWord 0xB4 h (payT 0 0 tc 0 (tflNb nb)), 0)
  | .svc h imm => (packWord 0xB8 h (payI 0 imm), 0)
  | .trap h imm => (packWord 0xB9 h (payI 0 imm), 0)
  | .bkpt h code => (packWord 0xBA h (payA code 0), 0)
  | .csrr h n => (packWord 0xBC h (payI 0 ((0 : BitVec 20) ++ n)), 0)
  | .csrw h n => (packWord 0xBD h (payI 0 ((0 : BitVec 20) ++ n)), 0)
  | .mark h imm => (packWord 0xBE h (payI 0 imm), 0)
  | .markV h imm => (packWord 0xBE h (payI 1 imm), 0)
  | .hint c => ((0x1E : BitVec 5) ++ c ++ (0 : BitVec 56), 0)
  | _ => (0, 0)

/-- A word's reserved fields are zero: encoding what it decodes to gives it back (R61, R64). -/
def reservedClear (i : Instr) (w w2 : W64) : Bool :=
  (encode i).1 == w && (!i.twoSlot || (encode i).2 == w2)

/-- The words of an instruction whose bits are numbered as the opcode table numbers them: bit 0 is the least significant bit
of the first word, slot n; slot n+1 follows it. -/
def tableWords (w : Nat) : W64 × W64 := (BitVec.ofNat 64 w, BitVec.ofNat 64 (w >>> 64))

/-- The instruction the decoder reads from a row's bits (`nbits` of them, the bits above being 0). -/
def decodeTableWord (nbits w : Nat) : Option Instr :=
  let v := w % 2 ^ nbits
  match decodeWord (tableWords v).1 (tableWords v).2 with
  | .ok i => some i
  | .error _ => none

end Sys2Proof
end

