-- ==== Sys2Proof/Machine/State.lean ====
section
/-! DEFINITION. Everything the manual gives the machine, as plain data, and the machine right after reset. The objects are
kept in flat lists keyed by number (frames, blocks, operations in flight), so that every event of the opcode table names the
object it acts on. INVENTORY.md, heading State, lists each piece with its rule and its reset value. -/
namespace Sys2Proof.Machine

/-- Why a step stops. -/
inductive Fault where
  /-- An instruction word is executed while no mapped block is current. Raised by the meaning of every instruction word;
  `step` never executes a word so (it runs words only by `Act.fire`). Safe: the hardware has no such execution. -/
  | noCurrentBlock
  deriving DecidableEq, Repr

/-- Why a step has no meaning. -/
inductive Refusal where
  /-- An instruction this model gives no meaning yet, by its mnemonic. Raised by refused arms of `exec` only. Safe. -/
  | notModelled (mnemonic : String)
  deriving DecidableEq, Repr

/-- Who a record, message, job or access belongs to: the issuing frame and block (R235, R275, R438). -/
structure Org where
  ctx  : Nat
  fid  : Nat
  fref : Nat
  stall : Nat
  blk  : Nat
  fn   : W64
  bsq  : W32
  slot : Nat
  heat : Nat
  iter : Nat
  hnd  : Bool
  /-- the block carried KEEP (R277: the KEEP flag of the issuing block) -/
  keep : Bool
  /-- the frame is captured (R428) -/
  capt : Bool
  det  : Bool
  inst : Option Nat
  launch : Option Nat
  job  : Option Nat
  /-- number of the block in flight, and the scope of the operation (R222) -/
  bid  : Nat := 0
  scp  : Scope := .sys
  deriving DecidableEq, Repr, Inhabited

/-- The origin of a delivery for the critical path (R429): edge kind and origin block. -/
structure Arrival where
  edge  : Nat
  fn    : W64
  bsq   : W32
  stall : Nat
  /-- the origin lies in another package (R430) -/
  far   : Bool
  deriving DecidableEq, Repr, Inhabited

/-- The permissions and attributes of a translation (R37, R393, R395). -/
structure Attr where
  r : Bool
  w : Bool
  x : Bool
  sync : Bool
  heatpriv : Bool
  scratch : Bool
  enc : Bool
  deriving DecidableEq, Repr, Inhabited

/-- One byte of a translated access: its VA, its base PA, and whether its page is heat-private (R85). -/
structure BLoc where
  va : Nat
  pa : Nat
  hp : Bool
  deriving DecidableEq, Repr, Inhabited

/-- A checked and translated access (R234). -/
structure Acc where
  ctx  : Nat
  heat : Nat
  va   : Nat
  size : Nat
  locs : List BLoc
  deriving DecidableEq, Repr, Inhabited

/-- What a watchpoint sees of an access (R418). -/
structure Seen where
  acc  : Acc
  rd   : Bool
  wr   : Bool
  /-- sets A and D at commit; LDS does not (R396) -/
  mark : Bool
  deriving DecidableEq, Repr, Inhabited

/-- A cached translation of the micro-TLB or hall TLB (R390): a page of `2^lg` bytes. -/
structure Tlb where
  ctx : Nat
  va  : Nat
  lg  : Nat
  pa  : Nat
  attr : Attr
  deriving DecidableEq, Repr, Inhabited

/-- A range entry (R391). -/
structure RangeEntry where
  limit  : Nat
  base   : Nat
  pabase : Nat
  attr   : Attr
  v      : Bool
  deriving DecidableEq, Repr, Inhabited

/-- Tile state (R30, R261). -/
inductive TSt where
  | empty | filling | ready | draining
  deriving DecidableEq, Repr, Inhabited

/-- The 128-bit tile descriptor (R30), field by field, and the links of the tile to running work. -/
structure Tile where
  rch : Nat
  nsq : Nat
  rslot : Nat
  rcnt : Nat
  rfill : Nat
  rdrain : Nat
  arr : Nat
  exp : Nat
  afl : BitVec 5
  wmv : Bool
  wml : Nat
  scl : Nat
  sc  : Bool
  st  : TSt
  shape : Nat
  wid : Nat
  fmt : Nat
  lay : Bool
  bank : Nat
  row : Nat
  /-- side tiles that become READY with this one (R288) -/
  sides : List Nat
  /-- the block whose message or job made it READY last (R429) -/
  origin : Arrival
  deriving DecidableEq, Repr, Inhabited

/-- A message, job or tile-table operation that left a block at commit (R46, R262): the instruction itself, its operands, the
control registers it carries (R105, R112, R188), its place in stall order, and the folds it still owes (R106). -/
structure Msg where
  i    : Instr
  l    : W64
  r    : W64
  pp   : BitVec 13
  rm   : BitVec 3
  spc  : BitVec 18
  /-- FCSR.RM, PP and SPC are those after the commit of the issuing block. `pos` is the commit position (R262). -/
  pos  : Nat
  org  : Org
  /-- tiles whose fold into AF this message still owes (R106) -/
  folds : List Nat
  /-- accumulator sequence number SEQ of R120, when one is carried -/
  seq  : Option Nat
  deriving DecidableEq, Repr, Inhabited

/-- A running plane-array message (R119-R125). The accumulators and the map are computed from the tiles as the message starts. -/
structure PaRun where
  m      : Msg
  /-- the source tiles or ring slots it holds -/
  srcs   : List Nat
  tc     : Nat
  start  : Nat
  /-- the count of R118, and the count from `start`: after a stop that of the chunks not yet done (R123) -/
  cycles : Nat
  span   : Nat
  /-- plane pairs of each K chunk (R118), and how many chunks have ended -/
  costs  : List Nat
  chunk  : Nat
  /-- what TC will hold, its AFL, and its NSQ when the message changes that -/
  out    : List Byte
  flags  : BitVec 5
  nsq    : Option Nat
  /-- re-executions of the chunk that ends next (R125) -/
  retried : Nat
  abandoned : Bool
  /-- cycles of re-executed chunks (R125, R431) -/
  redone : Nat
  /-- cycles from the message's start to its last resumption (R425) -/
  spent : Nat := 0
  deriving DecidableEq, Repr, Inhabited

/-- A running vector message (R159-R166), computed from its sources as they stand at its start (R161). -/
structure VecRun where
  m     : Msg
  srcs  : List Nat
  /-- each destination with the bytes it will hold; the first is TC -/
  outs  : List (Nat × List Byte)
  start  : Nat
  /-- the count of R160, and the count from `start`: after a stop that of the rows not yet done (R164) -/
  cycles : Nat
  span   : Nat
  /-- the cost in cycles of each result row, or of each group for VQNT and VDQNT, and how many are done -/
  costs  : List Nat
  rowsDone : Nat
  flags  : BitVec 5
  retried : Nat
  abandoned : Bool
  /-- cycles from the message's start to its last resumption (R425) -/
  spent : Nat := 0
  deriving DecidableEq, Repr, Inhabited

/-- An issued SPE message (R202): its scratch writes, its tile rows and its flags, computed from what it read. -/
structure SpeRun where
  m     : Msg
  start : Nat
  done  : Nat
  writes : List (Nat × W32)
  tile  : Option Nat
  bytes : List Byte
  flags : BitVec 4
  cost  : Nat
  /-- the entries it reads and writes (R202), and whether it issued second in its cycle (R203) -/
  reads : List Nat
  second : Bool
  retried : Nat
  deriving DecidableEq, Repr, Inhabited

/-- The state of a porter job (R273-R278). -/
inductive JobSt where
  | accepted | running | paused | held
  deriving DecidableEq, Repr, Inhabited

/-- A write that a round will perform when it completes (R231, R274). -/
inductive JobWrite where
  | mem (a : Acc) (bs : List Byte)
  /-- an update of PRDC: operation code, FP32 or INT32, operand (R292) -/
  | rmw (a : Acc) (op : Nat) (fp : Bool) (x : W32)
  /-- PRDC's flags word: AFL ORed with the job's flags (R292) -/
  | word (a : Acc) (afl : BitVec 5)
  | tile (t ofs : Nat) (bs : List Byte)
  | afl (t : Nat) (fl : BitVec 5)
  deriving DecidableEq, Repr, Inhabited

/-- A round in progress: its writes, the bytes it read, the position after it, and the pages it touched (R274, R396). -/
structure Round where
  writes : List JobWrite
  rd     : Nat
  next   : Nat
  /-- each access as it was translated, and whether it writes -/
  spans  : List (Acc × Bool)
  /-- the map or codebook read (R288), and the ring slots the round touches, in order (R294) -/
  aux    : List Byte
  slots  : List Nat
  deriving DecidableEq, Repr, Inhabited

/-- A porter job after acceptance (R273): its card, progress, footprint and destinations. -/
structure Job where
  id    : Nat
  m     : Msg
  st    : JobSt
  /-- the eight card words (R269); none for TZERO, TCOPY, XSEND, XRECV -/
  card  : List W64
  heat  : Nat
  /-- index of the next byte of the primary stream, and its length (R274) -/
  pos   : Nat
  total : Nat
  /-- the width map or the codebook that the first round read (R288) -/
  aux   : List Byte
  round : Option Round
  /-- resolved destinations (tC first, or a ring's slots, the newest first) and sources -/
  dests : List Nat
  srcs  : List Nat
  /-- the port a PSTRM is bound to (R294) -/
  port  : Option Nat
  /-- bytes read and written (R277, R425, R431) -/
  rd    : Nat
  wr    : Nat
  start : Nat
  flags : BitVec 5
  /-- reclaimed while a round was in progress: it stops at the round's end (R278) -/
  reclaimed : Bool
  acceptNo : Nat
  /-- scratch footprint: (hall, pair, first offset, end offset) (R403) -/
  scratch : List (Nat × Nat × Nat × Nat)
  /-- its destinations have followed R274; its completion action remains (R277) -/
  settled : Bool
  /-- the message an XRECV took (R318) -/
  remote : Option RemoteTile
  /-- its row of the footprint table stands (R229, R456) -/
  foot : Bool
  deriving DecidableEq, Repr, Inhabited

/-- An entry of a stall's arrival history (R429). -/
structure HistEntry where
  fn  : W64
  bsq : W32
  blk : Nat
  cyc : Nat
  arr : Arrival
  wait : Nat
  captured : Bool
  hnd : Bool
  det : Bool
  deriving DecidableEq, Repr, Inhabited

/-- One stall (R15, R32-R35, R263, R273, R431, R455). -/
structure Stall where
  owner : Option Nat
  /-- bank roles, 32 of them: 0 tile store, 1 token FIFO, 2 frame spill (R32, R74) -/
  roles : List Nat
  ranges : List RangeEntry
  /-- stall store: bank·16,384 + row·128 + byte (R32), unlisted bytes read 0 -/
  store : List Host.Cell
  /-- the 64 descriptors t0-t63 (R30) -/
  tiles : List Tile
  /-- SPE scratch s0-s2047 (R35), unlisted entries read 0 -/
  scratch : List (Nat × W32)
  /-- scratch entry pairs lost to an uncorrectable error, each with a mask of its entries written since (R456, R457) -/
  lostPairs : List (Nat × Nat)
  utlb : List Tlb
  /-- block cache: (VA of a block, its bytes), every version fetched since it was last empty (R67) -/
  bcache : List (Nat × List Byte)
  inPa : List Msg
  inVec : List Msg
  inSpe : List Msg
  inPor : List Msg
  /-- tile-table operations not yet applied (R262) -/
  tops : List Msg
  commitPos : Nat
  pa : Option PaRun
  vec : Option VecRun
  spe : List SpeRun
  jobs : List Job
  /-- round-robin position among the porter's jobs (R273) and between DET and FREE frames (R363) -/
  turn : Nat
  detTurn : Bool
  counters : List Nat
  cyc : Nat
  hist : List HistEntry
  suspect : Bool
  /-- pre-empted: its state is saved and nothing runs (R452) -/
  saved : Bool
  /-- tile pages: resident and dirty marks, and pins (R455) -/
  pinned : List Bool
  resident : List Bool
  dirty : List Bool
  /-- island frequency in units of 62.5 MHz (R5) -/
  freq : Nat
  /-- the first cycle after the last SPE message issued: i + c (R203) -/
  speNext : Nat
  /-- write sets of the messages that ended in a cycle, with that cycle (R203) -/
  speDone : List (Nat × List Nat)
  /-- the first cycles in which the plane array and the vector unit may start a message (R119, R160) -/
  paNext : Nat
  vecNext : Nat
  /-- barriers that have left the porter inbox while jobs before them are not complete (R295) -/
  bars : List Msg
  /-- commits of traced frames (R430) -/
  tracedCommits : Nat
  /-- the model's own: an instruction has issued since the last clock (counter IDLE of R431) -/
  issued : Bool
  deriving DecidableEq, Repr, Inhabited

/-- An operand token between slots (R368), and the slot that sent it (R47). -/
structure Transit where
  src  : Nat
  slot : Nat
  fld  : OpField
  val  : W64
  arr  : Arrival
  deriving DecidableEq, Repr, Inhabited

/-- One instruction slot of a mapped block (R42): its operand fields and whether it has fired. -/
structure Slot where
  l : Option W64
  r : Option W64
  p : Option W64
  fired : Bool
  deriving DecidableEq, Repr, Inhabited

/-- What a fired exit recorded (R44, R136, R450). -/
inductive Exit where
  | to (a : Nat)
  | call (a ret : Nat)
  | fend
  | eret (form : Nat) (l : Nat) (r : W64)
  deriving DecidableEq, Repr, Inhabited

/-- What an instruction waits on (R48, R361): a continuation linked at a cell or hurdle word is ended by its delivery; the
others end when what they name holds. -/
inductive Wait where
  | cont (va : Nat)
  | tile (t : Nat)
  | tileDone (t : Nat)
  | tops (t : Nat)
  /-- a tile page of the tile must be refilled (R455) -/
  | page (t : Nat)
  | heatPool
  | heatEnd
  | launch (slot : Nat)
  | red (hall slot : Nat)
  | folds
  | spe
  | cancel (lvl obj : Nat)
  /-- a walk in progress (R390), a memory operation or an order-unit slot: the frame is not parked by these (R48) -/
  | walk
  | order
  deriving DecidableEq, Repr, Inhabited

/-- What a block does at its commit, recorded when the instruction executes (R46). -/
inductive Effect where
  | store (lsid : Nat) (acc : Acc) (data : W64) (rel : Bool)
  | atomic (op : Nat)
  | mcast (lsid : Nat) (acc : Acc) (data : W64) (rel : Bool) (entries : List W64)
  | hurdle (lsid : Nat) (acc : Acc) (kind : Nat) (n : W32)
  | csrw (n : Nat) (v : W64)
  | ppset (pa pb : BitVec 5)
  | spawn (cell : Nat) (blk : Nat) (arg : W64) (extra : Nat)
  | fref (cell n kind : Nat) (acc : Acc)
  | fdrop (cell : Nat) (acc : Acc)
  | fset (lsid : Nat) (acc : Acc) (v : W64)
  | launch (slot : Nat) (word arg : W64)
  | cancel (lvl obj status : Nat)
  | send (inst node input : Nat) (tag : W16) (v : W64)
  | sendIngress (ctx : Nat) (dest v : W64)
  | heatNew (tag : Nat)
  | heatEnd
  | heatCancel (tag : Nat)
  | msg (i : Instr) (l r : W64)
  | tgetFold (flags : BitVec 5)
  | red (hall slot rid lvl idx : Nat) (v : W64)
  | rdinit (slot : Nat)
  | rdfree (hall slot rid : Nat)
  | svc (imm : W32) (l : W64)
  | mark (imm : W32) (v : W64)
  | yld
  deriving DecidableEq, Repr, Inhabited

/-- A mapped (or parked) block (R39-R51, R366, R370). -/
structure Block where
  bid  : Nat
  fid  : Nat
  addr : Nat
  hdr  : W128
  words : List W64
  slots : List Slot
  transit : List Transit
  effs : List (Nat × Effect)
  /-- registers satisfied: (register, slot, value or none for NULL) -/
  gws  : List (Nat × Nat × Option W64)
  /-- LSIDs satisfied, with the slot -/
  lsids : List (Nat × Nat)
  exits : List (Nat × Exit)
  fflags : BitVec 5
  aflags : BitVec 5
  waits : List (Nat × Wait)
  /-- slots whose LDS-like access must deliver 0 because its walk failed (R240) -/
  zeroed : List Nat
  iter : Nat
  spec : Bool
  specOrigin : Bool
  /-- bid of the block before a speculative one -/
  pred : Option Nat
  parked : Bool
  /-- accesses made by executed M-format instructions (R396, R418) -/
  seen : List Seen
  fences : List (Nat × Ord × Scope)
  mapCyc : Nat
  lastArr : Option (Nat × Nat × Arrival)
  ninstr : Nat
  /-- a load of this block failed a check while the block was speculative, and delivered 0 (R240, R370) -/
  guess : Bool
  /-- HENTRY, FLCNT, HFREE and HREF as they stood at block entry (R27, R445) -/
  entry : List W64
  deriving DecidableEq, Repr, Inhabited

/-- Where a frame is (R361-R366). -/
inductive Place where
  | callroom | overflow | gated | resident | parked | inlineWait | ended
  deriving DecidableEq, Repr, Inhabited

/-- One frame (R23-R28, R325, R326, R434, R420). -/
structure Frame where
  fid  : Nat
  ctx  : Nat
  fref : Nat
  regs : Vector W64 32
  fn   : W64
  bsq  : W32
  ht   : Nat
  pp   : BitVec 13
  fcsr : BitVec 9
  af   : BitVec 5
  spc  : BitVec 18
  spf  : BitVec 4
  prio : Nat
  handler : Bool
  det  : Bool
  launch : Option Nat
  inst : Option Nat
  /-- the node launch of its instance, where a node firing began its line (R325, R348) -/
  nodeLaunch : Option Nat
  job  : Option Nat
  depth : Nat
  spawns : Nat
  /-- FN from the per-launch counter (R24) -/
  counterFn : Bool
  /-- VA of its own future cell -/
  cell : Option Nat
  /-- hold set: (handle, held count), at most 8 (R326) -/
  holds : List (Nat × Nat)
  stall : Nat
  pinned : Bool
  next : Nat
  /-- loop in progress: iteration index and n (R49, R51) -/
  loop : Option (Nat × Nat)
  place : Place
  /-- record in the frame table (false: spilled or not yet placed) -/
  inTable : Bool
  /-- a spilled record: in a frame-spill bank (true) or in the stall's share of the frame area (R364) -/
  spill : Option Bool
  /-- cycle since when it has waited ready (R363); below 0 where its stall's CYC has started anew or it has moved -/
  since : Int
  /-- held until its fault record is handled (R434) -/
  held : Bool
  /-- stopped by the debugger, with the reason (R420) -/
  stopped : Option Nat
  halt : Bool
  pass : Bool
  stp  : Bool
  /-- block bytes fetched and not yet mapped: (address, bytes) (R366) -/
  fetched : Option (Nat × List Byte)
  /-- fetch walk pending -/
  fetching : Bool
  /-- folds of committed blocks not yet taken (R106) -/
  folds : Nat
  /-- inline children still to run, and the parent of an inline child (R346) -/
  inlineKids : List Nat
  parent : Option Nat
  /-- fid of the frame whose commit created this one: its writes come before (R215) -/
  creator : Option Nat
  /-- the handler frame whose ERET let it go on, and the next number as it did: that frame's earlier writes come before (R215, R450) -/
  resumer : Option (Nat × Nat) := none
  /-- index of the record a handler frame serves -/
  record : Option Nat
  captured : Bool
  origin : Arrival
  /-- reclamation requested, with the discard cause of R425 -/
  reclaim : Option Nat
  deriving DecidableEq, Repr, Inhabited

/-- An outstanding memory operation of a mapped block (R213, R243). -/
inductive OpKind where
  | load (signed : Bool) (acq : Bool) (quiet : Bool)
  | atomic (i : Instr) (opnd new : W64) (acq rel : Bool)
  deriving DecidableEq, Repr, Inhabited

structure MemOp where
  oid  : Nat
  bid  : Nat
  slot : Nat
  lsid : Nat
  kind : OpKind
  acc  : Acc
  /-- old value read at admission (R243) -/
  old  : Option W64
  org  : Org
  /-- bytes of a misaligned access read so far, with their positions (R210) -/
  part : List (Nat × Byte)
  deriving DecidableEq, Repr, Inhabited

/-- What is on its way to a home, a store, a counter or a stall. -/
inductive Cargo where
  /-- `mc`: the value word of an STMC (R258) -/
  | store (acc : Acc) (data : W64) (rel mc : Bool)
  | atomicWrite (acc : Acc) (old : W64) (write : Option W64) (rel : Bool)
  /-- `kind`: 0 HD.INIT, 1 an arrival, 2 HD.XPCT -/
  | hurdle (acc : Acc) (kind : Nat) (n : W32) (job : Bool)
  | mcast (entry : W64) (size : Nat) (data : W64) (rel : Bool)
  | fset (acc : Acc) (v : W64)
  /-- add (or subtract) a count at REACH of a cell -/
  | reach (cell : Nat) (pa : Nat) (plus : Bool) (n : Nat)
  /-- the producer ended, or was reclaimed -/
  | producerEnd (cell : Nat) (pa : Nat) (prod : Nat) (recl : Bool)
  | unlink (va : Nat)
  | token (inst node input : Nat) (tag : W16) (v : W64)
  /-- level counter: level code, object, kind 0 decrement, 1 admitted cancel, 2 HT.CANCEL -/
  | level (lvl obj kind : Nat)
  | reclaim (fid cause : Nat)
  | xmsg (t : RemoteTile)
  | contribution (hall slot rid lvl idx : Nat) (v : W64)
  | forward (inst : Nat) (key : W16) (part lvl idx : Nat) (v : W64) (desc : W64) (flags : BitVec 5)
  | partValue (inst : Nat) (key : W16) (part covered : Nat) (v : W64) (desc : W64) (flags : BitVec 5)
  | result (inst : Nat) (key : W16) (part : Nat) (v : W64) (desc : W64) (flags : BitVec 5)
  | drain (inval stall : Nat) (bar : List Nat)
  | walkStep (id step : Nat) (fn : W64) (bsq : W32)
  deriving DecidableEq, Repr, Inhabited

structure Flight where
  id    : Nat
  org   : Org
  msq   : Nat
  stall : Nat
  cargo : Cargo
  deriving DecidableEq, Repr, Inhabited

/-- A release that has performed while earlier writes of its frame are still on their way: parties within its scope do not read it yet
(R222, R223). -/
structure Early where
  fid   : Nat
  stall : Nat
  scp   : Scope
  acc   : Acc
  /-- the writes that come before it -/
  bar   : List Nat
  /-- reads by acquires of too narrow a scope that have taken it: frame and MSQ (R223) -/
  seen  : List (Nat × Nat) := []
  deriving DecidableEq, Repr, Inhabited

/-- The copy of a base sector that a heat's cell will start as, taken because its frame has read behind a store that has not performed
(R85, R228). -/
structure Copy where
  fid   : Nat
  ctx   : Nat
  heat  : Nat
  /-- base address of the sector, its VA div 128, and its bytes -/
  pa    : Nat
  sec   : Nat
  bytes : List Byte
  /-- blocks in flight whose reads have taken it, and whether a committed block's has -/
  users : List Nat
  fixed : Bool
  deriving DecidableEq, Repr, Inhabited

/-- A page-table walk in progress (R390). -/
inductive WalkFor where
  | slot (bid slot : Nat) (quiet : Bool)
  | fetch (fid : Nat)
  deriving DecidableEq, Repr, Inhabited

structure Walk where
  id  : Nat
  ctx : Nat
  va  : Nat
  stall : Nat
  who : WalkFor
  wr  : Bool
  /-- heat of the access, and its first byte -/
  heat : Nat
  first : Nat
  deriving DecidableEq, Repr, Inhabited

/-- A continuation record (R329). -/
structure Cont where
  va   : Nat
  ctx  : Nat
  fid  : Nat
  bid  : Nat
  slot : Nat
  dead : Bool
  hurdle : Bool
  /-- VA[55:4] of the record -/
  at_  : Nat
  deriving DecidableEq, Repr, Inhabited

/-- A fault record (R438) and where it stands: 0 waiting for a log slot, 1 in the log waiting for a handler frame,
2 being handled, 3 handled under R437 until CTX_RUN. -/
structure Rec where
  rid  : Nat
  ctx  : Nat
  hall : Nat
  cls  : Nat
  flags : Nat
  stall : Nat
  eng  : Nat
  slot : Nat
  org  : Org
  fsq  : W32
  va   : Nat
  /-- the physical address of the access, for the firmware log alone (R408) -/
  pa   : Option Nat
  heat : Nat
  extra : W64
  /-- frame held by this record -/
  heldFid : Option Nat
  /-- paused job (stall, job id) -/
  jobRef : Option (Nat × Nat)
  logSlot : Option Nat
  status : Nat
  deriving DecidableEq, Repr, Inhabited

/-- A waiting or posted completion entry (R356). -/
structure CqEntry where
  cookie : Nat
  status : Nat
  kind   : Nat
  job    : Nat
  detail : Nat
  /-- launch slot freed by the posting (R337) -/
  frees  : Option Nat
  deriving DecidableEq, Repr, Inhabited

/-- A launch slot in use (R17, R19, R336, R337, R361). -/
structure Launch where
  ctx   : Nat
  slot  : Nat
  count : Nat
  gate  : Nat
  gated : Bool
  det   : Bool
  cancelled : Bool
  complete : Bool
  /-- admitted CANCELs of uncommitted blocks -/
  pending : Nat
  /-- fid of the launching frame; none for a packet launch -/
  by_   : Option Nat
  packet : Option (Nat × Nat)
  posted : Bool
  /-- next counter FN (R24) -/
  fnCtr : Nat
  /-- its frames exist: false while its LAUNCH has not committed -/
  live : Bool
  inst  : Option Nat
  job   : Option Nat
  /-- node launch slot of a graph instance (R348) -/
  node  : Bool
  deriving DecidableEq, Repr, Inhabited

/-- A live heat tag, or one taken by an uncommitted HT.NEW (R251-R254). -/
structure Heat where
  ctx   : Nat
  tag   : Nat
  live  : Bool
  count : Nat
  pending : Nat
  cancelled : Bool
  /-- fid of the frame whose HT.END waits at the directory entry -/
  ender : Option Nat
  deriving DecidableEq, Repr, Inhabited

/-- A job opened by packets (R354). -/
structure JobRec where
  ctx   : Nat
  num   : Nat
  count : Nat
  pending : Nat
  cancelled : Bool
  /-- its counter has reached 0: the record stands for a later CANCEL until the number is opened again (R19, R354) -/
  complete : Bool := false
  deriving DecidableEq, Repr, Inhabited

/-- A node of a graph image as placed (R76, R347, R362). -/
structure Node where
  blk  : Nat
  nin  : Nat
  prio : Nat
  home : Nat
  part : Nat
  /-- per input: credits left and consumed rate -/
  credits : List Nat
  cons : List Nat
  /-- per tag: firings so far (R348) -/
  fired : List (Nat × Nat)
  deriving DecidableEq, Repr, Inhabited

/-- A token in a matching store (R347). -/
structure Tok where
  node : Nat
  input : Nat
  tag  : W16
  val  : W64
  captured : Bool
  arr  : Arrival
  org  : Org
  deriving DecidableEq, Repr, Inhabited

/-- What a part sends to another: a node (level, index), or a running value with the leaves it covers (R308, R310). -/
structure Fwd where
  key   : W16
  part  : Nat
  cov   : Option Nat
  lvl   : Nat
  idx   : Nat
  val   : W64
  desc  : W64
  flags : BitVec 5
  org   : Org
  deriving DecidableEq, Repr, Inhabited

/-- A graph instance (R17, R320, R321, R355). -/
structure Inst where
  iid   : Nat
  ctx   : Nat
  image : Nat
  det   : Bool
  live  : Bool
  cancelled : Bool
  released : Bool
  pending : Nat
  count : Nat
  nodeSlot : Nat
  nodes : List Node
  toks  : List Tok
  /-- halls of its parts, in ordinal order, with the package (R310, R320) -/
  parts : List Nat
  job   : Option Nat
  fnCtr : Nat
  /-- what waits in a node store, or with the mark in the heat arena, for its part to be created (R302, R310) -/
  waits : List (Fwd × Bool)
  /-- parts freed while other parts of their key live: key, part, handle (R305, R310) -/
  freed : List (Nat × Nat × Nat)
  /-- keys of the matching store that found the call room full: node, tag, and since when (R361) -/
  ovf   : List (Nat × W16 × Int)
  /-- keys whose object has broken (R310, R313) -/
  broken : List Nat
  deriving DecidableEq, Repr, Inhabited

/-- A declared edge (R76). -/
structure Edge where
  src   : Nat
  out   : Nat
  dst   : Nat
  inp   : Nat
  prod  : Nat
  cons  : Nat
  depth : Nat
  fmt   : Nat
  wid   : Nat
  deriving DecidableEq, Repr, Inhabited

/-- A loaded graph image (R74-R78, R355). -/
structure Image where
  ctx   : Nat
  va    : Nat
  det   : Bool
  strict : Bool
  roles : List Nat
  /-- entry block, inputs, outputs, priority class and `pin=` ordinal of each node -/
  nodes : List (Nat × Nat × Nat × Nat × Option Nat)
  edges : List Edge
  launches : List Nat
  tiles : List (Nat × W128)
  rings : List (Nat × Nat × Nat)
  /-- hall of each node, as the cut placed it (R320, R362); 4 and above are halls of other packages -/
  cut   : List (Nat × Nat)
  /-- hall and home stall of each node, recorded at load; no home stall for a node of another package (R362) -/
  homes : List (Nat × Nat)
  deriving DecidableEq, Repr, Inhabited

/-- A reduction object or one part of it (R302-R313). -/
structure Red where
  /-- the object's own number: a slot may be taken again (R305) -/
  rid   : Nat
  hall  : Nat
  slot  : Nat
  ctx   : Nat
  inst  : Option Nat
  desc  : W64
  part  : Nat
  live  : Bool
  /-- held nodes (level, index, value) -/
  held  : List (Nat × Nat × W64)
  /-- ARRIVAL mode: running value and covered leaves -/
  acc   : Option W64
  covered : Nat
  /-- ARRIVAL mode in part 0: the value of the parts combined so far and the leaves they cover (R308) -/
  facc  : Option W64
  total : Nat
  /-- held nodes that stand in the heat arena (R302) -/
  excess : Nat
  flags : BitVec 5
  done  : Bool
  result : W64
  broken : Bool
  org   : Org
  last  : Arrival
  deriving DecidableEq, Repr, Inhabited

/-- A slice pair's way partition (R400-R405). -/
structure Pair where
  hall  : Nat
  pair  : Nat
  owner : Option Nat
  ctrlVa : Nat
  wpr   : Nat
  cur   : Nat
  stt   : Nat
  err   : Nat
  hva   : Nat
  target : Nat
  /-- acceptance number at the start of phase 1 -/
  mark  : Nat
  /-- a PAIR_RELEASE waits for this change -/
  releasing : Bool
  org   : Option Org
  deriving DecidableEq, Repr, Inhabited

/-- A class-table entry of a slice, with its bucket and service counts (R378, R383, R384). -/
structure ClassEntry where
  hall  : Nat
  slice : Nat
  cls   : Nat
  ways  : W16
  rate  : Nat
  bucket : Nat
  served : Nat
  last  : Nat
  pending : Option (W16 × Nat)
  deriving DecidableEq, Repr, Inhabited

/-- A line of the shared cache: its way, the 256 bytes it holds by PA div 256, and whether they differ from DRAM's (R388, R398, R456). -/
structure CacheLine where
  way   : Nat
  line  : Nat
  dirty : Bool
  deriving DecidableEq, Repr, Inhabited

/-- A set of a slice's cache with its tree pseudo-LRU state (R388, R398). -/
structure CacheSet where
  hall  : Nat
  slice : Nat
  set   : Nat
  plru  : Nat
  lines : List CacheLine
  deriving DecidableEq, Repr, Inhabited

/-- A reserved slot of a vector router's output port (R373). -/
structure VSlot where
  hall : Nat
  router : Nat
  port : Nat
  slot : Nat
  inp  : Nat
  conn : Nat
  deriving DecidableEq, Repr, Inhabited

/-- A pacer edit not yet in effect (R375): slots to add or to drop. -/
structure VEdit where
  hall : Nat
  add  : Bool
  slots : List VSlot
  deriving DecidableEq, Repr, Inhabited

/-- A hall's state of R461. -/
inductive HallSt where
  | off | starting | available | failed | resetting
  deriving DecidableEq, Repr, Inhabited

/-- A firmware log entry (R409), and whether its context is confidential. -/
structure FwLog where
  conf : Bool
  pa  : Nat
  fsq : W32
  cls : Nat
  ctx : Nat
  stall : Nat
  eng : Nat
  deriving DecidableEq, Repr, Inhabited

/-- One hall (R2, R302, R317, R363, R435, R456, R457, R461). -/
structure Hall where
  st   : HallSt
  fuse : FuseMap
  fsq  : W32
  /-- records dropped when the queue of 256 reports is full -/
  dropped : Nat
  fwlog : List FwLog
  tlb  : List Tlb
  /-- lost sectors: PA div 128, or 2^45 and above for a heat cell's arena slot (R457) -/
  lost : List Nat
  /-- lost scratch-window sectors, each with a mask of the bytes written since (R457) -/
  lostScratch : List (Nat × Nat)
  corrected : Nat
  /-- free handler frame records (R445 HFREE) -/
  hfree : Nat
  xstore : List RemoteTile
  /-- remote-tile keys already taken (R317) -/
  xtaken : List (Nat × Nat × Nat × Nat × Nat)
  /-- junction temperature last reported, °C (R463) -/
  temp : Nat
  /-- frequencies of its four islands, uncore, SRAM layer, DRAM interface and link PHY, in units of 62.5 MHz (R5) -/
  islands : List Nat
  /-- the overflow list's next choice between the kinds falls to FREE frames (R361, R363) -/
  overTurn : Bool
  deriving DecidableEq, Repr, Inhabited

/-- The trace controls of a context (R426-R430). -/
structure Trace where
  base : Nat
  ctl  : W64
  wptr : Nat
  lost : Nat
  lostTotal : Nat
  walk : Nat
  /-- events held back by a full ring under STALL: records waiting -/
  waiting : List (List Byte)
  deriving DecidableEq, Repr, Inhabited

/-- TDISP interface states (R411). -/
inductive Tdisp where
  | unlocked | locked | run | error
  deriving DecidableEq, Repr, Inhabited

/-- A packet taken at an ingress port: its eight words (R353), and whether it came through a slot of the port or by a grant (R339). -/
structure Packet where
  words : List W64
  slotted : Bool
  /-- the Losel code that failed the load it was held for (R355) -/
  fail : Option Nat := none
  /-- the sender's writes that come before a token sent by a grant (R215) -/
  bar : List Nat := []
  deriving DecidableEq, Repr, Inhabited

/-- An entry of a context's load log (R61, R321, R358): the Losel code; the hall and stall, block address and slot of a code-2 breach;
the node or edge of codes 3 to 6; the hall and part of a part that failed. -/
structure LoadEntry where
  code  : Nat
  hall  : Nat := 0
  stall : Nat := 0
  blk   : Nat := 0
  slot  : Nat := 0
  item  : Nat := 0
  part  : Nat := 0
  deriving DecidableEq, Repr, Inhabited

/-- One context (R20, R351-R356, R382, R412, R416, R426, R435, R445, R455). -/
structure Ctx where
  num   : Nat
  params : CtxParams
  preempted : Bool
  /-- pre-empted under R437 or R462: runs only after CTX_RUN from the driver -/
  blocked : Bool
  /-- COLD reset lost its pages (R462) -/
  lostPages : Bool
  /-- future pool list: (hall, VA) of each free cell (R327) -/
  pool  : List (Nat × Nat)
  /-- arena slots reserved by executed stores: (heat, sector) (R85) -/
  reserved : List (Nat × Nat × Nat)
  hentry : Nat
  flcnt : W32
  logNext : Nat
  logUsed : List Nat
  /-- ingress port: 64 slots of 8 words written so far, expected slot, accepted count, overruns (R352) -/
  port  : List (Nat × Nat × W64)
  taken : Nat
  accepted : Nat
  overrun : Nat
  packets : List Packet
  cqWaiting : List CqEntry
  cqTail : Nat
  cqHead : Nat
  dropped : Nat
  grants : List (Nat × Nat)
  chain : BitVec 384
  nimg  : Nat
  loadLog : List LoadEntry
  bps   : List W64
  wps   : List W128
  trace : Trace
  window : Option Nat
  counters : List Nat
  tdisp : Tdisp
  stuckArmed : Bool
  /-- pre-empted by the interface's ERROR until it runs again (R411) -/
  tdHalt : Bool
  /-- the encryption key of a confidential context (R410) -/
  key : Option (BitVec 512)
  /-- where in the frame area each stall's tile backing stands, in units of 512 KiB: (stall, index) (R455) -/
  backings : List (Nat × Nat)
  /-- images of which a part in another package has failed to load: (image, hall, part) (R321) -/
  failedParts : List (Nat × Nat × Nat)
  deriving DecidableEq, Repr, Inhabited

/-- The answer to the host's last command or read: status and data (R351, R415, R461). -/
structure Mail where
  status : Nat
  data   : List Nat
  deriving DecidableEq, Repr, Inhabited

/-- Package-level state (R84, R323, R406, R407, R413, R460). -/
structure Package where
  /-- 0 no power, 1 stage A, 2 stage B passed -/
  stage : Nat
  interleave : Interleave
  transport : Transport
  migrThresh : Nat
  /-- the migration table's nonzero entries: 64 KiB host page number and the entry, QUEUED in bit 15 and COUNT in [14:0] (R406) -/
  migr : List (Nat × W16)
  /-- the notification ring's slots that have been written (R407) -/
  notices : List (Nat × W128)
  /-- entries written, and entries that the driver has taken -/
  noticeTail : Nat
  noticeHead : Nat
  noticeDropped : Nat
  /-- part: 0 GMS-L4-1280, 1 GMS-L4-1216 (R1) -/
  part : Nat
  watts : Nat
  /-- traffic that has left for other packages, and what waits while no port carries traffic (R323) -/
  ueOut : List UeItem
  ueWait : List UeItem
  /-- flits and packets repaired: bridge or port, sequence (R322, R323, R459) -/
  replayed : List (Nat × Nat)
  /-- drain tokens outstanding per TLB_INVAL number -/
  drains : List (Nat × Nat)
  acceptNo : Nat
  deriving DecidableEq, Repr, Inhabited

/-- The whole machine. -/
structure State where
  /-- bytes of DRAM, the host window and the scratch windows by PA; unlisted bytes read 0 (R211, R386) -/
  mem   : List Host.Cell
  /-- heat cells by ((context·65,536 + heat)·2^49 + sector)·128 + byte (R85) -/
  cells : List Host.Cell
  /-- materialised cells: (context, heat, sector) (R254) -/
  made  : List (Nat × Nat × Nat)
  stalls : List (Nat × Stall)
  halls : List Hall
  ctxs  : List Ctx
  frames : List Frame
  blocks : List Block
  ops   : List MemOp
  flight : List Flight
  walks : List Walk
  conts : List Cont
  /-- the origin of the last value or phase of a future cell or hurdle, by (context, VA) (R429) -/
  origins : List (Nat × Nat × Arrival)
  /-- committed fences that later operations may still wait on: (frame, MSQ, ORD) (R224) -/
  fences : List (Nat × Nat × Ord)
  early : List Early
  copies : List Copy
  recs  : List Rec
  launches : List Launch
  heats : List Heat
  jobrecs : List JobRec
  insts : List Inst
  images : List Image
  reds  : List Red
  pairs : List Pair
  classes : List ClassEntry
  /-- sets of the shared cache that hold a line or have held one (R398) -/
  l2    : List CacheSet
  vslots : List VSlot
  vedits : List VEdit
  pkg   : Package
  mail  : Mail
  /-- the block and slot whose instruction is executing -/
  cur   : Option (Nat × Nat)
  /-- next number for a frame, block, operation, flight, record, job or instance -/
  nextId : Nat
  /-- the model's own: the schedule still to run, and counters of the free values already drawn -/
  sched : List Act
  tick  : Nat
  draws : Nat
  deriving DecidableEq, Repr, Inhabited

/-- A descriptor with every field at its reset value of R30. -/
def Tile.reset : Tile :=
  { rch := 0, nsq := 0, rslot := 0, rcnt := 0, rfill := 0, rdrain := 0, arr := 0, exp := 0, afl := 0, wmv := false, wml := 0,
    scl := 0, sc := false, st := .empty, shape := 0, wid := 0, fmt := 0, lay := false, bank := 0, row := 0, sides := [], origin := ⟨0, 0, 0, 0, false⟩ }

/-- A stall zeroed under R22, with its CYC and frequency given. -/
def Stall.zeroed (cyc freq : Nat) : Stall :=
  { owner := none, roles := List.replicate 32 0, ranges := [], store := [], tiles := List.replicate 64 .reset, scratch := [],
    lostPairs := [], utlb := [], bcache := [], inPa := [], inVec := [], inSpe := [], inPor := [], tops := [], commitPos := 0,
    pa := none, vec := none, spe := [], jobs := [], turn := 0, detTurn := false, counters := List.replicate 16 0, cyc := cyc,
    hist := [], suspect := false, saved := false, pinned := List.replicate 128 true, resident := List.replicate 128 true,
    dirty := List.replicate 128 false, freq := freq, speNext := 0, speDone := [], paNext := 0, vecNext := 0, bars := [], tracedCommits := 0, issued := false }

/-- A hall before stage C (R460, R461). -/
def Hall.reset : Hall :=
  { st := .off, fuse := ⟨[], [], [], []⟩, fsq := 0, dropped := 0, fwlog := [], tlb := [], lost := [], lostScratch := [], corrected := 0,
    hfree := 64, xstore := [], xtaken := [], temp := 0, islands := List.replicate 4 16, overTurn := false }

/-- The package before power-good. -/
def Package.reset : Package :=
  { stage := 0, interleave := .localMode, transport := ⟨0, 0, 0⟩, migrThresh := 0, migr := [], notices := [], noticeTail := 0, noticeHead := 0,
    noticeDropped := 0, part := 0, watts := 0, ueOut := [], ueWait := [], replayed := [], drains := [], acceptNo := 0 }

/-- The machine right after reset: no power yet, every hall OFF, no context, nothing loaded (R460, R461). -/
def State.reset : State :=
  { mem := [], cells := [], made := [], stalls := [], halls := List.replicate 4 .reset, ctxs := [], frames := [], blocks := [],
    ops := [], flight := [], walks := [], conts := [], origins := [], fences := [], early := [], copies := [], recs := [], launches := [], heats := [], jobrecs := [], insts := [],
    images := [], reds := [], pairs := [], classes := [], l2 := [], vslots := [], vedits := [], pkg := .reset, mail := ⟨0, []⟩,
    cur := none, nextId := 1, sched := [], tick := 0, draws := 0 }

end Sys2Proof.Machine
end

