-- ==== Sys2Proof/Machine/Mem.lean ====
section
/-! DEFINITION. Sparse storage in one canonical form (keys strictly rising, no entry equal to the default), bytes and words of
memory, of heat cells and of the stall stores, and the homes of physical addresses (R10, R84, R85, R387-R389, R400). -/
namespace Sys2Proof.Machine

/-- The value at a key; the default where the key is not listed. -/
def spGet (d : α) : List (Nat × α) → Nat → α
  | [], _ => d
  | (k, v) :: t, a => if k = a then v else spGet d t a

/-- Writing a value keeps the keys rising and never lists the default. -/
def spPut [DecidableEq α] (d : α) : List (Nat × α) → Nat → α → List (Nat × α)
  | [], a, v => if v = d then [] else [(a, v)]
  | (k, w) :: t, a, v =>
    if a < k then (if v = d then (k, w) :: t else (a, v) :: (k, w) :: t)
    else if a = k then (if v = d then t else (a, v) :: t)
    else (k, w) :: spPut d t a v

/-- Every key is at least `lo`, the keys rise strictly, and no entry is the default. -/
def spOk [DecidableEq α] (d : α) : Nat → List (Nat × α) → Bool
  | _, [] => true
  | lo, (k, v) :: t => decide (lo ≤ k) && !decide (v = d) && spOk d (k + 1) t

/-- The canonical form of memory: unlisted bytes read 0 (R211, R386). -/
abbrev Memory.wf (m : List Host.Cell) : Bool := spOk (0 : Byte) 0 m

/-- Keeps the entries whose key fails the test (used to empty a range). -/
def spDrop (p : Nat → Bool) (l : List (Nat × α)) : List (Nat × α) := l.filter fun e => !p e.1

/-- A run of `n` bytes from a key, little-endian (R10). -/
def readLE (get : Nat → Byte) (a : Nat) : Nat → Nat
  | 0 => 0
  | n + 1 => (get a).toNat + 256 * readLE get (a + 1) n

/-- Bytes from a key on, written in ascending order. -/
def putBytes (m : List Host.Cell) (a : Nat) : List Byte → List Host.Cell
  | [] => m
  | b :: bs => putBytes (spPut 0 m a b) (a + 1) bs

/-- The `n` low bytes of a number, least significant first. -/
def bytesLE (v : Nat) : Nat → List Byte
  | 0 => []
  | n + 1 => BitVec.ofNat 8 v :: bytesLE (v / 256) n

/-- The number a byte list stands for, least significant byte first. -/
def ofBytes : List Byte → Nat
  | [] => 0
  | b :: bs => b.toNat + 256 * ofBytes bs

def getBytes (m : List Host.Cell) (a n : Nat) : List Byte := (List.range n).map fun i => spGet 0 m (a + i)

/-- Bits [hi:lo] of a number (R10). -/
def bits (v hi lo : Nat) : Nat := v / 2 ^ lo % 2 ^ (hi + 1 - lo)

/-- `x` read as a `w`-bit two's-complement value (R81). -/
def sext (x : Nat) (w : Nat) : Int :=
  let v := x % 2 ^ w
  if 2 ^ (w - 1) ≤ v then (v : Int) - (2 : Int) ^ w else v

/-- An integer as a `w`-bit pattern. -/
def wrap (w : Nat) (x : Int) : Nat := (x % (2 : Int) ^ w).toNat

/-- The hall of a DRAM or host-window address (R84). -/
def hallOf (il : Interleave) (pa : Nat) : Nat :=
  match il with
  | .localMode => bits pa 37 36
  | .spread => (bits pa 9 8 ^^^ bits pa 17 16) ^^^ bits pa 25 24

/-- The enabled-slice ordinal of an address (R84). -/
def sliceOf (pa n : Nat) : Nat :=
  let fold := (bits pa 23 8 ^^^ bits pa 39 24) ^^^ bits pa 51 40
  fold * n / 2 ^ 16

def setOf (pa : Nat) : Nat := bits pa 18 8 ^^^ bits pa 29 19

/-- The DRAM channel ordinal within a hall (R389). -/
def channelOf (pa c : Nat) : Nat := (bits pa 19 8 ^^^ bits pa 31 20) * c / 2 ^ 12

/-- The routers of the vector network, numbered as stalls are, at which a slice of a hall attaches (R388). -/
def sliceRouters (hall slice : Nat) : List Nat :=
  [2 * (slice % 10), 2 * (slice % 10) + 1].map fun row => hall * 512 + row * 16 + 2 * (slice / 10)

/-- Regions of the physical address map (R387). -/
inductive PaKind where
  | dram | host | control | scratch | noRegion
  deriving DecidableEq, Repr, Inhabited

def paKind (pa : Nat) : PaKind :=
  match bits pa 51 48 with
  | 0 => if bits pa 47 38 = 0 then .dram else .noRegion
  | 8 => .host
  | 14 => .control
  | 15 => .scratch
  | _ => .noRegion

/-- A control-aperture address of the form of R387: bits [37:12] zero, a pair that exists. -/
def controlOk (pa : Nat) : Bool := bits pa 37 12 == 0 && bits pa 47 44 < 4 && bits pa 43 38 < 40

/-- A scratch-aperture address that names a slice pair (R84). -/
def scratchOk (pa : Nat) : Bool := bits pa 37 24 == 0 && bits pa 47 44 < 4 && bits pa 43 38 < 40

/-- The pair record of a scratch or control address. -/
def State.pairAt? (s : State) (pa : Nat) : Option Pair :=
  s.pairs.find? fun p => p.hall == bits pa 47 44 && p.pair == bits pa 43 38

/-- Scratch ways in force for presence: during phase 2 of a shrink the removed range is already absent (R403). -/
def Pair.waysNow (p : Pair) : Nat := if p.stt = 2 then min p.cur p.target else p.cur

/-- Whether a scratch address is present (R400, R403). -/
def State.scratchPresent (s : State) (pa : Nat) : Bool :=
  scratchOk pa &&
    match s.pairAt? pa with
    | some p => decide (bits pa 23 0 < p.waysNow * 2 ^ 20)
    | none => false

def State.hallD (s : State) (h : Nat) : Hall := s.halls.getD h .reset

/-! Encryption of a confidential context's DRAM (R410) -/

def swapAt (x : BitVec 128) (p : BitVec 128 × BitVec 128) : BitVec 128 := if x = p.1 then p.2 else if x = p.2 then p.1 else x
/-- A 128-byte sector as the key makes it, or back again. -/
def xtsSector (key : BitVec 512) (back : Bool) (unit : Nat) (bs : List Byte) : List Byte :=
  (List.range 8).flatMap fun j =>
    let l := Config.xtsSwaps key (BitVec.ofNat 128 unit) j
    bytesLE (((if back then l.reverse else l).foldl swapAt (BitVec.ofNat 128 (ofBytes ((bs.drop (16 * j)).take 16)))).toNat) 16

/-- Where a scratch offset lives: which slice of the pair, and the byte in that slice's scratch ways (R400). -/
def scratchPlace (o : Nat) : Nat × Nat := (bits o 8 8, o / 512 * 256 + o % 256)

/-- (hall, slice) of an address (R84); the slice of a cached address is an enabled slice number. -/
def State.homeOf (s : State) (pa : Nat) : Nat × Nat :=
  match paKind pa with
  | .scratch => (bits pa 47 44, 2 * bits pa 43 38 + (scratchPlace (bits pa 23 0)).1)
  | .control => (bits pa 47 44, 2 * bits pa 43 38)
  | _ =>
    let h := hallOf s.pkg.interleave pa
    let sl := (s.hallD h).fuse.slices
    (h, sl.getD (sliceOf pa sl.length) 0)

/-- An Ethernet port that is not absent in a hall that has started has its link up; another reports link-down (R4, R323). -/
def State.portUp (s : State) (k : Nat) : Bool := (s.hallD (k / 2)).st == .available && (s.hallD (k / 2)).fuse.ports.contains (k % 2)

/-- Some port carries traffic of other packages (R323). -/
def State.ueUp (s : State) : Bool := (List.range 8).any s.portUp

/-- (hall, channel) that serves a DRAM address (R389). -/
def State.channelAt (s : State) (pa : Nat) : Nat × Nat :=
  let h := hallOf s.pkg.interleave pa
  let ch := (s.hallD h).fuse.channels
  (h, ch.getD (channelOf pa ch.length) 0)

/-- Router hops from a stall to the nearer router of an address's home slice, on the stall's own grid (R259). -/
def State.homeHops (s : State) (st pa : Nat) : Nat :=
  let far := fun (a b : Nat) => max a b - min a b
  let hop := fun (r : Nat) => far (st % 16) (r % 16) + far (bits st 8 4) (bits r 8 4)
  ((sliceRouters 0 (s.homeOf pa).2).map hop).foldl min 64

/-- Whether an access to the 128-byte sector of an address gets DATA_ERROR: it is in the lost list, or its home hall is not
AVAILABLE (R457, R462). -/
def State.sectorLost (s : State) (pa : Nat) : Bool :=
  let h := (s.homeOf pa).1
  (s.hallD h).lost.contains (pa / 128) || (s.hallD h).st != .available

/-- As a read finds it: a lost scratch-window sector reads DATA_ERROR until it is wholly written (R457). -/
def State.readLost (s : State) (pa : Nat) : Bool :=
  s.sectorLost pa || (s.hallD (s.homeOf pa).1).lostScratch.any (·.1 == pa / 128)

def State.rd8 (s : State) (pa : Nat) : Byte := spGet 0 s.mem pa
def State.rdLE (s : State) (pa n : Nat) : Nat := readLE s.rd8 pa n
def State.wrBytes (s : State) (pa : Nat) (bs : List Byte) : State := { s with mem := putBytes s.mem pa bs }
def State.wrLE (s : State) (pa n v : Nat) : State := s.wrBytes pa (bytesLE v n)

/-- The key of a heat cell's byte (R85). -/
def cellKey (ctx heat sector : Nat) : Nat := ((ctx * 65536 + heat) * 2 ^ 49 + sector) * 128

def State.hasCell (s : State) (ctx heat va : Nat) : Bool := s.made.contains (ctx, heat, va / 128)

/-- The byte a read by a heat returns (R38, R85). -/
def State.rdLoc (s : State) (ctx heat : Nat) (b : BLoc) : Byte :=
  if b.hp && heat != 0 && s.hasCell ctx heat b.va then spGet 0 s.cells (cellKey ctx heat (b.va / 128) + b.va % 128)
  else s.rd8 b.pa

/-- Materialises the cell of a sector as a copy of its base sector (R85, R228); `pa` is the base address of byte `va`. -/
def State.materialise (s : State) (ctx heat va pa : Nat) : State :=
  if s.hasCell ctx heat va then s
  else { s with made := (ctx, heat, va / 128) :: s.made,
                cells := putBytes s.cells (cellKey ctx heat (va / 128)) (getBytes s.mem (pa - va % 128) 128) }

/-- Writes one byte at its location, materialising the heat's cell first where the page is heat-private (R85). -/
def State.wrLoc (s : State) (ctx heat : Nat) (b : BLoc) (v : Byte) : State :=
  if b.hp && heat != 0 then
    let s := s.materialise ctx heat b.va b.pa
    { s with cells := spPut 0 s.cells (cellKey ctx heat (b.va / 128) + b.va % 128) v }
  else { s with mem := spPut 0 s.mem b.pa v }

def State.rdAcc (s : State) (a : Acc) : List Byte := a.locs.map (s.rdLoc a.ctx a.heat)

/-- Writes bytes at successive locations. -/
def State.wrLocs (ctx heat : Nat) : State → List BLoc → List Byte → State
  | s, b :: bs, v :: vs => wrLocs ctx heat (s.wrLoc ctx heat b v) bs vs
  | s, _, _ => s

def State.wrAcc (s : State) (a : Acc) (bs : List Byte) : State := s.wrLocs a.ctx a.heat a.locs bs

/-- The lost-list entry of the sector a location lies in (R457). -/
def State.locKey (s : State) (ctx heat : Nat) (b : BLoc) : Nat :=
  if b.hp && heat != 0 && s.hasCell ctx heat b.va then 2 ^ 45 + cellKey ctx heat (b.va / 128) / 128 else b.pa / 128

/-- Some byte of an access lies in a lost sector, as a read (or a write) finds it (R457). -/
def State.accLost (s : State) (a : Acc) (rd : Bool) : Bool :=
  a.locs.any fun b =>
    (s.hallD (s.homeOf b.pa).1).lost.contains (s.locKey a.ctx a.heat b) || (s.hallD (s.homeOf b.pa).1).st != .available ||
      (rd && (s.hallD (s.homeOf b.pa).1).lostScratch.any (·.1 == b.pa / 128))

/-- A write to a lost scratch-window sector; once all its bytes are written it is whole again (R457). -/
def State.healScratch (s : State) (pa : Nat) : State :=
  if paKind pa != .scratch then s
  else
    let mark := fun (e : Nat × Nat) => if e.1 == pa / 128 then (e.1, e.2 ||| 2 ^ (pa % 128)) else e
    { s with halls := s.halls.map fun h => { h with lostScratch := (h.lostScratch.map mark).filter (·.2 != 2 ^ 128 - 1) } }

/-- The base location of an access's first byte. -/
def Acc.pa (a : Acc) : Nat := (a.locs.headD default).pa

end Sys2Proof.Machine
end

