-- ==== Sys2Proof/Machine/Translate.lean ====
section
/-! DEFINITION. Translation: page-table entries and the walk (R392-R394), the cached sources of R390, permissions (R395), and the
walker's A and D bits (R396). -/
namespace Sys2Proof.Machine

/-- Fault classes of R440, by code. -/
abbrev Cls := Nat

def Cls.illegal : Cls := 1
def Cls.blockForm : Cls := 2
def Cls.address : Cls := 3
def Cls.fetchAlign : Cls := 4
def Cls.fetchAbsent : Cls := 5
def Cls.fetchNoexec : Cls := 6
def Cls.csrAccess : Cls := 7
def Cls.illegalOperand : Cls := 8
def Cls.keepRequired : Cls := 9
def Cls.detBreach : Cls := 10
def Cls.pageAbsent : Cls := 11
def Cls.pteInvalid : Cls := 12
def Cls.permission : Cls := 13
def Cls.syncMisuse : Cls := 14
def Cls.scratchAbsent : Cls := 15
def Cls.heatRange : Cls := 16
def Cls.heatArenaFull : Cls := 17
def Cls.heatState : Cls := 18
def Cls.mcastForm : Cls := 19
def Cls.hurdleState : Cls := 20
def Cls.hurdleOver : Cls := 21
def Cls.dataError : Cls := 22
def Cls.tileFormat : Cls := 23
def Cls.tileRange : Cls := 24
def Cls.tileNotReady : Cls := 25
def Cls.scaleMismatch : Cls := 26
def Cls.bankRole : Cls := 27
def Cls.arithRetryFail : Cls := 28
def Cls.jobFault : Cls := 29
def Cls.depth : Cls := 30
def Cls.holdFull : Cls := 31
def Cls.futurePoolEmpty : Cls := 32
def Cls.futureState : Cls := 33
def Cls.futureReclaimed : Cls := 34
def Cls.launchFull : Cls := 35
def Cls.launchState : Cls := 36
def Cls.nodeRange : Cls := 37
def Cls.redFull : Cls := 38
def Cls.redState : Cls := 39
def Cls.xchanDup : Cls := 40
def Cls.heatExhausted : Cls := 41
def Cls.deadlock : Cls := 42
def Cls.breakpoint : Cls := 43
def Cls.svc : Cls := 44
def Cls.trap : Cls := 45
def Cls.stallSuspect : Cls := 46

/-- The attributes and permissions of a page-table entry (R393). -/
def pteAttr (e : Nat) : Attr :=
  { r := e.testBit 2, w := e.testBit 3, x := e.testBit 4, sync := e.testBit 8, heatpriv := e.testBit 9,
    scratch := e.testBit 10, enc := e.testBit 11 }

/-- SYNC, HEATPRIV and SCRATCH do not combine (R37). -/
def Attr.exclusive (a : Attr) : Bool := !(a.sync && (a.heatpriv || a.scratch)) && !(a.heatpriv && a.scratch)

/-- Page size of a leaf at a level, as log2 (R392). -/
def leafLg : Nat → Nat
  | 1 => 30
  | 2 => 21
  | _ => 12

/-- What R394 calls an invalid leaf at levels 1 to 3. The map of R387 takes every scratch address (one without a home faults
SCRATCH_ABSENT when used, R84), and of a pair's control page one page of 4 KiB. -/
def leafInvalid (e lvl : Nat) : Bool :=
  let a := pteAttr e
  let pa := bits e 51 12 * 4096
  let k := paKind pa
  bits e 63 52 != 0 || lvl == 0 || pa % 2 ^ leafLg lvl != 0 || (e.testBit 7 && lvl != 3) || (a.w && !a.r) ||
    (a.x && (a.sync || a.heatpriv || a.scratch)) || !a.exclusive || k == .noRegion ||
    (a.scratch != (k == .scratch)) || (a.enc && k != .dram) ||
    (k == .control && (!controlOk pa || lvl != 3 || e.testBit 7 || a.x || a.sync || a.heatpriv || a.scratch || a.enc))

/-- What R394 and R393 call an invalid table pointer. -/
def pointerInvalid (e lvl : Nat) : Bool :=
  bits e 63 52 != 0 || lvl == 3 || bits e 11 2 != 0 || paKind (bits e 51 12 * 4096) == .noRegion ||
    (paKind (bits e 51 12 * 4096) == .control && !controlOk (bits e 51 12 * 4096))

/-- The index of a VA at a level (R392). -/
def vaIndex (va : Nat) : Nat → Nat
  | 0 => bits va 55 39
  | 1 => bits va 38 30
  | 2 => bits va 29 21
  | _ => bits va 20 12

/-- A leaf the walk has found. -/
structure Leaf where
  pte  : Nat
  pa   : Nat
  lg   : Nat
  attr : Attr
  deriving DecidableEq, Repr, Inhabited

/-- The fields sixteen entries of a 64 KiB page must share, A and D left out (R393). -/
def c64Alike (e0 e : Nat) (k : Nat) : Bool :=
  (e &&& 0xF9F) == (e0 &&& 0xF9F) && bits e 51 16 == bits e0 51 16 && bits e 15 12 == k

/-- The leaf of a level-3 entry with C64K: a 64 KiB page where the sixteen are alike, else whichever entry the free choice of
R393 names (log 7). -/
def State.c64Leaf (s : State) (va table e : Nat) : Except Cls Leaf :=
  let base := table + 8 * (bits va 20 12 / 16 * 16)
  let own := base + 8 * bits va 15 12
  if (List.range 16).all fun k => c64Alike e (s.rdLE (base + 8 * k) 8) k then
    .ok ⟨own, bits e 51 16 * 65536 + va % 65536, 16, pteAttr e⟩
  else
    let j := (Config.c64kEntry s.draws).toNat
    let ej := s.rdLE (base + 8 * j) 8
    if !ej.testBit 0 then .error .pageAbsent
    else if !ej.testBit 1 || leafInvalid ej 3 then .error .pteInvalid
    else .ok ⟨base + 8 * j, bits ej 51 16 * 65536 + va % 65536, 12, pteAttr ej⟩

/-- The walk from a table on, `fuel` levels left (R392-R394). The error is a fault class. -/
def State.walkFrom (s : State) (va : Nat) : Nat → Nat → Except Cls Leaf
  | 0, _ => .error .pteInvalid
  | fuel + 1, table =>
    let lvl := 3 - fuel
    let ea := table + 8 * vaIndex va lvl
    let e := s.rdLE ea 8
    if s.sectorLost ea then .error .dataError
    else if !e.testBit 0 then .error .pageAbsent
    else if e.testBit 1 then
      if leafInvalid e lvl then .error .pteInvalid
      else if e.testBit 7 then s.c64Leaf va table e
      else .ok ⟨ea, bits e 51 12 * 4096 + va % 2 ^ leafLg lvl, leafLg lvl, pteAttr e⟩
    else if pointerInvalid e lvl then .error .pteInvalid
    else s.walkFrom va fuel (bits e 51 12 * 4096)

def State.ctx? (s : State) (c : Nat) : Option Ctx := s.ctxs.find? (·.num == c)

/-- The walk of a context's tables (R392). -/
def State.walkVa (s : State) (ctx va : Nat) : Except Cls Leaf :=
  match s.ctx? ctx with
  | some c => s.walkFrom va 4 c.params.rtp
  | none => .error .pageAbsent

/-- The addresses of the entries that a walk reads, `fuel` levels left (R392). -/
def State.entriesFrom (s : State) (va : Nat) : Nat → Nat → List Nat
  | 0, _ => []
  | fuel + 1, table =>
    let ea := table + 8 * vaIndex va (3 - fuel)
    let e := s.rdLE ea 8
    ea :: if e.testBit 0 && !e.testBit 1 && !s.sectorLost ea then s.entriesFrom va fuel (bits e 51 12 * 4096) else []

/-- The entries that the walk of a context's tables reads for a VA (R390). -/
def State.walkReads (s : State) (ctx va : Nat) : List Nat :=
  match s.ctx? ctx with
  | some c => s.entriesFrom va 4 c.params.rtp
  | none => []

def State.stall? (s : State) (n : Nat) : Option Stall := (s.stalls.find? (·.1 == n)).map (·.2)
def State.stallD (s : State) (n : Nat) : Stall := (s.stall? n).getD (Stall.zeroed 0 16)
def State.modStall (s : State) (n : Nat) (f : Stall → Stall) : State :=
  { s with stalls := s.stalls.map fun e => if e.1 == n then (e.1, f e.2) else e }
def State.modHall (s : State) (h : Nat) (f : Hall → Hall) : State :=
  { s with halls := s.halls.mapIdx fun i x => if i == h then f x else x }
def State.modCtx (s : State) (c : Nat) (f : Ctx → Ctx) : State :=
  { s with ctxs := s.ctxs.map fun x => if x.num == c then f x else x }

/-- The hall of a stall; a displaced stall, numbered 4,096 and above, keeps the one it had (R15, R452). -/
def hallOfStall (st : Nat) : Nat := (if st < 4096 then st else st % 2048) / 512

/-- The range entry that covers a VA (R391). -/
def RangeEntry.covers (e : RangeEntry) (va : Nat) : Bool := e.v && decide (e.base ≤ va / 65536) && decide (va / 65536 ≤ e.limit)

def Tlb.covers (t : Tlb) (ctx va : Nat) : Bool := t.ctx == ctx && t.va == va / 2 ^ t.lg * 2 ^ t.lg

/-- The first cached source that holds a translation: range entries, micro-TLB, hall TLB (R390). -/
def State.lookupVa (s : State) (st ctx va : Nat) : Option (Nat × Attr) :=
  let x := s.stallD st
  match x.ranges.find? (·.covers va) with
  | some e => some (e.pabase * 65536 + (va - e.base * 65536), e.attr)
  | none =>
    match x.utlb.find? (·.covers ctx va) with
    | some t => some (t.pa + va % 2 ^ t.lg, t.attr)
    | none =>
      match (s.hallD (hallOfStall st)).tlb.find? (·.covers ctx va) with
      | some t => some (t.pa + va % 2 ^ t.lg, t.attr)
      | none => none

/-- A translation from the cached sources or the tables (R390). -/
def State.pagePa (s : State) (st ctx va : Nat) : Except Cls (Nat × Attr) :=
  match s.lookupVa st ctx va with
  | some p => .ok p
  | none => match s.walkVa ctx va with | .ok l => .ok (l.pa, l.attr) | .error c => .error c

/-- Pieces of a run of bytes, one for each page. -/
def pagePieces (va n : Nat) : List (Nat × Nat) :=
  if n = 0 then []
  else (List.range ((va + n - 1) / 4096 - va / 4096 + 1)).map fun k =>
    let lo := max va ((va / 4096 + k) * 4096)
    (lo, min (va + n) ((va / 4096 + k + 1) * 4096) - lo)

/-- Bytes from a VA on through the page tables; those of an absent page read 0. -/
def State.vaBytes (s : State) (ctx va n : Nat) : List Byte :=
  (pagePieces va n).flatMap fun p => match s.walkVa ctx p.1 with
    | .ok l => getBytes s.mem l.pa p.2
    | .error _ => List.replicate p.2 0

/-- Writes bytes from a VA on through the page tables; those of an absent page are not written. -/
def State.vaPut (s : State) (ctx va : Nat) (bs : List Byte) : State :=
  (pagePieces va bs.length).foldl (fun s p => match s.walkVa ctx p.1 with
    | .ok l => s.wrBytes l.pa ((bs.drop (p.1 - va)).take p.2)
    | .error _ => s) s

/-- Zeroes a run of VAs through the page tables, where pages are there. -/
def State.vaZero (s : State) (ctx va n : Nat) : State :=
  (pagePieces va n).foldl (fun s p => match s.walkVa ctx p.1 with
    | .ok l => { s with mem := spDrop (fun a => decide (l.pa ≤ a) && decide (a < l.pa + p.2)) s.mem }
    | .error _ => s) s

/-- Fills the hall TLB (16,384 entries) and the micro-TLB (64 entries), dropping the oldest entry of a full one (R390). -/
def State.fillTlb (s : State) (st ctx va : Nat) (l : Leaf) : State :=
  let t : Tlb := ⟨ctx, va / 2 ^ l.lg * 2 ^ l.lg, l.lg, l.pa / 2 ^ l.lg * 2 ^ l.lg, l.attr⟩
  (s.modHall (hallOfStall st) fun h => { h with tlb := (t :: h.tlb).take 16384 }).modStall st
    fun x => { x with utlb := (t :: x.utlb).take 64 }

/-- The walker's atomic on a leaf's A bit, and D for a write (R396): the entry is read afresh and nothing is done where it has
become invalid. -/
def State.markAD (s : State) (ctx va : Nat) (wr : Bool) : State :=
  match s.walkVa ctx va with
  | .ok l =>
    let e := s.rdLE l.pte 8
    s.wrLE l.pte 8 (e ||| 0x20 ||| (if wr then 0x40 else 0))
  | .error _ => s

/-- Marks every page that an access touches (R396). -/
def State.markPages (s : State) (ctx va size : Nat) (wr : Bool) : State :=
  let s := s.markAD ctx va wr
  if (va + size - 1) / 4096 = va / 4096 then s else s.markAD ctx (va + size - 1) wr

/-- What an access needs of a page (R395, R246, R402). -/
structure Need where
  r : Bool
  w : Bool
  sync : Bool
  /-- a plain 8-byte LD or ST, the only accesses a control page takes (R402) -/
  plain8 : Bool
  /-- stores come from a handler frame (R402) -/
  hnd : Bool
  deriving DecidableEq, Repr, Inhabited

/-- The check of one page's translation against an access (R246, R395, R400, R402, R457). -/
def State.pageCheck (s : State) (n : Need) (pa : Nat) (a : Attr) : Option Cls :=
  if (n.r && !a.r) || (n.w && !a.w) then some .permission
  else if paKind pa == .control &&
      !(n.plain8 && (n.r != n.w) && (pa % 4096 == 0 || pa % 4096 == 8 || pa % 4096 == 16) && (!n.w || n.hnd)) then
    some .permission
  else if a.sync != n.sync then some .syncMisuse
  else if a.scratch && !s.scratchPresent pa then some .scratchAbsent
  else none

/-- The result of checking an access (R234). -/
inductive Checked where
  | ok (a : Acc)
  /-- no cached source holds the translation of this VA -/
  | walk (va : Nat)
  | fault (c : Cls) (va heat : Nat)
  deriving DecidableEq, Repr, Inhabited

/-- The locations of `n` bytes from `va`, the first of which lies at `pa`. -/
def locsFrom (va pa n : Nat) (hp : Bool) : List BLoc := (List.range n).map fun i => ⟨va + i, pa + i, hp⟩

/-- Translates and checks `size` bytes at `va`, page by page in ascending order (R234); no heat check. -/
def State.checkPages (s : State) (st ctx : Nat) (n : Need) (va size heat : Nat) : Checked :=
  let n0 := min size (4096 - va % 4096)
  match s.lookupVa st ctx va with
  | none => .walk va
  | some (pa, a) =>
    match s.pageCheck n pa a with
    | some c => .fault c va heat
    | none =>
      let l0 := locsFrom va pa n0 a.heatpriv
      if n0 = size then .ok ⟨ctx, heat, va, size, l0⟩
      else
        let va1 := va + n0
        match s.lookupVa st ctx va1 with
        | none => .walk va1
        | some (pa1, a1) =>
          match s.pageCheck { n with plain8 := false } pa1 a1 with
          | some c => .fault c va1 heat
          | none => .ok ⟨ctx, heat, va, size, l0 ++ locsFrom va1 pa1 (size - n0) a1.heatpriv⟩

/-- A heat is live, or the base heat (R38, R85). -/
def State.heatLive (s : State) (ctx heat : Nat) : Bool :=
  heat == 0 || s.heats.any fun h => h.ctx == ctx && h.tag == heat && h.live

/-- Arena slots of a context in use: cells, reservations, and nodes of reduction objects (R85, R254, R302). -/
def State.arenaUsed (s : State) (c : Ctx) : Nat :=
  (s.made.filter (·.1 == c.num)).length + c.reserved.length + (s.reds.filter fun (r : Red) => r.ctx == c.num).foldl (fun n r => n + r.excess) 0 +
    (s.insts.filter fun (x : Inst) => x.ctx == c.num).foldl (fun n x => n + (x.waits.filter (·.2)).length) 0

/-- The heat-private sectors an access would materialise (R85). -/
def Acc.sectors (a : Acc) : List Nat := ((a.locs.filter (·.hp)).map fun b => b.va / 128).eraseDups

/-- The sectors of an access by a heat that have neither a cell nor a reservation of the block (R85). -/
def State.needSlots (s : State) (bid : Nat) (a : Acc) : List Nat :=
  if a.heat = 0 then []
  else a.sectors.filter fun sec =>
    !s.made.contains (a.ctx, a.heat, sec) &&
      !((s.ctx? a.ctx).map fun c => c.reserved.contains (bid, a.heat, sec)).getD false

/-- Free arena slots. -/
def State.arenaFree (s : State) (ctx : Nat) : Nat :=
  match s.ctx? ctx with
  | some c => c.params.arena - s.arenaUsed c
  | none => 0

/-- The checks of R234 in full: address, heat (before any page attribute, R38), pages and, for a store, the arena (R85). -/
def State.checkAccess (s : State) (st ctx bid : Nat) (n : Need) (store : Bool) (ea : W64) (size heat : Nat) : Checked :=
  let va := ea.toNat
  if va / 2 ^ 56 != 0 then .fault .address (va % 2 ^ 56) heat
  else if 2 ^ 56 < va + size then .fault .address va heat
  else
    if !s.heatLive ctx heat then .fault .heatRange va heat
    else match s.checkPages st ctx n va size heat with
    | .ok a =>
      if store && decide (s.arenaFree ctx < (s.needSlots bid a).length) then .fault .heatArenaFull va heat
      else .ok a
    | c => c

/-- Takes the arena slots of a checked store for its block (R85). -/
def State.reserve (s : State) (bid : Nat) (a : Acc) : State :=
  let secs := s.needSlots bid a
  s.modCtx a.ctx fun c => { c with reserved := c.reserved ++ secs.map fun sec => (bid, a.heat, sec) }

/-! The page tables as a whole -/

/-- Indices of a table that hold anything but zero. -/
def State.entriesOf (s : State) (table n : Nat) : List Nat :=
  ((s.mem.filter fun c => decide (table ≤ c.1) && decide (c.1 < table + 8 * n)).map fun c => (c.1 - table) / 8).eraseDups

def tableEntries (lvl : Nat) : Nat := if lvl = 0 then 131072 else 512
/-- log2 of the bytes an entry of a level covers. -/
def entryLg : Nat → Nat
  | 0 => 39
  | 1 => 30
  | 2 => 21
  | _ => 12

/-- A leaf of the tables: VA, address of its entry, physical address, log2 of its size, attributes. -/
structure Mapping where
  va   : Nat
  pte  : Nat
  pa   : Nat
  lg   : Nat
  attr : Attr
  deriving DecidableEq, Repr, Inhabited

/-- The valid leaves below a table that maps from `va` on, in ascending VA; a 64 KiB page shows as its sixteen entries. -/
def State.leavesFrom (s : State) : Nat → Nat → Nat → List Mapping
  | 0, _, _ => []
  | fuel + 1, table, va =>
    let lvl := 3 - fuel
    (s.entriesOf table (tableEntries lvl)).flatMap fun i =>
      let e := s.rdLE (table + 8 * i) 8
      let v := va + i * 2 ^ entryLg lvl
      if !e.testBit 0 then []
      else if e.testBit 1 then (if leafInvalid e lvl then [] else [⟨v, table + 8 * i, bits e 51 12 * 4096, leafLg lvl, pteAttr e⟩])
      else if pointerInvalid e lvl then []
      else s.leavesFrom fuel (bits e 51 12 * 4096) v

def State.leaves (s : State) (ctx : Nat) : List Mapping :=
  match s.ctx? ctx with
  | some c => s.leavesFrom 4 c.params.rtp 0
  | none => []

/-- The tables below a table, with their sizes. -/
def State.tablesFrom (s : State) : Nat → Nat → List (Nat × Nat)
  | 0, _ => []
  | fuel + 1, table =>
    let lvl := 3 - fuel
    (table, 8 * tableEntries lvl) :: (s.entriesOf table (tableEntries lvl)).flatMap fun i =>
      let e := s.rdLE (table + 8 * i) 8
      if e.testBit 0 && !e.testBit 1 && !pointerInvalid e lvl then s.tablesFrom fuel (bits e 51 12 * 4096) else []

/-- A context has pages, tables or slice pairs in a hall (R457, R462); in SPREAD mode every hall holds part of every page. -/
def State.pagesInHall (s : State) (c : Ctx) (hall : Nat) : Bool :=
  let here := fun (pa n : Nat) =>
    match paKind pa with
    | .dram => s.pkg.interleave == .spread || (decide (bits pa 37 36 ≤ hall) && decide (hall ≤ bits (pa + n - 1) 37 36))
    | .scratch | .control => bits pa 47 44 == hall
    | _ => false
  ((s.leaves c.num).any fun l => here l.pa (2 ^ l.lg)) || (s.tablesFrom 4 c.params.rtp).any fun t => here t.1 t.2

end Sys2Proof.Machine
end

