-- ==== Sys2Proof/Machine/Ops.lean ====
section
/-! DEFINITION. The named operations on the state: keyed access to frames, blocks and the rest; free choices; traffic; counters;
completion entries; Birty records; discarding a block; and TAKING A FAULT (record, log, held frame) with the actions of ERET
beside it (16_recovery.md). -/
namespace Sys2Proof.Machine

/-- The outcome of a meaning. -/
abbrev Out := Host.Outcome State Fault Refusal

/-! Keyed access -/

def State.frame? (s : State) (fid : Nat) : Option Frame := s.frames.find? (·.fid == fid)
def State.block? (s : State) (bid : Nat) : Option Block := s.blocks.find? (·.bid == bid)
def State.modFrame (s : State) (fid : Nat) (f : Frame → Frame) : State :=
  { s with frames := s.frames.map fun x => if x.fid == fid then f x else x }
def State.modBlock (s : State) (bid : Nat) (f : Block → Block) : State :=
  { s with blocks := s.blocks.map fun x => if x.bid == bid then f x else x }
def State.inst? (s : State) (i : Nat) : Option Inst := s.insts.find? (·.iid == i)
def State.modInst (s : State) (i : Nat) (f : Inst → Inst) : State :=
  { s with insts := s.insts.map fun x => if x.iid == i then f x else x }
def State.launch? (s : State) (ctx slot : Nat) : Option Launch := s.launches.find? fun l => l.ctx == ctx && l.slot == slot
def State.modLaunch (s : State) (ctx slot : Nat) (f : Launch → Launch) : State :=
  { s with launches := s.launches.map fun x => if x.ctx == ctx && x.slot == slot then f x else x }
def State.heat? (s : State) (ctx tag : Nat) : Option Heat := s.heats.find? fun h => h.ctx == ctx && h.tag == tag
def State.modHeat (s : State) (ctx tag : Nat) (f : Heat → Heat) : State :=
  { s with heats := s.heats.map fun x => if x.ctx == ctx && x.tag == tag then f x else x }
def State.jobrec? (s : State) (ctx num : Nat) : Option JobRec := s.jobrecs.find? fun j => j.ctx == ctx && j.num == num
def State.modJobrec (s : State) (ctx num : Nat) (f : JobRec → JobRec) : State :=
  { s with jobrecs := s.jobrecs.map fun x => if x.ctx == ctx && x.num == num then f x else x }
def State.red? (s : State) (hall slot : Nat) : Option Red := s.reds.find? fun r => r.hall == hall && r.slot == slot
def State.modRed (s : State) (hall slot : Nat) (f : Red → Red) : State :=
  { s with reds := s.reds.map fun x => if x.hall == hall && x.slot == slot then f x else x }
def State.modRec (s : State) (rid : Nat) (f : Rec → Rec) : State :=
  { s with recs := s.recs.map fun x => if x.rid == rid then f x else x }
def State.modPair (s : State) (hall pair : Nat) (f : Pair → Pair) : State :=
  { s with pairs := s.pairs.map fun x => if x.hall == hall && x.pair == pair then f x else x }

def Stall.tileD (x : Stall) (t : Nat) : Tile := x.tiles.getD t .reset
def Stall.modTile (x : Stall) (t : Nat) (f : Tile → Tile) : Stall := { x with tiles := x.tiles.modify t f }
def State.tileD (s : State) (st t : Nat) : Tile := (s.stallD st).tileD t
def State.modTile (s : State) (st t : Nat) (f : Tile → Tile) : State := s.modStall st (·.modTile t f)

def Frame.ctxHall (f : Frame) : Nat := hallOfStall f.stall

/-! Free choices, replies, traffic, counters -/

/-- A free one of a pool (R482): the free value picks, and the draw counter advances. -/
def State.choose (s : State) (pool : List Nat) : Option Nat × State :=
  match pool with
  | [] => (none, s)
  | [a] => (some a, s)
  | _ => (pool[Config.pick s.draws % pool.length]?, { s with draws := s.draws + 1 })

/-- The mailbox reply of a command (R382, R415). -/
def State.reply (s : State) (status : Nat) (data : List Nat) : State := { s with mail := ⟨status, data⟩ }

/-- Sends something towards its home, counter, store or stall. -/
def State.ship (s : State) (org : Org) (msq : Nat) (cargo : Cargo) : State :=
  { s with flight := s.flight ++ [⟨s.nextId, org, msq, org.stall, cargo⟩], nextId := s.nextId + 1 }

/-- Takes the `k`-th thing in flight away. -/
def State.land (s : State) (k : Nat) : State := { s with flight := s.flight.eraseIdx k }

/-- Adds to a stall counter and to its context's (R431). -/
def State.count (s : State) (st k n : Nat) : State :=
  let s := s.modStall st fun x => { x with counters := x.counters.modify k fun v => (v + n) % 2 ^ 64 }
  match (s.stallD st).owner with
  | some c => s.modCtx c fun x => { x with counters := x.counters.modify k fun v => (v + n) % 2 ^ 64 }
  | none => s

/-- A completion entry waits for the queue (R356). -/
def State.post (s : State) (ctx : Nat) (e : CqEntry) : State := s.modCtx ctx fun c => { c with cqWaiting := c.cqWaiting ++ [e] }

/-- The driver hears of a failed or reset unit: a completion entry of KIND 8 (R356, R457, R458, R462). -/
def State.tellDriver (s : State) (ctx : Nat) : State :=
  s.post ctx { cookie := 0, status := 0, kind := 8, job := 0, detail := 0, frees := none }

/-- MSQ of an LSID (R212). -/
def msqOf (bsq : W32) (lsid : Nat) : Nat := bsq.toNat * 32 + lsid
/-- Program order of two MSQ values of a frame, within the window of R25. -/
def msqLt (a b : Nat) : Bool := a != b && decide ((b + 2 ^ 37 - a) % 2 ^ 37 < 2 ^ 36)

/-- The issuing frame and block as records and messages carry it. -/
def Frame.org (f : Frame) (blk slot iter : Nat) (keep : Bool) : Org :=
  { ctx := f.ctx, fid := f.fid, fref := f.fref, stall := f.stall, blk := blk, fn := f.fn, bsq := f.bsq, slot := slot,
    heat := f.ht, iter := iter, hnd := f.handler, keep := keep, capt := f.captured, det := f.det, inst := f.inst,
    launch := f.launch, job := f.job }

/-- An origin for things no frame issued (R436: hall units). -/
def Org.ofHall (ctx hall : Nat) : Org :=
  { ctx := ctx, fid := 0, fref := 0, stall := hall * 512 + 0x1FF, blk := 0, fn := 0, bsq := 0, slot := 0xFF, heat := 0, iter := 0,
    hnd := false, keep := false, capt := false, det := false, inst := none, launch := none, job := none }

/-- The stall identifier a record or log entry shows, 0x7FF for a unit that is no stall (R409, R424). -/
def shownStall (st : Nat) : Nat := if st % 512 = 0x1FF || (2048 ≤ st && st < 4096) then 0x7FF else st % 2048

/-! The call room (R361) -/

/-- A key stands on the overflow list. -/
def Inst.overflown (x : Inst) (node : Nat) (tag : W16) : Bool := x.ovf.any fun e => e.1 == node && e.2.1 == tag
/-- Keys, pairs of node and tag, that hold tokens in the matching stores of a hall and stand in its call room. -/
def Inst.keysIn (x : Inst) (hall : Nat) : Nat :=
  ((x.toks.map fun t => (t.node, t.tag)).eraseDups.filter fun k =>
    hallOfStall (x.nodes.getD k.1 default).home == hall && !x.overflown k.1 k.2).length

/-- Entries of a hall's call room but for one frame's (R361). -/
def State.callRoom (s : State) (hall fid : Nat) : Nat :=
  (s.frames.filter fun f => f.fid != fid && f.ctxHall == hall && (f.place == .callroom || f.place == .gated)).length +
    s.insts.foldl (fun n x => n + x.keysIn hall) 0
def State.roomFull (s : State) (hall fid : Nat) : Bool := decide (8192 ≤ s.callRoom hall fid)

/-- A frame waits from now on: behind its inline children (R346), in the call room, or on the overflow list of a full one (R361). -/
def State.enterRoom (s : State) (fid : Nat) : State :=
  match s.frame? fid with
  | none => s
  | some f =>
    let p : Place := if !f.inlineKids.isEmpty then .inlineWait else if s.roomFull f.ctxHall fid then .overflow else .callroom
    s.modFrame fid fun f => { f with place := p, since := (s.stallD f.stall).cyc }

/-- A frame leaves the block engine to be held, stopped or saved; one that waits already stays where it is. -/
def State.leaveEngine (s : State) (fid : Nat) : State :=
  match s.frame? fid with
  | some f => if f.place == .resident || f.place == .parked then s.enterRoom fid else s
  | none => s

/-! The block header (R40, R41) -/

def Block.hdrBits (b : Block) (hi lo : Nat) : Nat := bits b.hdr.toNat hi lo
def Block.icnt (b : Block) : Nat := b.hdrBits 11 4
def Block.isLoop (b : Block) : Bool := b.hdr.getLsbD 12
def Block.keep (b : Block) : Bool := b.hdr.getLsbD 13
def Block.debugStop (b : Block) : Bool := b.hdr.getLsbD 14
def Block.strict (b : Block) : Bool := b.hdr.getLsbD 15
def Block.wmask (b : Block) : Nat := b.hdrBits 63 32
def Block.mmask (b : Block) : Nat := b.hdrBits 95 64
/-- The word of a slot. -/
def Block.word (b : Block) (n : Nat) : W64 := b.words.getD n 0
/-- The instruction of a slot, once mapping has accepted the block (R63). -/
def Block.instr? (b : Block) (n : Nat) : Option Instr :=
  match decodeWord (b.word n) (b.word (n + 1)) with
  | .ok i => some i
  | .error _ => none
def Block.slotD (b : Block) (n : Nat) : Slot := b.slots.getD n default
/-- Fall-through address F (R136). -/
def Block.fallThrough (b : Block) : Nat := b.addr + 16 + 16 * ((b.icnt + 1) / 2)

/-! Birty records (R424-R427) -/

def Trace.en (t : Trace) : Bool := t.ctl.getLsbD 32
def Trace.scopeCaptured (t : Trace) : Bool := t.ctl.getLsbD 33
def Trace.drop (t : Trace) : Bool := t.ctl.getLsbD 34
def Trace.logn (t : Trace) : Nat := bits t.ctl.toNat 39 35
def Trace.walkExp (t : Trace) : Nat := bits t.ctl.toNat 47 40
def Trace.typeOn (t : Trace) (ty : Nat) : Bool := 1 ≤ ty && ty ≤ 10 && t.ctl.getLsbD (48 + ty)

/-- Writes bytes at a VA of a context through its page tables, page by page; bytes whose page is absent are not written. -/
def State.vaWrite (ctx : Nat) : State → Nat → List Byte → State
  | s, _, [] => s
  | s, va, b :: bs =>
    let s' := match s.walkVa ctx va with
      | .ok l => { s with mem := spPut 0 s.mem l.pa b }
      | .error _ => s
    vaWrite ctx s' (va + 1) bs

/-- Reads `n` bytes at a VA through the page tables; an unmapped byte reads 0. -/
def State.vaRead (s : State) (ctx va n : Nat) : Nat :=
  readLE (fun a => match s.walkVa ctx a with | .ok l => s.rd8 l.pa | .error _ => 0) va n

/-- RPTR of a trace ring, as the device's plain load reads it (R427). -/
def State.rptr (s : State) (ctx base : Nat) : Nat := s.vaRead ctx (base + 8) 8

/-- Places one record in the ring and publishes WPTR (R426, R427). -/
def State.ringPut (s : State) (c : Ctx) (bs : List Byte) : State :=
  let t := c.trace
  let s := s.vaWrite c.num (t.base + 64 + 32 * (t.wptr % 2 ^ t.logn)) bs
  let s := s.vaWrite c.num t.base (bytesLE (t.wptr + 1) 8)
  s.modCtx c.num fun c => { c with trace := { c.trace with wptr := (t.wptr + 1) % 2 ^ 64 } }

def State.ringFull (s : State) (c : Ctx) : Bool :=
  (c.trace.wptr + 2 ^ 64 - s.rptr c.num c.trace.base) % 2 ^ 64 == 2 ^ c.trace.logn

/-- The loss record of a context (R425 type 11). -/
def lossRecord (c : Ctx) : List Byte := bytesLE (c.trace.lost * 2 ^ 80 + c.num * 2 ^ 19 + 0x7FF * 2 ^ 8 + 11) 32

/-- The loss record that precedes the first record written once room has returned (R425, R427). -/
def State.ringLoss (s : State) (ctx : Nat) : State :=
  match s.ctx? ctx with
  | none => s
  | some c =>
    if c.trace.lost = 0 || s.ringFull c then s
    else (s.ringPut c (lossRecord c)).modCtx ctx fun c => { c with trace := { c.trace with lost := 0 } }

/-- Writes, holds or drops a finished record under the ring's policy (R427). -/
def State.ringOffer (s : State) (ctx st : Nat) (bs : List Byte) : State :=
  let s := s.ringLoss ctx
  match s.ctx? ctx with
  | none => s
  | some c =>
    if !c.trace.waiting.isEmpty then s.modCtx ctx fun c => { c with trace := { c.trace with waiting := c.trace.waiting ++ [bs] } }
    else if s.ringFull c then
      if c.trace.drop then
        let s := s.modCtx ctx fun c =>
          { c with trace := { c.trace with lost := c.trace.lost + 1, lostTotal := c.trace.lostTotal + 1 } }
        let s := s.vaWrite ctx (c.trace.base + 16) (bytesLE (c.trace.lostTotal + 1) 8)
        s.count st 15 1
      else s.modCtx ctx fun c => { c with trace := { c.trace with waiting := c.trace.waiting ++ [bs] } }
    else s.ringPut c bs

/-- A record of a type with its XW word, naming a block (R424); written when the frame is traced and the type enabled. -/
def State.birty (s : State) (o : Org) (ty xw : Nat) : State :=
  match s.ctx? o.ctx with
  | none => s
  | some c =>
    if c.params.debuggable && c.trace.en && c.trace.typeOn ty && (!c.trace.scopeCaptured || o.capt) then
      let cyc := (s.stallD o.stall).cyc % 2 ^ 32
      s.ringOffer o.ctx o.stall
        (bytesLE (o.fn.toNat * 2 ^ 192 + o.bsq.toNat * 2 ^ 160 + cyc * 2 ^ 128 + xw % 2 ^ 48 * 2 ^ 80 + bits o.blk 51 4 * 2 ^ 32 +
          bits o.blk 55 52 * 2 ^ 28 + o.ctx * 2 ^ 19 + shownStall o.stall * 2 ^ 8 + (if o.hnd then 32 else 0) +
          (if o.det then 16 else 0) + ty) 32)
    else s

/-! Continuation records (R329), and the list heads in cells and hurdle words -/

/-- The records linked at a cell or hurdle word, from the head on. -/
def State.contList (s : State) (ctx va : Nat) : List Cont := s.conts.filter fun c => c.ctx == ctx && c.va == va

/-- The head of a list: VA[55:4] of the first record, 0 when none is linked. -/
def contHead (l : List Cont) : Nat := (l.head?.map (·.at_)).getD 0

/-- The frame area (R382, R455): tile backings of 512 KiB, as many as the pitch has stalls, then an equal share for each stall's spilled
records (log 118). A stall's backing stands at the offset recorded with the context. -/
def Ctx.ordinal (c : Ctx) (st : Nat) : Nat := c.params.pitch.idxOf st
def Ctx.backingVa (c : Ctx) (st : Nat) : Nat :=
  c.params.frameArea.va + ((c.backings.find? (·.1 == st)).map (·.2)).getD (c.ordinal st) * 2 ^ 19
/-- The frame area holds the backing of every stall of a pitch (R455). -/
def backingsFit (r : Region) (pitch : List Nat) : Bool := decide (pitch.length * 2 ^ 19 ≤ r.size)
def Ctx.shareLen (c : Ctx) : Nat := (c.params.frameArea.size - c.params.pitch.length * 2 ^ 19) / max 1 c.params.pitch.length
def Ctx.shareVa (c : Ctx) (k : Nat) : Nat := c.params.frameArea.va + c.params.pitch.length * 2 ^ 19 + k * c.shareLen

/-- VA[55:4] for a new record: in the share of the waiting frame's stall, at the first place from the free choice on, round the share,
that no record stands at, and never 0 (R329, log 3). -/
def State.contPlace (s : State) (c : Ctx) (st bid slot : Nat) : Nat :=
  let n := max 1 (c.shareLen / 16)
  let place := fun (k : Nat) => max 1 ((c.shareVa (c.ordinal st) / 16 + ((Config.contRecord bid slot).toNat + k) % n) % 2 ^ 52)
  let free := fun (k : Nat) => !s.conts.any fun x => x.ctx == c.num && x.at_ == place k
  place (((List.range (s.conts.length + 1)).find? free).getD 0)

/-- A record as it stands in memory. -/
def State.contWord (s : State) (c : Cont) (next : Nat) : Nat :=
  ((s.frame? c.fid).map (·.fref)).getD 0 % 2 ^ 24 * 2 ^ 104 + (if c.dead then 2 ^ 71 else 0) + c.slot % 2 ^ 7 * 2 ^ 64 + next % 2 ^ 52

/-- Writes a record, where its page is there. -/
def State.wrCont (s : State) (c : Cont) (next : Nat) : State :=
  match s.walkVa c.ctx (c.at_ * 16) with
  | .ok l => s.wrLE l.pa 16 (s.contWord c next)
  | .error _ => s

/-- Writes the records of a list, each with its NEXT. -/
def State.wrConts : State → List Cont → State
  | s, [] => s
  | s, c :: l => (s.wrCont c (contHead l)).wrConts l

/-- A cell (VALUE[51:0]) or hurdle word (WHEAD, bits [119:68]) with the head of its list. -/
def headWord (w h : Nat) (hurdle : Bool) : Nat :=
  if hurdle then w % 2 ^ 68 + h * 2 ^ 68 + w / 2 ^ 120 * 2 ^ 120 else w / 2 ^ 64 * 2 ^ 64 + h

/-- Unlinks the dead records of a list: the others and the head close up (R329). -/
def State.unlinkDead (s : State) (ctx va : Nat) : State :=
  match s.conts.find? fun c => c.ctx == ctx && c.va == va && c.dead with
  | none => s
  | some c0 =>
    let s := { s with conts := s.conts.filter fun c => !(c.ctx == ctx && c.va == va && c.dead) }
    let l := s.contList ctx va
    match s.walkVa ctx va with
    | .ok p => (s.wrConts l).wrLE p.pa 16 (headWord (s.rdLE p.pa 16) (contHead l) c0.hurdle)
    | .error _ => s.wrConts l

/-! Levels: a pending cancel may leave a counter at zero (R338) -/

/-- A level's completion once its counter is 0 and no cancel is pending: launches (R337, R357). -/
def State.launchSettle (s : State) (ctx slot : Nat) : State :=
  match s.launch? ctx slot with
  | some l =>
    if l.count = 0 && l.pending = 0 && !l.complete && !l.node && l.live then
      let s := s.modLaunch ctx slot fun l => { l with complete := true }
      let s := match l.packet with
        | some (cookie, job) =>
          s.post ctx { cookie := cookie, status := if l.cancelled then 1 else 0, kind := 1, job := job, detail := slot,
                       frees := some slot }
        | none => s
      match l.job with
      | some j => if l.packet.isSome then s.ship (Org.ofHall ctx 0) 0 (.level 5 j 0) else s
      | none => s
    else s
  | none => s

/-- A job's completion (R354, R357); its record stays, for a CANCEL ordered after it (R19). -/
def State.jobSettle (s : State) (ctx num : Nat) : State :=
  match s.jobrec? ctx num with
  | some j =>
    if j.count = 0 && j.pending = 0 && !j.complete then
      let s := s.modJobrec ctx num fun j => { j with complete := true }
      s.post ctx { cookie := 0, status := if j.cancelled then 1 else 0, kind := 6, job := num, detail := 0, frees := none }
    else s
  | none => s

/-- A launch made in an instance or a job that has been cancelled is cancelled from the start (R18). -/
def State.bornCancelled (s : State) (ctx : Nat) (inst job : Option Nat) : Bool :=
  (inst.bind s.inst?).any (·.cancelled) || (job.bind (s.jobrec? ctx)).any (·.cancelled)

/-! Discarding a block (R46) -/

/-- What an effect took from a pool or holds pending returns when its block is discarded (R243, R251, R305, R332, R336, R338). -/
def State.undoEffect (s : State) (ctx st : Nat) : Effect → State
  | .heatNew tag => { s with heats := s.heats.filter fun h => !(h.ctx == ctx && h.tag == tag && !h.live) }
  | .spawn cell _ _ _ => s.modCtx ctx fun c => { c with pool := c.pool ++ [(hallOfStall st, cell)] }
  | .launch slot _ _ => { s with launches := s.launches.filter fun l => !(l.ctx == ctx && l.slot == slot) }
  | .rdinit slot => { s with reds := s.reds.filter fun r => !(r.hall == hallOfStall st && r.slot == slot) }
  | .cancel lvl obj status =>
    if status != 0 then s
    else match lvl with
      | 2 => (s.modLaunch ctx obj fun l => { l with pending := l.pending - 1 }).launchSettle ctx obj
      | 3 => s.modHeat ctx obj fun h => { h with pending := h.pending - 1 }
      | 4 => s.modInst obj fun i => { i with pending := i.pending - 1 }
      | 5 => (s.modJobrec ctx obj fun j => { j with pending := j.pending - 1 }).jobSettle ctx obj
      | _ => s
  | _ => s

/-- Marks the records of a block's waits DEAD; the home unlinks each (R329, R342 step 2). -/
def State.killConts (s : State) (o : Org) (bid : Nat) : State :=
  let mine := s.conts.filter fun c => c.bid == bid && !c.dead
  let s := { s with conts := s.conts.map fun c => if c.bid == bid then { c with dead := true } else c }
  mine.foldl (fun s c => (s.wrConts (s.contList c.ctx c.va)).ship o 0 (.unlink c.va)) s

/-- A write of a frame to a sector of a heat's cell is on its way, or stands in a block that has yet to commit. -/
def State.writesCell (s : State) (fid ctx heat sec : Nat) : Bool :=
  let hits := fun (a : Acc) => a.ctx == ctx && a.heat == heat && a.sectors.contains sec
  (s.flight.any fun w => w.org.fid == fid && (match w.cargo with | .store a _ _ _ | .atomicWrite a _ _ _ => hits a | _ => false)) ||
    s.blocks.any fun b => b.fid == fid && b.effs.any fun e =>
      match e.2 with
      | .store _ a _ _ | .mcast _ a _ _ _ => hits a
      | .atomic op => s.ops.any fun o => o.oid == op && hits o.acc
      | _ => false

/-- The reads of a discarded block are no events: a copy that only such reads took goes (R46, R228). -/
def State.unreadCopies (s : State) (bid : Nat) : State :=
  { s with copies := (s.copies.map fun (k : Copy) => { k with users := k.users.filter (· != bid) }).filter fun (k : Copy) => k.fixed || !k.users.isEmpty }

/-- Copies of a frame with no write of it left to start the cell go (R228). -/
def State.dropCopies (s : State) (fid : Nat) : State :=
  { s with copies := s.copies.filter fun k => k.fid != fid || s.writesCell fid k.ctx k.heat k.sec }

/-- Discards one block: no effect of it remains, its pending atomic is cancelled, what it took returns. `cause` is the discard
cause of R425; a speculative block leaves no trace (R66). -/
def State.discard1 (s : State) (b : Block) (cls cause slot : Nat) : State :=
  match s.frame? b.fid with
  | none => { s with blocks := s.blocks.filter (·.bid != b.bid) }
  | some f =>
    let o := f.org b.addr slot b.iter b.keep
    let s := b.effs.foldl (fun s e => s.undoEffect f.ctx f.stall e.2) s
    let s := { s with ops := s.ops.filter (·.bid != b.bid),
                      walks := s.walks.filter fun w => match w.who with | .slot bid _ _ => bid != b.bid | _ => true,
                      heats := s.heats.map fun (h : Heat) => if h.ender == some f.fid && !b.spec then { h with ender := none } else h }
    let s := s.modCtx f.ctx fun c => { c with reserved := c.reserved.filter fun r => r.1 != b.bid }
    let s := s.killConts o b.bid
    let s := (({ s with blocks := s.blocks.filter (·.bid != b.bid) }).unreadCopies b.bid).dropCopies f.fid
    if b.spec then s.count f.stall 12 1
    else (s.count f.stall 2 1).birty o 2 (cls % 65536 + cause * 2 ^ 16 + slot * 2 ^ 20)

/-- Discards a block and the speculative blocks that follow it (R371). -/
def State.discard (s : State) (b : Block) (cls cause slot : Nat) : State :=
  let s := (s.blocks.filter fun x => x.fid == b.fid && x.spec && x.bid != b.bid).foldl (fun s x => s.discard1 x 0 0 0xFF) s
  s.discard1 b cls cause slot

/-- Discards the speculative blocks of a frame (R66, R371). -/
def State.discardSpec (s : State) (fid : Nat) : State :=
  (s.blocks.filter fun x => x.fid == fid && x.spec).foldl (fun s x => s.discard1 x 0 0 0xFF) s

/-- Discards every block of a frame, speculative ones first (R371). -/
def State.discardFrame (s : State) (fid : Nat) (cls cause slot : Nat) : State :=
  let mine := s.blocks.filter (·.fid == fid)
  (mine.filter (·.spec) ++ mine.filter (!·.spec)).foldl (fun s b => s.discard1 b cls cause slot) s

/-! TAKING A FAULT (R434-R441) -/

/-- What a fault record says beside its origin. -/
structure FaultInfo where
  cls   : Cls
  /-- the virtual address, where one applies -/
  va    : Option Nat := none
  /-- its physical address, where the access had got one -/
  pa    : Option Nat := none
  /-- heat of the access; the frame's when none is named -/
  heat  : Option Nat := none
  extra : W64 := 0
  eng   : Nat := 0
  /-- STRADDLE, SPECULATIVE-ORIGIN, WR of R439 -/
  straddle : Bool := false
  specOrigin : Bool := false
  wr    : Bool := false
  deriving DecidableEq, Repr, Inhabited

/-- FLAGS of R439. -/
def faultFlags (i : FaultInfo) (held post job hnd : Bool) : Nat :=
  (if i.straddle then 1 else 0) + (if i.specOrigin then 2 else 0) + (if held then 4 else 0) + (if post then 8 else 0) +
    (if job then 16 else 0) + (if i.wr then 32 else 0) + (if hnd then 64 else 0)

/-- The eight words of a record (R438). -/
def Rec.words (r : Rec) : List W64 :=
  [BitVec.ofNat 64 (r.flags % 256 * 2 ^ 48 + r.stall % 2048 * 2 ^ 32 + r.eng % 16 * 2 ^ 24 + r.slot % 256 * 2 ^ 16 + r.cls % 65536),
   BitVec.ofNat 64 (r.org.blk % 2 ^ 56), r.org.fn, BitVec.ofNat 64 (r.fsq.toNat * 2 ^ 32 + r.org.bsq.toNat),
   BitVec.ofNat 64 (r.va % 2 ^ 56),
   BitVec.ofNat 64 (r.org.ctx % 512 * 2 ^ 40 + r.org.fref % 2 ^ 24 * 2 ^ 16 + r.heat % 65536), r.extra,
   BitVec.ofNat 64 (r.org.iter % 2 ^ 32)]

/-- Slots of a context's fault log (R435). -/
def Ctx.logSlots (c : Ctx) : Nat := c.params.faultLog.size / 64

/-- The first free log slot in ring order from the slot after the one last written (R435). -/
def Ctx.freeLogSlot (c : Ctx) : Option Nat :=
  ((List.range c.logSlots).map fun i => (c.logNext + i) % c.logSlots).find? fun k => !c.logUsed.contains k

/-- A fault with no handler (R437): the context is blocked until CTX_RUN and its driver is told. -/
def State.handlerless (s : State) (r : Rec) : State :=
  let s := s.modRec r.rid fun x => { x with status := 3 }
  let s := s.modCtx r.ctx fun c => { c with blocked := true }
  s.post r.ctx { cookie := 0, status := 0, kind := 8, job := 0, detail := r.cls % 65536 + r.fsq.toNat % 65536 * 65536,
                 frees := none }

/-- The 32 bytes of a firmware log entry (R409). -/
def FwLog.word (e : FwLog) : BitVec 256 :=
  BitVec.ofNat 256 (e.pa % 2 ^ 52 * 2 ^ 152 + e.fsq.toNat * 2 ^ 96 + e.cls % 2 ^ 16 * 2 ^ 80 + e.ctx % 2 ^ 9 * 2 ^ 71 +
    e.stall % 2 ^ 11 * 2 ^ 60 + e.eng % 2 ^ 4 * 2 ^ 56)

/-- The physical address of a fault's access: what its virtual address translates to as the fault is met (R408, log 127). -/
def State.faultPa (s : State) (r : Rec) : Nat :=
  match s.lookupVa r.stall r.ctx r.va with
  | some p => p.1
  | none => match s.walkVa r.ctx r.va with | .ok l => l.pa | .error _ => 0

/-- The hall's firmware log takes an entry under its next fault sequence number (R408, R409). -/
def State.fwLog (s : State) (r : Rec) (conf : Bool) : State :=
  s.modHall r.hall fun x =>
    { x with fsq := x.fsq + 1,
             fwlog := x.fwlog ++ [⟨conf, r.pa.getD 0, x.fsq, r.cls, r.ctx, shownStall r.stall, r.eng⟩] }

/-- Writes a waiting record into its log slot (R435). -/
def State.writeRec (s : State) (r : Rec) (c : Ctx) (k : Nat) : State :=
  let r := { r with logSlot := some k, status := 1 }
  let s := s.modRec r.rid fun _ => r
  let s := s.modCtx r.ctx fun x =>
    { x with flcnt := x.flcnt + 1, logNext := (k + 1) % c.logSlots, logUsed := k :: x.logUsed }
  let s := s.vaWrite r.ctx (c.params.faultLog.va + 64 * k) (r.words.flatMap fun w => bytesLE w.toNat 8)
  let s := s.birty r.org 6 (r.cls % 65536 + r.slot % 256 * 2 ^ 16 + r.eng % 16 * 2 ^ 24 + r.fsq.toNat % 2 ^ 20 * 2 ^ 28)
  if r.org.hnd || c.hentry = 0 then s.handlerless r else s

/-- The least element by a key, the first of equals. -/
def leastBy (key : α → Int) : List α → Option α
  | [] => none
  | a :: l =>
    match leastBy key l with
    | some b => if key b < key a then some b else some a
    | none => some a

/-- Writes the oldest waiting record of a context when a log slot is free (R435). -/
def State.flushRecs (s : State) (ctx : Nat) : Nat → State
  | 0 => s
  | n + 1 =>
    match s.ctx? ctx, s.recs.find? fun r => r.ctx == ctx && r.status == 0 with
    | some c, some r =>
      match c.freeLogSlot with
      | some k => (s.writeRec r c k).flushRecs ctx n
      | none => s
    | _, _ => s

/-- Enters a record: it takes the hall's next FSQ, and its address is logged (R408, R409). It is written at once where a log slot is
free, and waits otherwise; a report that would be the 257th to wait in its hall is dropped and counted (R435, logs 26 and 120). -/
def State.enterRec (s : State) (r : Rec) : State :=
  let r := { r with rid := s.nextId, pa := some (r.pa.getD (s.faultPa r)), fsq := (s.hallD r.hall).fsq }
  let s := { s with nextId := s.nextId + 1 }
  match s.ctx? r.ctx with
  | none => s
  | some c =>
    let waiting := (s.recs.filter fun x => x.hall == r.hall && x.status == 0 && x.heldFid.isNone).length
    let s := s.fwLog r c.params.confid
    if c.freeLogSlot.isNone && r.heldFid.isNone && 256 ≤ waiting then
      s.modHall r.hall fun h => { h with dropped := h.dropped + 1 }
    else ({ s with recs := s.recs ++ [r] }).flushRecs r.ctx 1

/-- A new record. A report's ITER is 0 (R438), and a record that names no access has no physical address (R408, log 127). -/
def Rec.make (o : Org) (i : FaultInfo) (held : Option Nat) (post : Bool) (job : Option (Nat × Nat)) : Rec :=
  { rid := 0, ctx := o.ctx, hall := hallOfStall o.stall, cls := i.cls, flags := faultFlags i held.isSome post job.isSome o.hnd,
    stall := o.stall, eng := i.eng, slot := o.slot, org := if held.isSome then o else { o with iter := 0 }, fsq := 0, va := i.va.getD 0,
    pa := if i.va.isNone || i.cls == .svc then some (i.pa.getD 0) else i.pa, heat := i.heat.getD o.heat, extra := i.extra,
    heldFid := held, jobRef := job, logSlot := none, status := 0 }

/-- A report (R434, R235): nothing is held and the issuing frame continues. -/
def State.report (s : State) (o : Org) (i : FaultInfo) : State := s.enterRec (.make o i none true none)

/-- TAKING A BLOCK FAULT (R434): the block is discarded under R46, its frame is held before it, and the record is entered. A
speculative block is discarded without a record (R66). -/
def State.blockFault (s : State) (bid slot : Nat) (i : FaultInfo) : State :=
  match s.block? bid with
  | none => s
  | some b =>
    match s.frame? b.fid with
    | none => s
    | some f =>
      let o := f.org b.addr slot (if b.isLoop then b.iter else 0) b.keep
      if b.spec then s.discardSpec f.fid else
      let s := s.discard b i.cls 0 slot
      let s := (s.modFrame f.fid fun f => { f with held := true, stp := false }).leaveEngine f.fid
      s.enterRec (.make o { i with specOrigin := b.specOrigin } (some f.fid) false none)

/-- A fault met before a block of the frame is mapped: the fetch faults of R442 and the breaches of R63. -/
def State.mapFault (s : State) (fid slot : Nat) (i : FaultInfo) : State :=
  match s.frame? fid with
  | none => s
  | some f =>
    let o := f.org f.next slot ((f.loop.map (·.1)).getD 0) false
    let s := (s.count f.stall 2 1).birty o 2 (i.cls % 65536 + slot * 2 ^ 20)
    let s := (s.modFrame fid fun f => { f with held := true, stp := false, fetched := none, fetching := false }).leaveEngine fid
    s.enterRec (.make o i (some fid) false none)

/-- The record a handler frame serves. -/
def State.recordOf (s : State) (f : Frame) : Option Rec := f.record.bind fun k => s.recs.find? (·.rid == k)

/-- VA of a record in its context's log (R435). -/
def State.recordVa (s : State) (r : Rec) : Nat :=
  match s.ctx? r.ctx, r.logSlot with
  | some c, some k => c.params.faultLog.va + 64 * k
  | _, _ => 0

/-- The frame reference a record names as held; 0 for none. -/
def State.heldRef (s : State) (r : Rec) : Nat := ((r.heldFid.bind s.frame?).map (·.fref)).getD 0

/-- HENTRY, FLCNT, HFREE and HREF as a frame reads them (R445). -/
def State.handlerRegs (s : State) (f : Frame) : List W64 :=
  [((s.ctx? f.ctx).map (·.hentry)).getD 0, ((s.ctx? f.ctx).map (·.flcnt.toNat)).getD 0, (s.hallD f.ctxHall).hfree,
    (s.recordOf f).elim 0 s.heldRef].map (BitVec.ofNat 64)

/-! Returning from a fault (R450) -/

/-- Frees the log slot of a handled record and lets the next waiting record be written (R435). -/
def State.freeRec (s : State) (r : Rec) : State :=
  let s := { s with recs := s.recs.filter (·.rid != r.rid) }
  let s := match r.logSlot with
    | some k => s.modCtx r.ctx fun c => { c with logUsed := c.logUsed.filter (· != k) }
    | none => s
  s.flushRecs r.ctx 1

/-- A held frame becomes ready again where it stood (R450), behind the writes of the frame `by_` that handled its record: the
second change of R472 begins before `sw` waits for it (R472, R474; DEDUCED, log 35). -/
def State.unhold (s : State) (fid by_ : Nat) : State :=
  s.modFrame fid fun f => { f with held := false, since := (s.stallD f.stall).cyc, resumer := some (by_, s.nextId) }

end Sys2Proof.Machine
end

