-- ==== Sys2Proof/Machine/Cache.lean ====
section
/-! DEFINITION. The shared cache (R378, R384, R388, R398): the class tables, the tokens of cache classes, and the lines that each slice
holds, with their allocation and replacement. -/
namespace Sys2Proof.Machine

/-! Class tables (R384) -/

/-- The class-table entry of a slice; one that nothing has changed is as reset. -/
def State.classAt (s : State) (hall slice cls : Nat) : ClassEntry :=
  (s.classes.find? fun e => e.hall == hall && e.slice == slice && e.cls == cls).getD
    { hall := hall, slice := slice, cls := cls, ways := 0xFFFF, rate := 0, bucket := 0, served := 0, last := 0, pending := none }
def State.putClass (s : State) (e : ClassEntry) : State :=
  { s with classes := e :: s.classes.filter fun x => !(x.hall == e.hall && x.slice == e.slice && x.cls == e.cls) }

/-! Tree pseudo-LRU over sixteen ways (R398). Bit `n` of the tree, for node `n` of 1 to 15, is set when the victim lies on the side of
the higher ways. -/

/-- The victim's way below node `n`, whose `2 ^ depth` ways begin at `lo`: a side with no way of `ok` is passed over. -/
def plruWay (ok : Nat → Bool) (tree : Nat) : Nat → Nat → Nat → Nat
  | 0, _, lo => lo
  | depth + 1, n, lo =>
    let half := 2 ^ depth
    let any := fun a => (List.range half).any fun k => ok (a + k)
    if (if tree.testBit n then any (lo + half) else !any lo) then plruWay ok tree depth (2 * n + 1) (lo + half)
    else plruWay ok tree depth (2 * n) lo

/-- A way is used: every node above it points to its other side. -/
def plruTouch (tree way : Nat) : Nat :=
  (List.range 4).foldl (fun t k =>
    let n := (16 + way) / 2 ^ (k + 1)
    if way.testBit k then (if t.testBit n then t - 2 ^ n else t) else t ||| 2 ^ n) tree

/-! Sets and lines (R388, R398) -/

/-- Ways of a slice that are scratch ways: from phase 2 of a change on, as many as it leaves (R400, R403). -/
def State.scratchWays (s : State) (hall slice : Nat) : Nat :=
  match s.pairs.find? fun p => p.hall == hall && p.pair == slice / 2 with
  | some p => if p.stt = 2 then p.target else p.cur
  | none => 0

/-- The ways in which a class may allocate at a slice (R398). -/
def State.waysFor (s : State) (hall slice cls : Nat) (way : Nat) : Bool :=
  (s.classAt hall slice cls).ways.getLsbD way && decide (way + s.scratchWays hall slice < 16)

/-- The set of an address at its home slice; one that holds nothing is as reset. -/
def State.setAt (s : State) (pa : Nat) : CacheSet :=
  let h := s.homeOf pa
  (s.l2.find? fun x => x.hall == h.1 && x.slice == h.2 && x.set == setOf pa).getD
    { hall := h.1, slice := h.2, set := setOf pa, plru := 0, lines := [] }
def State.putSet (s : State) (x : CacheSet) : State :=
  { s with l2 := x :: s.l2.filter fun y => !(y.hall == x.hall && y.slice == x.slice && y.set == x.set) }

/-- The address is cached, and its line is in no way of its set. -/
def State.missesL2 (s : State) (pa : Nat) : Bool := paKind pa == .dram && !(s.setAt pa).lines.any (·.line == pa / 256)

/-- A set once its line `line` has been looked up for a class that may allocate in the ways `ok`: a hit uses the way; a miss takes an
empty way, else the victim's, and where there is none it allocates nothing (R398). -/
def CacheSet.access (x : CacheSet) (ok : Nat → Bool) (line : Nat) (wr : Bool) : CacheSet :=
  match x.lines.find? (·.line == line) with
  | some l => { x with plru := plruTouch x.plru l.way,
                       lines := x.lines.map fun y => if y.line == line then { y with dirty := y.dirty || wr } else y }
  | none =>
    if !(List.range 16).any ok then x
    else
      let way := ((List.range 16).find? fun w => ok w && !x.lines.any (·.way == w)).getD (plruWay ok x.plru 4 1 0)
      { x with plru := plruTouch x.plru way, lines := ⟨way, line, wr⟩ :: x.lines.filter (·.way != way) }

/-- A sector request is served at its home slice: it takes a token of its class when the bucket holds one (R378), and a DRAM address is
looked up among the slice's lines (R398; host-window and scratch addresses are in no cache way, R388, R400). -/
def State.serve1 (s : State) (cls : Nat) (wr : Bool) (pa : Nat) : State :=
  let h := s.homeOf pa
  let e := s.classAt h.1 h.2 cls
  let t := s.putClass { e with served := e.served + 1, bucket := e.bucket - 1 }
  if paKind pa == .dram then t.putSet ((s.setAt pa).access (s.waysFor h.1 h.2 cls) (pa / 256) wr) else t

/-- One request of a context from a stall: its sectors are served, and it counts among the misses where a line of it was absent
(R378, R398, R431 L2_MISS). -/
def State.served (s : State) (st ctx : Nat) (pas : List Nat) (wr : Bool) : State :=
  let cls := ((s.ctx? ctx).map (·.params.cls)).getD 0
  let s := if pas.any s.missesL2 then s.count st 10 1 else s
  (((pas.filter fun p => paKind p != .control).map (· / 128)).eraseDups).foldl (fun s x => s.serve1 cls wr (x * 128)) s

/-- A translation that a stall's port has used stands in its micro-TLB: a hall-TLB entry fills it, and one that no cached source held is
walked and fills both (R390). -/
def State.translated (s : State) (st ctx va : Nat) : State :=
  let x := s.stallD st
  if x.ranges.any (·.covers va) || x.utlb.any (·.covers ctx va) then s
  else match (s.hallD (hallOfStall st)).tlb.find? (·.covers ctx va) with
    | some t => s.modStall st fun x => { x with utlb := (t :: x.utlb).take 64 }
    | none =>
      match s.walkVa ctx va with
      | .ok l => (s.served st ctx (s.walkReads ctx va) false).fillTlb st ctx va l
      | .error _ => s.served st ctx (s.walkReads ctx va) false

/-- Lines of some sets leave the cache: a dirty line's bytes are in DRAM then (R403, R462). -/
def State.dropLines (s : State) (p : CacheSet → CacheLine → Bool) : State :=
  { s with l2 := s.l2.map fun x => { x with lines := x.lines.filter fun l => !p x l } }

end Sys2Proof.Machine
end

