-- ==== Sys2Proof/Machine/Operands.lean ====
section
/-! DEFINITION. How an instruction of a mapped block meets its operands: the current slot, predication (R43), delivery of results
to targets (R53), recording of effects, waits, faults (R46-R48), and the address and heat forms of format M (R38, R56). -/
namespace Sys2Proof.Machine

/-- The block, frame and slot of the executing instruction. -/
structure Cx where
  b    : Block
  f    : Frame
  slot : Nat
  deriving DecidableEq, Repr, Inhabited

def Cx.sl (c : Cx) : Slot := c.b.slotD c.slot
/-- Left, right and third operands (R42). -/
def Cx.l (c : Cx) : W64 := c.sl.l.getD 0
def Cx.r (c : Cx) : W64 := c.sl.r.getD 0
def Cx.p (c : Cx) : W64 := c.sl.p.getD 0
def Cx.org (c : Cx) : Org := c.f.org c.b.addr c.slot c.b.iter c.b.keep
/-- MSQ of an LSID of the current block (R212). -/
def Cx.msq (c : Cx) (lsid : BitVec 5) : Nat := msqOf c.f.bsq lsid.toNat

def State.cx? (s : State) : Option Cx :=
  match s.cur with
  | none => none
  | some (bid, slot) =>
    match s.block? bid with
    | none => none
    | some b =>
      match s.frame? b.fid with
      | none => none
      | some f => some ⟨b, f, slot⟩

end Sys2Proof.Machine
namespace Sys2Proof
open Machine

/-- Predicated off under PM 01 or 10 (R43). -/
def Hd.off (h : Hd) (c : Cx) : Bool :=
  match h.pm with
  | .always => false
  | .onTrue => !c.p.getLsbD 0
  | .onFalse => c.p.getLsbD 0

end Sys2Proof
namespace Sys2Proof.Machine

/-- The slot has fired; `ex` says whether it executed. -/
def Block.markFired (b : Block) (n : Nat) (ex : Bool) : Block :=
  { b with slots := b.slots.modify n fun x => { x with fired := true },
           waits := b.waits.filter (·.1 != n), ninstr := if ex then b.ninstr + 1 else b.ninstr }

/-- A predicated-off instruction consumes its tokens and has no effect (R43). -/
def State.predOff (s : State) (c : Cx) : State := s.modBlock c.b.bid fun b => b.markFired c.slot false

/-- The instruction has executed (R43; counter INSTR of R431). -/
def State.done (s : State) (c : Cx) : State :=
  (s.modBlock c.b.bid fun b => b.markFired c.slot true).count c.f.stall 3 1

/-- The frame's previous block as an origin (R429). -/
def Frame.prevArrival (f : Frame) (edge : Nat) : Arrival := ⟨edge, f.fn, f.bsq - 1, f.stall, false⟩

/-- The blocks of its frame before a speculative block, the nearest first; none before another (R370). -/
def State.before (s : State) : Nat → Block → List Block
  | 0, _ => []
  | n + 1, b =>
    match b.pred.bind s.block? with
    | none => []
    | some p => p :: s.before n p
def State.preds (s : State) (b : Block) : List Block := s.before 4 b
/-- BSQ of a block in flight (R25). -/
def State.bsqOf (s : State) (b : Block) (f : Frame) : W32 := f.bsq + BitVec.ofNat 32 (s.preds b).length

/-- The result token of slot `n` leaves for each named target (R53, R368). -/
def targetsOf (n : Nat) (h : Hd) (v : W64) (a : Arrival) : List Transit :=
  (h.t0.toList ++ h.t1.toList).map fun t => ⟨n, t.slot.toNat, t.fld, v, a⟩

def State.sendToken (s : State) (bid n : Nat) (h : Hd) (v : W64) (a : Arrival) : State :=
  s.modBlock bid fun b => { b with transit := b.transit ++ targetsOf n h v a }

/-- Executes with a result: the slot has fired and its token is on its way. -/
def State.deliver (s : State) (c : Cx) (h : Hd) (v : W64) : State :=
  (s.done c).sendToken c.b.bid c.slot h v ({ c.f with bsq := s.bsqOf c.b c.f }.prevArrival 0)

/-- As `deliver`, with the edge and origin of what ended the wait (R429). -/
def State.deliverFrom (s : State) (c : Cx) (h : Hd) (v : W64) (a : Arrival) : State := (s.done c).sendToken c.b.bid c.slot h v a

/-- Executes with an effect to apply at commit (R46). -/
def State.effect (s : State) (c : Cx) (e : Effect) : State :=
  (s.done c).modBlock c.b.bid fun b => { b with effs := b.effs ++ [(c.slot, e)] }

/-- The instruction waits: its block is parked while nothing else of it can proceed (R48). -/
def State.waitOn (s : State) (c : Cx) (w : Wait) : State :=
  s.modBlock c.b.bid fun b => { b with waits := (c.slot, w) :: b.waits.filter (·.1 != c.slot) }

/-- The instruction faults its block (R46, R434). -/
def State.faultAt (s : State) (c : Cx) (i : FaultInfo) : State := s.blockFault c.b.bid c.slot i

/-- Runs an instruction word: predication is one rule for all of them. -/
def State.runWord (s : State) (h : Hd) (k : Cx → State) : Out :=
  match s.cx? with
  | none => .fault .noCurrentBlock
  | some c => .next (if h.off c then s.predOff c else k c)

/-- An S-format instruction or a hint, which has no predicate (R58, R62). -/
def State.runBare (s : State) (k : Cx → State) : Out :=
  match s.cx? with
  | none => .fault .noCurrentBlock
  | some c => .next (k c)

/-! Masks (R46, R47): a second writer of one register, LSID or exit is BLOCK_FORM -/

def blockForm (sub : Nat) : FaultInfo := { cls := .blockForm, extra := BitVec.ofNat 64 sub }

/-- A GWR or NULL satisfies its WMASK bit (R46, R139). -/
def State.satisfyReg (s : State) (c : Cx) (reg : BitVec 5) (v : Option W64) : State :=
  if c.b.gws.any (·.1 == reg.toNat) then s.faultAt c (blockForm 2)
  else (s.done c).modBlock c.b.bid fun b => { b with gws := b.gws ++ [(reg.toNat, c.slot, v)] }

/-- A memory instruction or MNULL satisfies its MMASK bit; the continuation goes on unless that is a breach (R46, R47). -/
def State.satisfyLsid (s : State) (c : Cx) (lsid : BitVec 5) (k : State → State) : State :=
  if c.b.lsids.any fun e => e.1 == lsid.toNat && e.2 != c.slot then s.faultAt c (blockForm 3)
  else if c.b.lsids.any fun e => e.1 == lsid.toNat then k s
  else k (s.modBlock c.b.bid fun b => { b with lsids := b.lsids ++ [(lsid.toNat, c.slot)] })

/-- An exit fires (R44, R47). -/
def State.fireExit (s : State) (c : Cx) (e : Exit) : State :=
  if !c.b.exits.isEmpty then s.faultAt c (blockForm 4)
  else (s.done c).modBlock c.b.bid fun b => { b with exits := b.exits ++ [(c.slot, e)] }

/-- The check of a successor taken from a token or a register (R137). -/
def successorFault (a : W64) : Option FaultInfo :=
  if bits a.toNat 63 56 != 0 then some { cls := .address, va := some (a.toNat % 2 ^ 56) }
  else if bits a.toNat 3 0 != 0 then some { cls := .fetchAlign, va := a.toNat }
  else none

/-! Format M (R38, R55, R56) -/

end Sys2Proof.Machine
namespace Sys2Proof
open Machine

def Wid.bytes : Wid → Nat
  | .ub | .sb => 1
  | .uh | .sh => 2
  | .uw | .sw => 4
  | .d => 8

def Wid.signed : Wid → Bool
  | .sb | .sh | .sw => true
  | _ => false

/-- Effective address: base + sext(OFS, 21), modulo 2^64 (R56). -/
def MF.ea (m : MF) (base : W64) : W64 := base + m.ofs.signExtend 64

/-- The address base: the left operand, or the right one under explicit heat mode (R56). -/
def MF.base (m : MF) (c : Cx) : W64 := if m.hm = .explicit then c.r else c.l
/-- The data operand of a store or AMO (R56). -/
def MF.data (m : MF) (c : Cx) : W64 := if m.hm = .explicit then c.p else c.r
/-- The heat of the access (R38); an explicit heat is the left operand's low 16 bits. -/
def MF.heat (m : MF) (c : Cx) : Nat :=
  match m.hm with
  | .own => c.f.ht
  | .base => 0
  | .explicit => c.l.toNat % 65536

def Ord.isAcq : Ord → Bool
  | .acq | .acqRel => true
  | _ => false
def Ord.isRel : Ord → Bool
  | .rel | .acqRel => true
  | _ => false

end Sys2Proof
namespace Sys2Proof.Machine

/-- A value of `n` bytes as a token (R238). -/
def extendValue (signed : Bool) (n : Nat) (v : Nat) : W64 :=
  if signed then BitVec.ofInt 64 (sext v (8 * n)) else BitVec.ofNat 64 (v % 2 ^ (8 * n))

/-! Frame control registers (R26-R29) -/

def fcsrRm (f : BitVec 9) : BitVec 3 := f.extractLsb' 0 3
def ppA (p : BitVec 13) : Nat := (p.extractLsb' 0 5).toNat
def ppB (p : BitVec 13) : Nat := (p.extractLsb' 8 5).toNat
def spcFmt (p : BitVec 18) : Nat := (p.extractLsb' 16 2).toNat
def spcAdj (p : BitVec 18) : Nat := (p.extractLsb' 0 11).toNat

end Sys2Proof.Machine
end

