-- ==== Sys2Proof/Machine/Flags.lean ====
section
/-! DEFINITION. Flags: the IEEE flags of one operation, and how they enter FCSR (R27, R145), an AFL (R105) and SPF (R200). -/
namespace Sys2Proof.Machine

/-- Flags raised by an arithmetic operation (R83, R105). `sat` is the saturation of an integer result. -/
structure FlagSet where
  nv : Bool := false
  dz : Bool := false
  of_ : Bool := false
  uf : Bool := false
  nx : Bool := false
  sat : Bool := false
  deriving DecidableEq, Repr, Inhabited

def FlagSet.none : FlagSet := {}
def FlagSet.invalid : FlagSet := { nv := true }
def FlagSet.inexact : FlagSet := { nx := true }

def FlagSet.join (a b : FlagSet) : FlagSet :=
  ⟨a.nv || b.nv, a.dz || b.dz, a.of_ || b.of_, a.uf || b.uf, a.nx || b.nx, a.sat || b.sat⟩

def FlagSet.joinAll (l : List FlagSet) : FlagSet := l.foldl .join .none

/-- FCSR flags NV, DZ, OF, UF, NX, in the order of FCSR[8:4] (R28). -/
def FlagSet.fcsr (f : FlagSet) : BitVec 5 :=
  BitVec.ofBool f.nv ++ BitVec.ofBool f.dz ++ BitVec.ofBool f.of_ ++ BitVec.ofBool f.uf ++ BitVec.ofBool f.nx

/-- AFL bits OVF, SAT, INV, INX, UNF, by the mapping of R105: NV to INV, DZ and OF to OVF, UF to UNF, NX to INX. -/
def FlagSet.afl (f : FlagSet) : BitVec 5 :=
  BitVec.ofBool (f.dz || f.of_) ++ BitVec.ofBool f.sat ++ BitVec.ofBool f.nv ++ BitVec.ofBool f.nx ++ BitVec.ofBool f.uf

/-- SPF bits INV, OVF, UNF, INX (R28, R200). -/
def FlagSet.spf (f : FlagSet) : BitVec 4 :=
  BitVec.ofBool f.nv ++ BitVec.ofBool (f.dz || f.of_) ++ BitVec.ofBool f.uf ++ BitVec.ofBool f.nx

/-- ORs flags into FCSR[8:4] (R27). -/
def orFcsr (fcsr : BitVec 9) (fl : BitVec 5) : BitVec 9 := fcsr ||| (fl ++ (0 : BitVec 4))

/-- The flags of a scalar floating-point instruction stay with its block until commit (R104, R145). -/
def State.raiseScalar (s : State) (c : Cx) (fl : FlagSet) : State :=
  s.modBlock c.b.bid fun b => { b with fflags := b.fflags ||| fl.fcsr }

end Sys2Proof.Machine
end

