-- ==== Sys2Proof/Machine/Tiles.lean ====
section
/-! DEFINITION. Tiles: geometry in the stall store (R31, R34, R88, R103), byte images, the tiles an instruction names, rings
(R265-R267), stall order (R262) and the folds of R106. -/
namespace Sys2Proof

/-- Tiles that an engine message, porter job or tile-table operation reads (R106, R164 and each instruction's rule). -/
def Instr.srcTiles : Instr → List Nat
  | .tfree _ ta => [ta.toNat]
  | .tcopy _ ta _ _ => [ta.toNat]
  | .pst _ ta _ _ | .psct _ ta _ _ | .prdc _ ta _ _ | .pcmp _ ta _ _ => [ta.toNat]
  | .pstrmOut _ tc _ => [tc.toNat]
  | .pmmaI _ p | .pmmaS _ p | .pmmaX _ p | .pmvI _ p | .pmvS _ p | .pmvX _ p => [p.ta.toNat, p.tb.toNat]
  | .pwmap _ ta _ _ => [ta.toNat]
  | .spld _ ta _ => [ta.toNat]
  | .vadd _ v | .vsub _ v | .vmul _ v | .vfma _ v | .vfms _ v | .vmin _ v | .vmax _ v | .vdiv _ v => [v.ta.toNat, v.tb.toNat]
  | .vabs _ v | .vneg _ v | .vrcp _ v | .vrsq _ v | .vsqrt _ v | .vexp2 _ v | .vlog2 _ v | .vcvt _ v => [v.ta.toNat]
  | .vqnt _ v _ => [v.ta.toNat]
  | .vdqnt _ v => [v.ta.toNat]
  | .vscl _ v _ => [v.ta.toNat, v.tb.toNat]
  | .vred _ v _ _ | .vscan _ v _ _ => [v.ta.toNat]
  | .vbcast _ src _ _ => src.toList.map (·.toNat)
  | .vperm _ v | .vsel _ v | .vcmp _ v _ | .vand _ v | .vor _ v | .vxor _ v => [v.ta.toNat, v.tb.toNat]
  | .vshl _ v cnt | .vshr _ v cnt _ => v.ta.toNat :: (match cnt with | .imm _ => [] | .tile tb => [tb.toNat])
  | .vpopc _ v => [v.ta.toNat]
  | .visect _ v => [v.ta.toNat, v.tb.toNat]
  | .vpfx _ v rank => v.ta.toNat :: rank.toList.map (·.toNat)
  | .vgat _ v _ | .vsct _ v | .vdot8 _ v => [v.ta.toNat, v.tb.toNat]
  | .xsend _ ta _ => [ta.toNat]
  | _ => []

/-- Tiles that it writes. -/
def Instr.dstTiles : Instr → List Nat
  | .tdef _ tc | .tsetE _ tc | .tsetLnk _ tc | .tsetExp _ tc => [tc.toNat]
  | .tring _ ta tc n => tc.toNat :: (if n = 0 then [] else (List.range (n.toNat + 1)).map (ta.toNat + ·))
  | .tzero _ tc _ => [tc.toNat]
  | .tcopy _ _ tc _ => [tc.toNat]
  | .pld _ tc _ _ | .pgat _ tc _ _ | .pxpd _ tc _ _ => [tc.toNat]
  | .pstrmIn _ tc _ => [tc.toNat]
  | .pbar _ tile => tile.toList.map (·.toNat)
  | .pmmaI _ p | .pmmaS _ p | .pmmaX _ p | .pmvI _ p | .pmvS _ p | .pmvX _ p => [p.tc.toNat]
  | .pzacc _ tc _ _ => [tc.toNat]
  | .pwmap _ _ tc _ => [tc.toNat]
  | .spst _ tc _ => [tc.toNat]
  | .vadd _ v | .vsub _ v | .vmul _ v | .vfma _ v | .vfms _ v | .vmin _ v | .vmax _ v | .vdiv _ v => [v.tc.toNat]
  | .vabs _ v | .vneg _ v | .vrcp _ v | .vrsq _ v | .vsqrt _ v | .vexp2 _ v | .vlog2 _ v | .vcvt _ v => [v.tc.toNat]
  | .vqnt _ v _ => [v.tc.toNat]
  | .vdqnt _ v => [v.tc.toNat]
  | .vscl _ v _ => [v.tc.toNat]
  | .vred _ v _ _ | .vscan _ v _ _ => [v.tc.toNat]
  | .vbcast _ _ tc _ => [tc.toNat]
  | .vperm _ v | .vsel _ v | .vcmp _ v _ | .vand _ v | .vor _ v | .vxor _ v => [v.tc.toNat]
  | .vshl _ v _ | .vshr _ v _ _ => [v.tc.toNat]
  | .vpopc _ v => [v.tc.toNat]
  | .viota _ tc _ => [tc.toNat]
  | .visect _ v => [v.tc.toNat]
  | .vpfx _ v _ => [v.tc.toNat]
  | .vgat _ v _ | .vsct _ v | .vdot8 _ v => [v.tc.toNat]
  | .xrecv _ tc _ => [tc.toNat]
  | _ => []

/-- Accumulating and merging forms: the destination must be READY (R128, R157). -/
def Instr.merges : Instr → Bool
  | .pmmaI _ p | .pmmaS _ p | .pmmaX _ p | .pmvI _ p | .pmvS _ p | .pmvX _ p => p.acc
  | .vfma _ _ | .vfms _ _ | .vsel _ _ | .vsct _ _ => true
  | _ => false

/-- Messages and jobs that read or write the tiles linked from their planar tiles (R111, R173, R174, R288). -/
def Instr.usesLinks : Instr → Bool
  | .pmmaI _ _ | .pmmaS _ _ | .pmvI _ _ | .pmvS _ _ | .vqnt _ _ _ | .vdqnt _ _ | .pld _ _ _ _ => true
  | _ => false

/-- The inbox an instruction's message enters (R263). -/
inductive Inbox where
  | pa | vec | spe | porter | tile
  deriving DecidableEq, Repr, Inhabited

def Instr.inbox? : Instr → Option Inbox
  | .pmmaI _ _ | .pmmaS _ _ | .pmmaX _ _ | .pmvI _ _ | .pmvS _ _ | .pmvX _ _ | .pzacc _ _ _ _ | .pwmap _ _ _ _ => some .pa
  | .spt _ _ | .spd _ _ | .spld _ _ _ | .spst _ _ _ | .spz _ _ => some .spe
  | .tdef _ _ | .tfree _ _ | .tsetE _ _ | .tsetLnk _ _ | .tsetExp _ _ | .tring _ _ _ _ => some .tile
  | .tzero _ _ _ | .tcopy _ _ _ _ | .pld _ _ _ _ | .pst _ _ _ _ | .pcpy _ _ | .pgat _ _ _ _ | .psct _ _ _ _ | .prdc _ _ _ _
  | .pxpd _ _ _ _ | .pcmp _ _ _ _ | .pstrmIn _ _ _ | .pstrmOut _ _ _ | .pbar _ _ | .xsend _ _ _ | .xrecv _ _ _ => some .porter
  | .vadd _ _ | .vsub _ _ | .vmul _ _ | .vfma _ _ | .vfms _ _ | .vmin _ _ | .vmax _ _ | .vabs _ _ | .vneg _ _ | .vrcp _ _
  | .vrsq _ _ | .vdiv _ _ | .vsqrt _ _ | .vexp2 _ _ | .vlog2 _ _ | .vcvt _ _ | .vqnt _ _ _ | .vdqnt _ _ | .vscl _ _ _
  | .vred _ _ _ _ | .vscan _ _ _ _ | .vbcast _ _ _ _ | .vperm _ _ | .vsel _ _ | .vcmp _ _ _ | .vand _ _ | .vor _ _
  | .vxor _ _ | .vshl _ _ _ | .vshr _ _ _ _ | .vpopc _ _ | .viota _ _ _ | .visect _ _ | .vpfx _ _ _ | .vgat _ _ _
  | .vsct _ _ | .vdot8 _ _ => some .vec
  | _ => none

/-- Tiles whose AFL the message folds into its frame's AF (R106, R122, R163): those it reads, drains or frees; PSTRM folds
nothing (R294), TDEF folds the old AFL (R280). -/
def Instr.foldTiles : Instr → List Nat
  | .pstrmOut _ _ _ => []
  | .tdef _ tc => [tc.toNat]
  | i => i.srcTiles

end Sys2Proof
namespace Sys2Proof.Machine

/-! Geometry -/

/-- Format codes of R31. -/
def fmtLayWord (fmt : Nat) : Option Bool := if fmt ≤ 3 then some false else if fmt ≤ 13 then some true else none

/-- Bits of an element of a WORD format (R103). -/
def elemBits : Nat → Nat
  | 5 | 6 => 16
  | 7 | 8 => 8
  | 9 => 4
  | 12 => 64
  | _ => 32

/-- Stall-store rows per tile row of a WORD format (R103). -/
def rowsPerRow (fmt : Nat) : Nat := elemBits fmt / 4

def Tile.gr (t : Tile) : Nat := t.shape / 64 + 1
def Tile.gc (t : Tile) : Nat := t.shape % 64 + 1
def Tile.groups (t : Tile) : Nat := t.gr * t.gc
def Tile.width (t : Tile) : Nat := t.wid + 1
/-- Rows of a WORD tile (R30). -/
def Tile.rows (t : Tile) : Nat := t.shape + 1
/-- Stall-store rows of the tile's extent (R34). -/
def Tile.storeRows (t : Tile) : Nat := if t.lay then t.rows * rowsPerRow t.fmt else t.groups * t.width
/-- Bytes of the tile's image. -/
def Tile.bytes (t : Tile) : Nat := 128 * t.storeRows
/-- Elements of a WORD tile. -/
def Tile.elems (t : Tile) : Nat := 256 * t.rows

/-- The tile-store banks in ascending order (R34). -/
def tileBanks (roles : List Nat) : List Nat := (List.range 32).filter fun b => roles.getD b 0 == 0
/-- ℓ of a bank and row (R34). -/
def ellOf (roles : List Nat) (bank row : Nat) : Nat :=
  let bs := tileBanks roles
  row * bs.length + bs.idxOf bank
/-- The stall-store address of byte `o` of row ℓ (R32, R34). -/
def ellAddr (roles : List Nat) (ell o : Nat) : Nat :=
  let bs := tileBanks roles
  bs.getD (ell % bs.length) 0 * 16384 + ell / bs.length * 128 + o
def Tile.ell (t : Tile) (roles : List Nat) : Nat := ellOf roles t.bank t.row
/-- The tile lies in the tile store (R32, R34). -/
def Tile.inStore (t : Tile) (roles : List Nat) : Bool :=
  (tileBanks roles).contains t.bank && decide (t.ell roles + t.storeRows ≤ 128 * (tileBanks roles).length)

/-- The byte image of a tile (R103): `n` bytes from byte `o`. -/
def Stall.tileBytes (x : Stall) (t : Tile) (o n : Nat) : List Byte :=
  let e := t.ell x.roles
  (List.range n).map fun i => spGet 0 x.store (ellAddr x.roles (e + (o + i) / 128) ((o + i) % 128))
def Stall.image (x : Stall) (t : Tile) : List Byte := x.tileBytes t 0 t.bytes

/-- Writes bytes of a tile's image from byte `o` on; the rows' pages become dirty (R455). -/
def Stall.putTile (x : Stall) (t : Tile) (o : Nat) : List Byte → Stall
  | [] => x
  | b :: bs =>
    let ell := t.ell x.roles + o / 128
    ({ x with store := spPut 0 x.store (ellAddr x.roles ell (o % 128)) b,
              dirty := x.dirty.set (ell / 32) true }).putTile t (o + 1) bs

/-- Bits [47:0] and above of the descriptor word (R30). -/
def TSt.code : TSt → Nat
  | .empty => 0
  | .filling => 1
  | .ready => 2
  | .draining => 3
def TSt.ofCode : Nat → TSt
  | 1 => .filling
  | 2 => .ready
  | 3 => .draining
  | _ => .empty
def b2n (b : Bool) : Nat := if b then 1 else 0
/-- The 128-bit descriptor (R30). -/
def Tile.pack (t : Tile) : Nat :=
  t.row % 128 + t.bank % 32 * 2 ^ 7 + b2n t.lay * 2 ^ 12 + t.fmt % 16 * 2 ^ 13 + t.wid % 16 * 2 ^ 17 + t.shape % 4096 * 2 ^ 21 +
    t.st.code * 2 ^ 33 + b2n t.sc * 2 ^ 35 + t.scl % 64 * 2 ^ 36 + t.wml % 64 * 2 ^ 42 + b2n t.wmv * 2 ^ 48 +
    t.afl.toNat * 2 ^ 49 + t.exp % 2 ^ 20 * 2 ^ 54 + t.arr % 2 ^ 20 * 2 ^ 74 + t.rdrain % 16 * 2 ^ 94 + t.rfill % 16 * 2 ^ 98 +
    t.rcnt % 16 * 2 ^ 102 + t.rslot % 64 * 2 ^ 106 + t.nsq % 4096 * 2 ^ 112 + t.rch % 16 * 2 ^ 124
/-- The fields TDEF takes from its left operand (R280); the rest of the descriptor is at its reset value. -/
def Tile.ofDef (l : Nat) (exp : Nat) : Tile :=
  { Tile.reset with row := bits l 6 0, bank := bits l 11 7, lay := l.testBit 12, fmt := bits l 16 13, wid := bits l 20 17,
                    shape := bits l 32 21, sc := l.testBit 35, scl := bits l 41 36, wml := bits l 47 42, wmv := l.testBit 48,
                    exp := exp % 2 ^ 20 }

/-- What TDEF, a tile record and a binding refuse of a descriptor's format and placement (R31, R34, R87). -/
def Tile.defFault (t : Tile) (roles : List Nat) : Option Cls :=
  if fmtLayWord t.fmt != some t.lay then some .tileFormat
  else if t.fmt = 3 && t.wid = 0 then some .tileFormat
  else if t.wid != 0 && !(t.fmt = 0 || t.fmt = 1 || t.fmt = 3) then some .tileFormat
  else if !t.inStore roles then some .tileRange
  else none

/-! Tile pages (R455) -/

/-- The tile pages of a tile's extent. -/
def Stall.pagesOf (x : Stall) (t : Tile) : List Nat :=
  (List.range (t.storeRows / 32 + 2)).filterMap fun k =>
    let pg := t.ell x.roles / 32 + k
    if pg * 32 < t.ell x.roles + t.storeRows then some pg else none
/-- Every page of the tile is resident: an access need not wait for a refill. -/
def Stall.pagesIn (x : Stall) (t : Tile) : Bool := (x.pagesOf t).all fun k => x.resident.getD k true
/-- The first access pins the tile's pages. -/
def Stall.pin (x : Stall) (t : Tile) : Stall := { x with pinned := (x.pagesOf t).foldl (fun l k => l.set k true) x.pinned }

/-- A page comes whole from its backing's bytes, resident and pinned. -/
def Stall.fillPage (x : Stall) (page : Nat) (bs : List Byte) : Stall :=
  let y := (List.range 4096).foldl (fun (y : Stall) o =>
    let ell := page * 32 + o / 128
    if ell < 128 * (tileBanks x.roles).length then
      { y with store := spPut 0 y.store (ellAddr x.roles ell (o % 128)) (bs.getD o 0) } else y) x
  { y with resident := x.resident.set page true, pinned := x.pinned.set page true }
/-- A page of a stall's backing, as its context's tables reach it. -/
def State.backingPage (s : State) (st page : Nat) : List Byte :=
  match (s.stallD st).owner.bind s.ctx? with
  | some c => s.vaBytes c.num (c.backingVa st + page * 4096) 4096
  | none => []
/-- A page that is not resident is refilled from its backing. -/
def State.fillPage (s : State) (st page : Nat) : State :=
  if (s.stallD st).resident.getD page true then s else s.modStall st fun x => x.fillPage page (s.backingPage st page)
/-- The pages of tiles that are not resident are refilled. -/
def State.fillPages (s : State) (st : Nat) (ts : List Tile) : State :=
  (ts.flatMap (s.stallD st).pagesOf).foldl (fun s k => s.fillPage st k) s
/-- Bytes of a tile page: the rows of the tile store from 32·k on. -/
def Stall.pageBytes (x : Stall) (k : Nat) : List Byte :=
  (List.range 4096).map fun i => spGet 0 x.store (ellAddr x.roles (k * 32 + i / 128) (i % 128))
/-- Pages of a stall go to its backing. -/
def State.pagesOut (s : State) (st : Nat) (pages : List Nat) : State :=
  match (s.stallD st).owner.bind s.ctx? with
  | some c => pages.foldl (fun s k => s.vaPut c.num (c.backingVa st + k * 4096) ((s.stallD st).pageBytes k)) s
  | none => s
/-- Pages below row 128·T of the tile store. -/
def Stall.pagesUsed (x : Stall) : List Nat := (List.range 128).filter fun k => k * 32 < 128 * (tileBanks x.roles).length

/-! Rings (R265, R266) -/

def Stall.bound (x : Stall) (t : Nat) : Bool := 56 ≤ t && (x.tileD t).rcnt != 0
/-- The slots of a bound port. -/
def Stall.slotsOf (x : Stall) (t : Nat) : List Nat :=
  if x.bound t then (List.range ((x.tileD t).rcnt + 1)).map ((x.tileD t).rslot + ·) else []
/-- Ports whose ring holds a tile. -/
def Stall.inRing (x : Stall) (t : Nat) : Bool := (List.range 8).any fun k => (x.slotsOf (56 + k)).contains t
/-- The slot a source naming a port resolves to, and the slot a destination resolves to (R266). -/
def Stall.srcSlot (x : Stall) (t : Nat) : Nat := if x.bound t then (x.tileD t).rslot + (x.tileD t).rdrain else t
/-- A slot whose producer was abandoned after later slots had begun: it is filled next (R267). -/
def Stall.gap? (x : Stall) (t : Nat) : Option Nat :=
  let p := x.tileD t
  if !x.bound t then none
  else
    let n := p.rcnt + 1
    let idx := fun k => p.rslot + (p.rdrain + k) % n
    let begun := if p.rfill = p.rdrain then
        (if (List.range n).any fun k => (x.tileD (idx k)).st == .ready || (x.tileD (idx k)).st == .filling then n else 0)
      else (p.rfill + n - p.rdrain) % n
    ((List.range begun).map idx).find? fun d => (x.tileD d).st == .empty
def Stall.dstSlot (x : Stall) (t : Nat) : Nat :=
  if x.bound t then (x.gap? t).getD ((x.tileD t).rslot + (x.tileD t).rfill) else t
/-- The tile whose format and shape fields stand for a named tile: a slot of a bound port (R266). -/
def Stall.fieldTile (x : Stall) (t : Nat) : Tile := if x.bound t then x.tileD (x.tileD t).rslot else x.tileD t

/-- The next index of a ring. -/
def ringNext (k rcnt : Nat) : Nat := if k = rcnt then 0 else k + 1

/-- A tile returns to EMPTY by draining or abandonment: AFL, ARR and RCH are 0 (R124, R275). -/
def Tile.emptied (t : Tile) : Tile := { t with st := .empty, afl := 0, arr := 0, rch := 0, sides := [] }
/-- A consumed ring slot returns to EMPTY (R266, R267). -/
def Stall.drained (x : Stall) (t : Nat) : Stall := if (x.tileD t).st == .draining then x.modTile t Tile.emptied else x
/-- The destination of abandoned work: EMPTY, and RFILL moves back to a slot when no later one has begun (R267). -/
def Stall.unfill (x : Stall) (d : Nat) : Stall :=
  let x := x.modTile d Tile.emptied
  match ((List.range 8).map (56 + ·)).find? fun p => (x.slotsOf p).contains d with
  | some p => x.modTile p fun y => if y.rfill == ringNext (d - y.rslot) y.rcnt then { y with rfill := d - y.rslot } else y
  | none => x

/-- Takes the source: a ring slot moves to DRAINING and the port advances; another tile stays READY (R261, R266). -/
def Stall.takeSrc (x : Stall) (t : Nat) : Stall :=
  if x.bound t then
    (x.modTile (x.srcSlot t) fun y => { y with st := .draining }).modTile t
      fun y => { y with rdrain := ringNext y.rdrain y.rcnt }
  else x
/-- Takes the destination: it moves to FILLING and the port advances (R261, R266). -/
def Stall.takeDst (x : Stall) (t : Nat) : Stall :=
  let d := x.dstSlot t
  let b := x.bound t && (x.gap? t).isNone
  let x := x.modTile d fun y => { y with st := .filling }
  if b then x.modTile t fun y => { y with rfill := ringNext y.rfill y.rcnt } else x

/-- A running engine message writes the tile (R161). -/
def Stall.engineWrites (x : Stall) (d : Nat) : Bool :=
  (x.pa.toList.any fun r => r.tc == d) || (x.vec.toList.any fun r => r.outs.any fun o => o.1 == d) || x.spe.any fun r => r.tile == some d

/-! Stall order (R262) -/

def Msg.before (a b : Msg) : Bool := a.pos < b.pos || (a.pos == b.pos && a.org.slot < b.org.slot)

/-- Tiles linked by WML and SCL from the named planar tiles of a message that uses them (R90, R111, R173, R174, R288). -/
def Stall.linksOf (x : Stall) (i : Instr) : List Nat :=
  if !i.usesLinks then []
  else (i.srcTiles ++ i.dstTiles).flatMap fun n =>
    let t := x.fieldTile n
    if t.lay then [] else (if t.wmv && t.fmt != 2 then [t.wml] else []) ++ (if t.sc then [t.scl] else [])

/-- Every tile a message names, itself or by a link, with the slots of a bound port (R262). -/
def Stall.names (x : Stall) (m : Msg) : List Nat :=
  let n := m.i.srcTiles ++ m.i.dstTiles
  n ++ n.flatMap x.slotsOf ++ x.linksOf m.i

/-- Running work (started and not complete), and all work not complete. -/
def Stall.running (x : Stall) : List Msg :=
  x.pa.toList.map (·.m) ++ x.vec.toList.map (·.m) ++ x.spe.map (·.m) ++
    (x.jobs.filter fun j => j.st == .running || j.st == .paused).map (·.m)
def Stall.waitingWork (x : Stall) : List Msg :=
  x.inPa ++ x.inVec ++ x.inSpe ++ x.inPor ++ (x.jobs.filter fun j => j.st == .accepted || j.st == .held).map (·.m)
def Stall.allWork (x : Stall) : List Msg := x.running ++ x.waitingWork ++ x.tops

def Stall.meets (x : Stall) (a b : Msg) : Bool := (x.names a).any fun t => (x.names b).contains t

/-- No tile-table operation on a tile the message names stands before it (R262). -/
def Stall.topsClear (x : Stall) (m : Msg) : Bool := !x.tops.any fun o => o.before m && x.meets o m

/-- Work of a frame that names a tile and is not complete (R281). -/
def Stall.frameWork (x : Stall) (fid t : Nat) : Bool := x.allWork.any fun m => m.org.fid == fid && (x.names m).contains t
/-- Tile-table operations of a frame on a tile not yet applied (R262). -/
def Stall.frameTops (x : Stall) (fid t : Nat) : Bool := x.tops.any fun m => m.org.fid == fid && (x.names m).contains t

/-- The room an inbox has (R263). -/
def Stall.room (x : Stall) : Inbox → Nat
  | .pa => 32 - x.inPa.length
  | .vec => 32 - x.inVec.length
  | .spe => 128 - x.inSpe.length
  | .porter => 16 - x.inPor.length
  | .tile => 32 - x.tops.length

def Stall.enqueue (x : Stall) (m : Msg) : Stall :=
  match m.i.inbox? with
  | some .pa => { x with inPa := x.inPa ++ [m] }
  | some .vec => { x with inVec := x.inVec ++ [m] }
  | some .spe => { x with inSpe := x.inSpe ++ [m] }
  | some .porter => { x with inPor := x.inPor ++ [m] }
  | some .tile => { x with tops := x.tops ++ [m] }
  | none => x

/-- A fold takes its value: the AFL enters the frame's AF (R106). -/
def State.fold (s : State) (fid : Nat) (afl : BitVec 5) : State :=
  s.modFrame fid fun f => { f with af := f.af ||| afl, folds := f.folds - 1 }
/-- A fold whose message was abandoned before it started contributes nothing (R106). -/
def State.dropFold (s : State) (fid : Nat) : State := s.modFrame fid fun f => { f with folds := f.folds - 1 }

/-- An element of a WORD tile as raw bits (R103). -/
def Stall.elem (x : Stall) (t : Tile) (i : Nat) : Nat :=
  let n := elemBits t.fmt
  if n = 4 then ((x.tileBytes t (i / 2) 1).headD 0).toNat / (if i % 2 = 1 then 16 else 1) % 16
  else ofBytes (x.tileBytes t (i * (n / 8)) (n / 8))

/-- Pieces of `k` bytes, `n` of them. -/
def pieces (k : Nat) : Nat → List Byte → List (List Byte)
  | 0, _ => []
  | n + 1, l => l.take k :: pieces k n (l.drop k)
/-- Every element of a WORD tile image, by element size in bits. -/
def splitElems (n : Nat) (img : List Byte) : List Nat :=
  if n = 4 then img.flatMap fun b => [b.toNat % 16, b.toNat / 16]
  else (pieces (n / 8) (img.length / (n / 8)) img).map ofBytes
/-- The bytes of elements. -/
def joinElems (n : Nat) : List Nat → List Byte
  | [] => []
  | a :: l =>
    if n = 4 then
      match l with
      | [] => [BitVec.ofNat 8 (a % 16)]
      | b :: l => BitVec.ofNat 8 (a % 16 + b % 16 * 16) :: joinElems n l
    else bytesLE a (n / 8) ++ joinElems n l
def Stall.elems (x : Stall) (t : Tile) : List Nat := splitElems (elemBits t.fmt) (x.image t)

end Sys2Proof.Machine
end

