-- ==== Sys2Proof/Machine/Blocks.lean ====
section
/-! DEFINITION. Blocks as a whole: the breaches found at mapping (R61-R64, R243, R449, R483), which slots may fire (R42, R46),
what a waiting instruction waits for (R48), completeness and quiescence, and parking. -/
namespace Sys2Proof

/-- The LSID of a format M instruction (R212, R236). -/
def Instr.lsid? : Instr → Option (BitVec 5)
  | .mnull _ l => some l
  | .ld _ m | .st _ m | .ldh _ m | .lds _ m | .pref _ m | .amoAdd _ m | .amoAnd _ m | .amoOr _ m | .amoXor _ m
  | .amoSwap _ m | .amoMin _ m | .amoMax _ m | .cas _ m | .fence _ m | .stmc _ m | .hdInit _ m | .hdArr _ m | .hdWait _ m
  | .hdTest _ m | .hdXpct _ m | .fget _ m | .fset _ m => some m.lsid
  | _ => none

/-- The scope named by the SCP field of a memory, future or hurdle operation (R55, R222); SYS for others. -/
def Instr.scope : Instr → Scope
  | .ld _ m | .ldh _ m | .lds _ m | .st _ m | .stmc _ m | .fence _ m | .amoAdd _ m | .amoAnd _ m | .amoOr _ m | .amoXor _ m | .amoSwap _ m
  | .amoMin _ m | .amoMax _ m | .cas _ m | .hdInit _ m | .hdArr _ m | .hdWait _ m | .hdTest _ m | .hdXpct _ m | .fget _ m | .fset _ m => m.scp
  | _ => .sys

/-- Scopes from the narrowest on (R222). -/
def Scope.level : Scope → Nat
  | .frame => 0
  | .stall => 1
  | .hall => 2
  | .pkg => 3
  | .sys => 4

/-- The register a GWR or NULL satisfies (R46). -/
def Instr.wreg? : Instr → Option (BitVec 5)
  | .gwr _ r | .null _ r => some r
  | _ => none

def Instr.isAtomic : Instr → Bool
  | .amoAdd _ _ | .amoAnd _ _ | .amoOr _ _ | .amoXor _ _ | .amoSwap _ _ | .amoMin _ _ | .amoMax _ _ | .cas _ _ => true
  | _ => false

/-- What may not share a block with an AMO or CAS (R243). -/
def Instr.barsAtomic : Instr → Bool
  | .fget _ _ | .hdWait _ _ | .htNew _ | .htEnd _ | .lwait _ | .rdwait _ | .rdwaitF _ | .xrecv _ _ _ | .spfence _ => true
  | .csrr _ n | .csrw _ n => n == 5 || n == 7
  | _ => false

def Instr.isExit : Instr → Bool
  | .bro _ _ _ | .bri _ _ | .call _ _ _ | .ret _ _ | .fend _ | .eret _ | .eretEnd _ | .eretRedir _ => true
  | _ => false

def Instr.isHint : Instr → Bool
  | .hint _ => true
  | _ => false

/-- What a speculative block may do before it is confirmed (R370); everything else waits. A CSRR is of a register that only a CSRW or
PPSET of the blocks before could change. -/
def Instr.specOk : Instr → Bool
  | .csrr _ n => [0, 2, 3, 6, 8, 9].contains n.toNat
  | .ld _ _ | .ldh _ _ | .lds _ _ | .pref _ _ | .fence _ _ | .bri _ _ | .ret _ _ | .fadd _ | .fsub _ | .fmul _ | .ffma _ | .fdiv _
  | .fsqrt _ | .fmin _ | .fmax _ | .ftst _ _ | .fclass _ | .fsgn _ _ | .fcvt _ _ _ | .frnd _ _
  | .bro _ _ _ | .call _ _ _ | .fend _ | .iter _ | .null _ _ | .mnull _ _ | .grd _ _ | .gwr _ _ | .movi _ _ | .movhi _ _
  | .mov _ | .sel _ | .tst _ _ | .nop _ | .add _ _ | .sub _ _ | .mul _ _ | .mulh _ _ | .mulhu _ _ | .div _ _ | .divu _ _
  | .rem _ _ | .remu _ _ | .and _ _ | .or _ _ | .xor _ _ | .andn _ _ | .shl _ _ | .shr _ _ | .sar _ _ | .rotl _ _ | .clz _ _
  | .ctz _ _ | .popc _ _ | .min _ _ | .max _ _ | .minu _ _ | .maxu _ _ | .abs _ _ | .addsh _ _ _ | .addi _ _ _ | .andi _ _
  | .ori _ _ | .xori _ _ | .shli _ _ _ | .shri _ _ _ | .sari _ _ _ | .sext _ _ | .zext _ _ | .bfx _ _ _ _ | .bfi _ _ _
  | .hint _ => true
  | _ => false

/-- The control register a word writes at its block's commit (R27, R127), and the one it reads: FCSR's mode for a scalar
floating-point word (R145). -/
def Instr.setsCsr : Instr → Option Nat
  | .csrw _ n => some n.toNat
  | .ppset _ _ _ => some 3
  | _ => none
def Instr.readsCsr : Instr → Option Nat
  | .csrr _ n => some n.toNat
  | .fadd _ | .fsub _ | .fmul _ | .ffma _ | .fdiv _ | .fsqrt _ | .fcvt _ _ _ | .frnd _ _ => some 4
  | _ => none

def OpSet.has (o : OpSet) : OpField → Bool
  | .left => o.l
  | .right => o.r
  | .pred => o.p

end Sys2Proof
namespace Sys2Proof.Machine

/-- What stands in a slot: an instruction, an undecodable word with its cause, or the second half of a two-slot one (R58). -/
inductive SlotWord where
  | instr (i : Instr)
  /-- with the targets of a word whose opcode is defined and a field of which holds a reserved value (R483) -/
  | bad (cause : Nat) (ts : List Target)
  | second
  deriving DecidableEq, Repr, Inhabited

def SlotWord.instr? : SlotWord → Option Instr
  | .instr i => some i
  | _ => none

/-- SPT and SPD: a word of the S format, whatever its fields hold (R58). -/
def isS (w : W64) : Bool := opcOf w == 0x78 || opcOf w == 0x79
/-- The targets of a word, wherever they point (R53). -/
def wordTargets (w : W64) : List Target := (decodeTarget (tg0Of w)).toList ++ (decodeTarget (tg1Of w)).toList

/-- Reads the slots of a block in order (R39); a word of the S format fills two, a breach in it or not (R58). -/
def parseSlots (half : Bool) : List W64 → List SlotWord
  | [] => []
  | w :: ws =>
    if half then .second :: parseSlots false ws
    else
      match decodeRaw w (ws.headD 0) with
      | .error c => .bad c (if c == 2 && !isS w then wordTargets w else []) :: parseSlots (isS w) ws
      | .ok i => if !i.valuesOk then .bad 2 (if isS w then [] else wordTargets w) :: parseSlots (isS w) ws else .instr i :: parseSlots i.twoSlot ws

def Block.parsed (b : Block) : List SlotWord := parseSlots false b.words

/-- Targets of a slot, in order; hints have none (R62). -/
def SlotWord.targets : SlotWord → List Target
  | .instr i => if i.isHint || i.twoSlot then [] else i.hd.t0.toList ++ i.hd.t1.toList
  | .bad _ ts => ts
  | .second => []

/-- Whether a field of a slot is named by some target of the block (R53). -/
def targeted (ps : List SlotWord) (n : Nat) (f : OpField) : Bool :=
  ps.any fun p => p.targets.any fun t => t.slot.toNat == n && t.fld == f

/-- A target breach of R53, or a target naming a hint's slot (R62). -/
def targetBad (ps : List SlotWord) (t : Target) : Bool :=
  match ps[t.slot.toNat]? with
  | none => true
  | some .second => true
  | some (.instr i) => i.isHint || !i.required.has t.fld
  | some (.bad _ _) => false

/-- The lowest cause among the breaches of one slot (R63, R483). -/
def slotBreach (ps : List SlotWord) (words : List W64) (keep strict : Bool) (n : Nat) : Option Nat :=
  match ps.getD n .second with
  | .second => none
  | .bad c _ => some c
  | .instr i =>
    if !i.targetsOk || (ps.getD n .second).targets.any (targetBad ps) ||
        [OpField.left, .right, .pred].any fun f => i.required.has f && !targeted ps n f then some 4
    else if i.twoSlot && n + 1 == ps.length then some 5
    else if !i.thirdOk then some 6
    else if (match i with | .xsend _ _ _ => !keep | _ => false) then some 8
    else if strict && (i.isHint || !reservedClear i (words.getD n 0) (words.getD (n + 1) 0)) then some 9
    else none

/-- A mask breach of the block as a whole: R61, R136, R243, R449. -/
def maskBreach (ps : List SlotWord) (wmask mmask : Nat) : Bool :=
  let is := ps.filterMap (·.instr?)
  let regs := is.filterMap fun i => i.wreg?.map (·.toNat)
  let ids := is.filterMap fun i => i.lsid?.map (·.toNat)
  (regs.any fun r => !wmask.testBit r) || (ids.any fun n => !mmask.testBit n) ||
    ((List.range 32).any fun n => (wmask.testBit n && !regs.contains n) || (mmask.testBit n && !ids.contains n)) ||
    (wmask.testBit 30 && is.any fun i => match i with | .call _ _ _ => true | _ => false) ||
    (decide (1 < (is.filter (·.isAtomic)).length)) || (is.any (·.isAtomic) && is.any (·.barsAtomic)) ||
    decide (1 < (is.filter fun i => match i with | .svc _ _ | .trap _ _ => true | _ => false).length)

/-- A nonzero reserved header field (R40, R41). -/
def headerReserved (h : Nat) : Bool :=
  bits h 127 120 != 0 || bits h 31 25 != 0 || bits h 19 16 != 0 ||
    (!h.testBit 12 && (bits h 119 96 != 0 || bits h 24 20 != 0))

/-- The first slot with a breach, with its cause. -/
def firstBreach (ps : List SlotWord) (words : List W64) (keep strict : Bool) : Option (Nat × Nat) :=
  (List.range ps.length).findSome? fun n => (slotBreach ps words keep strict n).map fun c => (c, n)

/-- The breach that R483 names: (cause, slot). -/
def mapBreach (h : Nat) (words : List W64) : Option (Nat × Nat) :=
  if bits h 3 0 != 1 || bits h 11 4 = 0 || 128 < bits h 11 4 then some (3, 0xFF)
  else if h.testBit 15 && headerReserved h then some (9, 0xFF)
  else
    let ps := parseSlots false words
    match firstBreach ps words (h.testBit 13) (h.testBit 15) with
    | some e => some e
    | none => if maskBreach ps (bits h 63 32) (bits h 95 64) then some (7, 0xFF) else none

/-! What waits (R48) -/

/-- In-flight committed writes by a heat (R252, R253). -/
def Cargo.writeHeat : Cargo → Option Nat
  | .store a _ _ _ => some a.heat
  | .atomicWrite a _ _ _ => some a.heat
  | .hurdle a _ _ _ => some a.heat
  | _ => none

/-- No job whose footprint carries the heat is in flight, and no committed write of the heat remains (R252). -/
def State.heatQuiet (s : State) (ctx tag : Nat) : Bool :=
  !(s.stalls.any fun e => e.2.owner == some ctx &&
      ((e.2.jobs.any fun j => !j.card.isEmpty && j.heat == tag) ||
        (e.2.inPor.any fun m => m.org.heat == tag && m.i.inbox? == some .porter))) &&
    !(s.flight.any fun f => f.org.ctx == ctx && f.cargo.writeHeat == some tag)

/-- The free tags of a context's heat pool (R251); what still travels to a tag's counter keeps it from being taken anew (R252). -/
def State.freeTags (s : State) (ctx : Nat) : List Nat :=
  match s.ctx? ctx with
  | some c => ((List.range c.params.heatPool).map (· + 1)).filter fun t => !(s.heats.any fun h => h.ctx == ctx && h.tag == t) &&
      !s.flight.any fun w => w.org.ctx == ctx && (match w.cargo with | .level 3 t' _ => t' == t | _ => false)
  | none => []

/-- A frame has SPE messages that have not completed (R199, R200). -/
def State.speBusy (s : State) (f : Frame) : Bool :=
  let x := s.stallD f.stall
  (x.inSpe ++ x.spe.map (·.m)).any fun m => m.org.fid == f.fid

/-- What a wait waits for holds; deliveries and walks end theirs by removing them. -/
def State.waitOver (s : State) (f : Frame) : Wait → Bool
  | .cont _ => false
  | .walk => false
  | .order => false
  | .tile t => let x := s.stallD f.stall; (x.tileD (x.srcSlot t)).st == .ready
  | .tileDone t => !(s.stallD f.stall).frameWork f.fid t
  | .tops t => !(s.stallD f.stall).frameTops f.fid t
  | .page t => let x := s.stallD f.stall; x.pagesIn (x.tileD t)
  | .heatPool => !(s.freeTags f.ctx).isEmpty
  | .heatEnd =>
    match s.heat? f.ctx f.ht with
    | some h => h.count == 1 && h.pending == 0 && s.heatQuiet f.ctx f.ht
    | none => true
  | .launch slot => match s.launch? f.ctx slot with | some l => l.complete | none => true
  | .red hall slot => match s.red? hall slot with | some r => r.done || r.broken || !r.live | none => true
  | .folds => f.folds == 0
  | .spe => !s.speBusy f
  | .cancel lvl obj =>
    match lvl with
    | 2 => ((s.launch? f.ctx obj).map fun l => l.pending == 0).getD true
    | 3 => ((s.heat? f.ctx obj).map fun h => h.pending == 0).getD true
    | 4 => ((s.inst? obj).map fun i => i.pending == 0).getD true
    | _ => ((s.jobrec? f.ctx obj).map fun j => j.pending == 0).getD true

/-- Waits that park a block: those on an object another frame or engine can change (R48). -/
def Wait.parks : Wait → Bool
  | .walk | .order | .page _ => false
  | _ => true

/-! Firing (R42, R46) -/

def Slot.has (x : Slot) (o : OpSet) : Bool := (!o.l || x.l.isSome) && (!o.r || x.r.isSome) && (!o.p || x.p.isSome)

/-- The slot holds an unfired instruction with all its required operands. -/
def Block.armed (b : Block) (n : Nat) : Bool :=
  match (b.parsed.getD n .second).instr? with
  | some i => !(b.slotD n).fired && (b.slotD n).has i.required
  | none => false

/-- A word may execute in a speculative block (R370): it is of the kinds allowed, and no block before may change the control register
it reads, which holds what they will commit. -/
def State.specReady (s : State) (b : Block) (i : Instr) : Bool :=
  i.specOk && (match i.readsCsr with
    | some n => !(s.preds b).any fun p => p.parsed.any fun w => w.instr?.any fun j => j.setsCsr == some n
    | none => true)

/-- The slot may fire now: armed, its wait (if any) over, and allowed while the block is speculative (R370). -/
def State.mayIssue (s : State) (b : Block) (f : Frame) (n : Nat) : Bool :=
  b.armed n &&
    (match b.waits.find? (·.1 == n) with
     | some (_, .order) => true
     | some (_, w) => s.waitOver f w
     | none => true) &&
    (!b.spec || (match (b.parsed.getD n .second).instr? with | some i => s.specReady b i | none => false))

/-- Memory operations of the block still outstanding (R48). -/
def State.outstanding (s : State) (b : Block) : Bool := s.ops.any (fun o => o.bid == b.bid && o.old.isNone) ||
  b.waits.any fun w => match w.2 with | .walk | .page _ => true | _ => false

/-- Slots that can still fire: armed ones, ones whose result is outstanding, and ones all of whose missing operands come from
such slots or are in transit (R46). One round of the closure. -/
def growLive (b : Block) (ps : List SlotWord) (live : List Nat) : List Nat :=
  (List.range ps.length).filter fun n =>
    live.contains n ||
      (match (ps.getD n .second).instr? with
       | some i =>
         let x := b.slotD n
         let gets := fun (f : OpField) (v : Option W64) =>
           !i.required.has f || v.isSome || b.transit.any (fun t => t.slot == n && t.fld == f) ||
             live.any fun m => (ps.getD m .second).targets.any fun t => t.slot.toNat == n && t.fld == f
         !x.fired && gets .left x.l && gets .right x.r && gets .pred x.p
       | none => false)

def closeLive (b : Block) (ps : List SlotWord) : Nat → List Nat → List Nat
  | 0, l => l
  | k + 1, l =>
    let l' := growLive b ps l
    if l'.length = l.length then l else closeLive b ps k l'

/-- An unfired instruction that can still fire, or an outstanding result (R46). -/
def State.stillLive (s : State) (b : Block) : Bool :=
  let ps := b.parsed
  let out := (s.ops.filter fun o => o.bid == b.bid && o.old.isNone).map (·.slot)
  let l := closeLive b ps 129 out
  !out.isEmpty || !b.transit.isEmpty || l.any fun n => !(b.slotD n).fired

/-- Complete under R46, or under R49 for an iteration of a loop block. -/
def State.complete (s : State) (b : Block) : Bool :=
  ((List.range 32).all fun n => !b.wmask.testBit n || b.gws.any (·.1 == n)) &&
    ((List.range 32).all fun n => !b.mmask.testBit n || b.lsids.any (·.1 == n)) &&
    (b.exits.length == 1 || (b.isLoop && b.exits.isEmpty)) && !s.stillLive b

/-- Something of the block can proceed now. -/
def State.canProceed (s : State) (b : Block) (f : Frame) : Bool :=
  !b.transit.isEmpty || s.outstanding b || (List.range b.icnt).any (s.mayIssue b f)

/-- After something happened to a block: a quiescent block that is not complete faults BLOCK_FORM subcode 5 (R47, R48); a block
all of whose remaining work waits on others is parked and leaves the block engine (R48, R364). -/
def State.settleBlock (s : State) (bid : Nat) : State :=
  match s.block? bid with
  | none => s
  | some b =>
    match s.frame? b.fid with
    | none => s
    | some f =>
      if s.canProceed b f || b.spec then s
      else if b.waits.any (·.2.parks) then
        if b.parked then s
        else (s.modBlock bid fun b => { b with parked := true }).modFrame f.fid fun f => { f with place := .parked }
      else if s.complete b then s
      else s.blockFault bid 0xFF (blockForm 5)

/-- Blocks mapped on a stall's block engine (R366). -/
def State.mappedOn (s : State) (st : Nat) : List Block :=
  s.blocks.filter fun b => !b.parked && (match s.frame? b.fid with | some f => f.stall == st | none => false)

/-- A token arrives at an operand field; a second one is BLOCK_FORM subcode 1 (R47). -/
def Slot.put (x : Slot) (f : OpField) (v : W64) : Option Slot :=
  match f with
  | .left => if x.l.isSome then none else some { x with l := some v }
  | .right => if x.r.isSome then none else some { x with r := some v }
  | .pred => if x.p.isSome then none else some { x with p := some v }

end Sys2Proof.Machine
end

