-- ==== Sys2Proof/Machine/Frames.lean ====
section
/-! DEFINITION. Frames: placement (R362), frame numbers (R24), creation (R23, R28, R325), the counters of their levels (R17, R19),
inline children (R346), the order after a frame's writes (R215), and the end of a frame (R138, R332). -/
namespace Sys2Proof.Machine

/-! The order after committed writes (R215) -/

/-- Things in flight that write memory. -/
def Cargo.isWrite : Cargo → Bool
  | .store _ _ _ _ | .atomicWrite _ _ _ _ | .hurdle _ _ _ _ | .fset _ _ => true
  | _ => false

def Cargo.isUnlink : Cargo → Bool
  | .unlink _ => true
  | _ => false

/-- No write of a frame that left before the thing numbered `id` is still on its way, and no mark of a dead record (R342). -/
def State.behind (s : State) (fid id : Nat) : Bool :=
  !s.flight.any fun w => (w.cargo.isWrite || w.cargo.isUnlink) && w.org.fid == fid && decide (w.id < id)

/-- Engine work of a reclaimed frame still runs to its next point (R124, R165, R278). -/
def State.stopping (s : State) (fid : Nat) : Bool :=
  s.stalls.any fun e => e.2.pa.any (fun r => r.abandoned && r.m.org.fid == fid) || e.2.vec.any (fun r => r.abandoned && r.m.org.fid == fid) ||
    e.2.jobs.any fun j => j.reclaimed && j.m.org.fid == fid

/-- What the end of a frame sends away comes in order: once its engine work has stopped, its cell's event, then the drop of its hold set,
then its counters, which come behind the cancels that its blocks sent (R332, R342, R478). -/
def State.endTurn (s : State) (w : Flight) : Bool :=
  w.org.slot != 0xFF || (!s.stopping w.org.fid && !s.flight.any fun e => decide (e.id < w.id) && e.org.fid == w.org.fid &&
    (match e.cargo, w.cargo with
     | .producerEnd _ _ _ _, _ => e.org.slot == 0xFF
     | .reach _ _ _ _, .level _ _ _ => e.org.slot == 0xFF
     | .level _ _ k, .level _ _ 0 => k != 0
     | _, _ => false))

/-- Modular order of BSQ (R25). -/
def bsqLt (a b : W32) : Bool := a != b && decide ((b - a).toNat < 2 ^ 31)

/-- No write of the block that sent a message, or of an earlier block of its frame, is still on its way. -/
def State.behindMsg (s : State) (o : Org) : Bool :=
  !s.flight.any fun w => w.cargo.isWrite && w.org.fid == o.fid && !bsqLt o.bsq w.org.bsq

/-! Placement (R362) -/

/-- The rank of a frame number among `n` stalls. -/
def placeRank (fn : W64) (n : Nat) : Nat :=
  let x := (fn.toNat / 2 ^ 32) ^^^ (fn.toNat % 2 ^ 32)
  x * 0x9E3779B1 % 2 ^ 32 * n / 2 ^ 32

def Ctx.pitchIn (c : Ctx) (hall : Nat) : List Nat := c.params.pitch.filter (hallOfStall · == hall)
/-- The halls that hold stalls of the pitch, ascending. -/
def Ctx.halls (c : Ctx) : List Nat := (List.range 4).filter fun h => !(c.pitchIn h).isEmpty

def State.placeOn (s : State) (ctx hall : Nat) (fn : W64) : Nat :=
  match s.ctx? ctx with
  | some c =>
    let p := c.pitchIn hall
    p.getD (placeRank fn p.length) 0
  | none => 0

/-! Frame numbers (R24) -/

/-- Bit position of ORD`d`. -/
def ordPos (d : Nat) : Nat := 56 - 7 * d
/-- FN of the `n`-th child of a frame at depth `d`. -/
def childFn (fn : W64) (d n : Nat) : W64 :=
  BitVec.ofNat 64 (fn.toNat / 2 ^ ordPos d * 2 ^ ordPos d + n * 2 ^ ordPos (d + 1))
/-- FN of a root frame. -/
def rootFn (slot index : Nat) : W64 := BitVec.ofNat 64 (slot * 2 ^ 56 + (index + 1) * 2 ^ 49)
/-- FN from the per-launch counter. -/
def counterFnOf (slot ctr : Nat) : W64 := BitVec.ofNat 64 (slot * 2 ^ 56 + ctr % 2 ^ 49)

/-! Levels (R17, R19) -/

/-- A frame or job of its levels has begun: launch and graph count both, the heat counts frames only. -/
def State.countUp (s : State) (o : Org) (job : Bool) : State :=
  let s := match o.launch with
    | some l => s.modLaunch o.ctx l fun l => { l with count := l.count + 1 }
    | none => s
  let s := if job || o.heat == 0 then s else s.modHeat o.ctx o.heat fun h => { h with count := h.count + 1 }
  match o.inst with
  | some i => s.modInst i fun i => { i with count := i.count + 1 }
  | none => s

/-- It has ended: the decrements travel to their counters behind its writes (R19, R215). -/
def State.countDown (s : State) (o : Org) (job : Bool) : State :=
  let s := match o.launch with
    | some l => s.ship o 0 (.level 2 l 0)
    | none => s
  let s := if job || o.heat == 0 then s else s.ship o 0 (.level 3 o.heat 0)
  match o.inst with
  | some i => s.ship o 0 (.level 4 i 0)
  | none => s

/-! Creation -/

/-- PP with pa = pb = 16 (R28). -/
def ppReset : BitVec 13 := 0x1010

/-- A frame with the registers of R23 and R28 and nothing else: not yet placed. -/
def Frame.blank (ctx : Nat) (fn : W64) (stall entry : Nat) (origin : Arrival) : Frame :=
  { fid := 0, ctx := ctx, fref := 0, regs := Vector.replicate 32 0, fn := fn, bsq := 0, ht := 0, pp := ppReset, fcsr := 0, af := 0,
    spc := 0, spf := 0, prio := 0, handler := false, det := false, launch := none, inst := none, nodeLaunch := none, job := none, depth := 1,
    spawns := 0, counterFn := false, cell := none, holds := [], stall := stall, pinned := false, next := entry, loop := none,
    place := .callroom, inTable := false, spill := none, since := 0, held := false, stopped := none, halt := false, pass := false, stp := false,
    fetched := none, fetching := false, folds := 0, inlineKids := [], parent := none, creator := none, record := none,
    captured := false, origin := origin, reclaim := none }

/-- Writes of g registers from g0 on. -/
def setRegs (r : Vector W64 32) : Nat → List W64 → Vector W64 32
  | _, [] => r
  | n, v :: vs => setRegs (r.setIfInBounds n v) (n + 1) vs

def State.refUsed (s : State) (ctx r : Nat) : Bool := s.frames.any fun f => f.ctx == ctx && f.fref == r

/-- The first unused frame reference from `r` on; references run from 1, 0 names no frame (R325, R445). -/
def State.refFrom (s : State) (ctx r : Nat) : Nat → Nat
  | 0 => r
  | k + 1 => if s.refUsed ctx r then s.refFrom ctx (r % 0xFFFFFF + 1) k else r

/-- Enters a new frame: it takes a number and a free frame reference (R482), counts at its levels, and stands in the call room
or, when that is full, on the overflow list (R361). -/
def State.addFrame (s : State) (f : Frame) : State :=
  let f := { f with fid := s.nextId, fref := s.refFrom f.ctx (Config.pick s.draws % 0xFFFFFF + 1) (s.frames.length + 1),
                    since := (s.stallD f.stall).cyc,
                    place := if (f.place == .callroom || f.place == .gated) && s.roomFull f.ctxHall s.nextId then .overflow else f.place }
  let s := { s with frames := s.frames ++ [f], nextId := s.nextId + 1, draws := s.draws + 1 }
  if f.handler then s else s.countUp (f.org 0 0xFF 0 false) false

/-- Frame records of a hall's tables, spill banks and shares of the frame area for a context (R346, R364). -/
def State.recordRoom (s : State) (ctx hall : Nat) : Nat :=
  match s.ctx? ctx with
  | some c => (c.pitchIn hall).foldl (fun n st => n + 64 + 32 * ((s.stallD st).roles.filter (· == 2)).length + c.shareLen / 512) 0
  | none => 0
def State.recordsFull (s : State) (ctx hall : Nat) : Bool :=
  decide (s.recordRoom ctx hall ≤ (s.frames.filter fun f => f.ctx == ctx && f.ctxHall == hall && !f.handler).length)

/-- The physical address of a cell; an address of no region when its page is absent. -/
def State.cellPa (s : State) (ctx va : Nat) : Nat := match s.walkVa ctx va with | .ok l => l.pa | .error _ => 2 ^ 48

/-- Reads the fields of a cell word (R328). -/
def cellReach (w : Nat) : Nat := bits w 127 112
def cellSt (w : Nat) : Nat := bits w 111 110
def cellProd (w : Nat) : Nat := bits w 87 64
def cellVal (w : Nat) : Nat := bits w 63 0
/-- A cell word from its fields. -/
def cellWord (reach st prod val : Nat) (noval : Bool) : Nat :=
  reach % 2 ^ 16 * 2 ^ 112 + st % 4 * 2 ^ 110 + (if noval then 2 ^ 109 else 0) + prod % 2 ^ 24 * 2 ^ 64 + val % 2 ^ 64

/-- Adds to (or takes from) a frame's hold set; an entry that falls to 0 is removed (R326). -/
def holdAdd (l : List (Nat × Nat)) (cell : Nat) (n : Int) : List (Nat × Nat) :=
  let l' := if l.any (·.1 == cell) then l.map fun e => if e.1 == cell then (e.1, ((e.2 : Int) + n).toNat) else e
    else l ++ [(cell, n.toNat)]
  l'.filter (·.2 != 0)

/-- SPAWN at commit (R332): the child is made and enters the call room, or runs inline (R346). -/
def State.spawnChild (s : State) (f : Frame) (o : Org) (cell blk : Nat) (arg : W64) (extra : Nat) : State :=
  let n := f.spawns + 1
  let ctr := f.counterFn || decide (8 ≤ f.depth) || decide (128 ≤ n)
  let k := match f.launch, f.inst with
    | some l, _ => ((s.launch? f.ctx l).map (·.fnCtr)).getD 1
    | none, some i => ((s.inst? i).map (·.fnCtr)).getD 1
    | none, none => s.nextId
  let fn := if ctr then counterFnOf (f.fn.toNat / 2 ^ 56) k else childFn f.fn f.depth n
  let s := if ctr then
      match f.launch, f.inst with
      | some l, _ => s.modLaunch f.ctx l fun l => { l with fnCtr := l.fnCtr + 1 }
      | none, some i => s.modInst i fun i => { i with fnCtr := i.fnCtr + 1 }
      | none, none => s
    else s
  let inl := s.recordsFull f.ctx f.ctxHall
  let st := if f.pinned || inl then f.stall else s.placeOn f.ctx f.ctxHall fn
  let child : Frame :=
    { Frame.blank f.ctx fn st blk ⟨6, o.fn, o.bsq, o.stall, false⟩ with
      regs := setRegs (Vector.replicate 32 0) 0 [arg, BitVec.ofNat 64 cell], ht := f.ht, pp := f.pp, fcsr := f.fcsr &&& 7,
      spc := f.spc, prio := f.prio, det := f.det, launch := f.launch, inst := f.inst, nodeLaunch := f.nodeLaunch, job := f.job,
      depth := if ctr then 8 else f.depth + 1, counterFn := ctr, cell := some cell, pinned := f.pinned,
      place := if inl then .inlineWait else .callroom, parent := if inl then some f.fid else none, creator := some f.fid,
      captured := f.captured }
  let fid := s.nextId
  let s := s.addFrame child
  let fref := ((s.frame? fid).map (·.fref)).getD 0
  let pa := s.cellPa f.ctx cell
  let s := if paKind pa == .noRegion then s else s.wrLE pa 16 (cellWord (1 + extra) 0 fref 0 false)
  s.modFrame f.fid fun p =>
    { p with spawns := n, holds := holdAdd p.holds cell 1, inlineKids := if inl then p.inlineKids ++ [fid] else p.inlineKids }

/-- The root frames of a launch (R24, R336, R354), `n` of them from index `i` on. -/
def State.rootFrames (s : State) (tmpl : Frame) (slot : Nat) (ctr : Bool) (arg : W64) (hallOfIx : Nat → Nat) : Nat → Nat → State
  | 0, _ => s
  | n + 1, i =>
    let k := ((s.launch? tmpl.ctx slot).map (·.fnCtr)).getD 1
    let fn := if ctr then counterFnOf slot k else rootFn slot i
    let s := if ctr then s.modLaunch tmpl.ctx slot fun l => { l with fnCtr := l.fnCtr + 1 } else s
    let s := s.addFrame { tmpl with fn := fn, regs := setRegs (Vector.replicate 32 0) 0 [arg, BitVec.ofNat 64 i],
                                    stall := s.placeOn tmpl.ctx (hallOfIx i) fn, counterFn := ctr }
    s.rootFrames tmpl slot ctr arg hallOfIx n (i + 1)

/-! The end of a frame -/

/-- An inline child whose turn has come stands in the call room (R346). -/
def State.startKid (s : State) (k : Nat) : State :=
  match s.frame? k with
  | some c => if c.place == .inlineWait then s.enterRoom k else s
  | none => s

/-- An inline child has ended or been reclaimed: the next one runs, or the parent goes on (R346). -/
def State.inlineDone (s : State) (parent fid : Nat) : State :=
  match s.frame? parent with
  | none => s
  | some p =>
    let kids := p.inlineKids.filter (· != fid)
    let s := s.modFrame parent fun p => { p with inlineKids := kids }
    match kids with
    | [] => if p.place == .inlineWait then s.enterRoom parent else s
    | k :: _ => s.startKid k

/-- Inline children of a frame that is gone become ordinary frames (R346). -/
def State.freeKids (s : State) (f : Frame) : State :=
  f.inlineKids.foldl (fun s k => (s.modFrame k fun c => { c with parent := none }).startKid k) s

/-- Drops a hold set: each held count is on its way to its cell (R332, R342 step 5). -/
def State.dropHolds (s : State) (f : Frame) (o : Org) : State :=
  f.holds.foldl (fun s h => s.ship o 0 (.reach h.1 (s.cellPa f.ctx h.1) false h.2)) s

/-- Takes a frame away: its cell hears of the producer's end (or of its reclamation), its holds are dropped and its levels counted down (R138, R332). -/
def State.endFrame (s : State) (fid : Nat) (recl : Bool) : State :=
  match s.frame? fid with
  | none => s
  | some f =>
    let o := f.org f.next 0xFF 0 false
    let s := match f.cell with
      | some c => s.ship o 0 (.producerEnd c (s.cellPa f.ctx c) f.fref recl)
      | none => s
    let s := s.dropHolds f o
    let s := if f.handler then s.modHall f.ctxHall fun h => { h with hfree := h.hfree + 1 } else s.countDown o false
    let s := s.freeKids f
    let s := { s with frames := s.frames.filter (·.fid != fid) }
    match f.parent with
    | some p => s.inlineDone p fid
    | none => s

end Sys2Proof.Machine
end

