-- ==== Sys2Proof/Machine/Reclaim.lean ====
section
/-! DEFINITION. Reclamation and cancelling: abandoning engine work at its points (R124, R165, R205, R278), reclaiming a frame
(R342), what a cancelled level does (R18, R338), how levels complete (R17, R19), and freeing a heat's cells (R252, R253). -/
namespace Sys2Proof

/-- The opcode of an instruction's word (R425: OPC of a record). -/
def Instr.opcode (i : Instr) : Nat := (opcOf (encode i).1).toNat

/-- PBAR: an entry that moves nothing (R295). -/
def Instr.isBar : Instr → Bool
  | .pbar _ _ => true
  | _ => false

/-- The key of a remote tile message (R315). -/
def RemoteTile.key (t : RemoteTile) : Nat × Nat × Nat × Nat × Nat := (t.inst, t.dst, t.src, t.chan, t.sqn)

end Sys2Proof
namespace Sys2Proof.Machine

/-! Engine work -/

/-- The TC field of an engine message, or TA where it has no TC (R425). -/
def Msg.tileField (m : Msg) : Nat := (m.i.dstTiles ++ m.i.srcTiles).headD 0

/-- Records of type 3 and 4 (R425). -/
def State.engBirty (s : State) (m : Msg) (ty eng n : Nat) : State :=
  s.birty m.org ty (eng + m.tileField % 64 * 2 ^ 2 + m.i.opcode * 2 ^ 8 + min n (2 ^ 32 - 1) * 2 ^ 16)

/-- The folds of a message that never starts contribute nothing (R106). -/
def State.dropFolds (s : State) (m : Msg) : State := m.folds.foldl (fun s _ => s.dropFold m.org.fid) s

/-- Ring slots taken as sources return to EMPTY (R266, R267). -/
def Stall.release (x : Stall) (srcs : List Nat) : Stall := srcs.foldl (·.drained ·) x

/-- Abandoned destinations return to EMPTY and their content is lost (R124, R165). -/
def State.loseTiles (s : State) (st : Nat) (dsts : List Nat) : State :=
  dsts.foldl (fun s d =>
    let t := s.tileD st d
    { s.modStall st fun x => (x.putTile t 0 ((List.range t.bytes).map (Config.lostByte s.draws))).unfill d with draws := s.draws + 1 }) s

/-- Cycles that a plane-array message has taken once `n` of its chunks have run (R118, R431). -/
def PaRun.busy (r : PaRun) (n : Nat) : Nat := if r.costs.isEmpty then 0 else 4 + (r.costs.take n).foldl (· + ·) 0 + r.redone

/-- The plane array's message stops after `n` of its chunks: TC returns to EMPTY, NSQ stays (R124, R468). -/
def State.paAbandon (s : State) (st : Nat) (r : PaRun) (n : Nat) : State :=
  let s := s.modStall st fun x => { x.release r.srcs with pa := none, paNext := x.cyc + 1 }
  ((s.count st 4 (r.busy n)).loseTiles st [r.tc]).engBirty r.m 4 0 (r.spent + ((s.stallD st).cyc - r.start))

/-- The vector unit's message stops: its destinations return to EMPTY, their content lost (R165). -/
def State.vecAbandon (s : State) (st : Nat) (r : VecRun) : State :=
  let s := s.modStall st fun x => { x.release r.srcs with vec := none, vecNext := x.cyc + 1 }
  (s.loseTiles st (r.outs.map (·.1))).engBirty r.m 4 1 (r.spent + ((s.stallD st).cyc - r.start))

/-- What of a plane-array or vector message a stall keeps from its pre-emption on is at a boundary: it goes at once (R123, R124, R164,
R165). -/
def State.dropKept (s : State) (st : Nat) (p : Msg → Bool) : State :=
  let x := s.stallD st
  if !x.saved then s
  else
    let s := (x.pa.filter fun r => p r.m).elim s fun r => s.paAbandon st r r.chunk
    (x.vec.filter fun r => p r.m).elim s (s.vecAbandon st)

/-- Type 5 record of a porter job (R425). -/
def State.jobBirty (s : State) (m : Msg) (what bytes : Nat) : State :=
  s.birty m.org 5 (what + m.i.opcode * 2 ^ 3 + min bytes (2 ^ 32 - 1) * 2 ^ 11)

/-- A porter entry that never started is removed: its folds contribute nothing, and it counts as complete for its levels (R106,
R275, R278). -/
def State.dropEntry (s : State) (m : Msg) (what : Nat) : State := ((s.dropFolds m).jobBirty m what 0).countDown m.org true

/-- A barrier goes once no job before it is left (R295). -/
def Stall.tidyBars (x : Stall) : Stall :=
  { x with bars := x.bars.filter fun b => x.jobs.any (·.m.before b) || x.inPor.any (·.before b) }

/-- A job leaves the porter: its reservations of heat cells end with it (R85). -/
def State.dropJob (s : State) (st : Nat) (j : Job) : State :=
  (s.modStall st fun x => { x with jobs := x.jobs.filter (·.id != j.id) }.tidyBars).modCtx j.m.org.ctx
    fun c => { c with reserved := c.reserved.filter fun r => r.1 != j.id }

/-- The message an abandoned XRECV took returns to the remote store, unconsumed (R318). -/
def State.returnRemote (s : State) (st : Nat) (j : Job) : State :=
  match j.remote with
  | some t => s.modHall (hallOfStall st) fun h => { h with xstore := t :: h.xstore, xtaken := h.xtaken.erase t.key }
  | none => s

/-- A job in the accepted set, running or paused, is abandoned: its destinations and consumed slots return to EMPTY, its holds and
footprint entry go with it; the folds of one that never started contribute nothing (R106, R275, R278). -/
def State.abandonJob (s : State) (st id what : Nat) : State :=
  match (s.stallD st).jobs.find? (·.id == id) with
  | none => s
  | some j =>
    let s := (s.dropJob st j).returnRemote st j
    let s := if j.st == .accepted || j.st == .held then s.dropFolds j.m else s
    let s := s.modStall st fun x =>
      if j.st == .running || j.st == .paused then j.srcs.foldl (·.drained ·) (if j.settled then x else j.dests.foldl (·.unfill ·) x) else x
    (s.jobBirty j.m what (j.rd + j.wr)).countDown j.m.org true

/-- A committed XSEND is irrevocable (R316). -/
def irrevocable : Instr → Bool
  | .xsend _ _ _ => true
  | _ => false

/-- The porter's part: jobs whose issuer meets a test (R278). -/
def State.abandonPorter (s : State) (st : Nat) (p0 : Msg → Bool) : State :=
  let p := fun (m : Msg) => p0 m && !irrevocable m.i
  let x := s.stallD st
  let s := s.modStall st fun x => { x with inPor := x.inPor.filter fun m => !p m }.tidyBars
  let s := (x.inPor.filter p).foldl (fun s m => if m.i.isBar then s else s.dropEntry m 3) s
  (x.jobs.filter fun j => p j.m).foldl (fun s j =>
    if j.st == .running && j.round.isSome then
      s.modStall st fun x => { x with jobs := x.jobs.map fun k => if k.id == j.id then { k with reclaimed := true } else k }
    else s.abandonJob st j.id 3) s

/-- All engine work of a frame: waiting messages and those a pre-empted stall keeps go, running ones stop at their next point (R124,
R165, R205, R278). -/
def State.abandonFrameWork (s : State) (st fid : Nat) : State :=
  let p := fun (m : Msg) => m.org.fid == fid
  let s := s.modStall st fun x =>
    { x with inPa := x.inPa.filter fun m => !p m, inVec := x.inVec.filter fun m => !p m, inSpe := x.inSpe.filter fun m => !p m,
             pa := x.pa.map fun r => if p r.m then { r with abandoned := true } else r,
             vec := x.vec.map fun r => if p r.m then { r with abandoned := true } else r }
  (s.dropKept st p).abandonPorter st p

/-! Frames -/

/-- A KEEP block in flight, or a KEEP loop between iterations, pins the frame (R41, R342 step 1). -/
def State.pinnedByKeep (s : State) (f : Frame) : Bool :=
  !f.held && ((s.blocks.any fun b => b.fid == f.fid && !b.spec && b.keep) ||
    (match f.loop with
     | some (i, _) => decide (0 < i) && (match f.fetched with
         | some (_, bs) => (ofBytes (bs.take 2)).testBit 13
         | none => (s.vaRead f.ctx f.next 2).testBit 13)
     | none => false))

/-- Reclaims a frame (R342); a request that meets a pinned frame waits for the KEEP block's commit. -/
def State.reclaimFrame (s : State) (fid cause : Nat) : State :=
  match s.frame? fid with
  | none => s
  | some f =>
    if f.handler then s
    else if s.pinnedByKeep f then s.modFrame fid fun f => { f with reclaim := some cause }
    else
      let s := s.discardFrame fid (if cause = 0 then Cls.dataError else 0) cause 0xFF
      let s := s.abandonFrameWork f.stall fid
      (s.count f.stall 13 1).endFrame fid true

/-- Requests the reclamation of a frame at its stall (R341). -/
def State.requestReclaim (s : State) (f : Frame) (cause : Nat) : State :=
  if f.handler then s else s.ship (f.org f.next 0xFF 0 false) 0 (.reclaim f.fid cause)

/-! Tokens -/

/-- One credit fewer at a node input, or one more (R340). -/
def State.credit (s : State) (i n k : Nat) (plus : Bool) : State :=
  s.modInst i fun x => { x with nodes := x.nodes.modify n fun nd => { nd with credits := nd.credits.modify k fun c => if plus then c + 1 else c - 1 } }

/-- The node lies in a part of another package (R320). -/
def State.nodeFar (s : State) (i n : Nat) : Bool :=
  match s.inst? i with
  | some x => decide (4 ≤ x.parts.getD (x.nodes.getD n default).part 0)
  | none => false

/-- Traffic leaves for another package over an Ethernet port (R323). -/
def State.ueSend (s : State) (x : UeItem) : State :=
  if s.ueUp then { s with pkg := { s.pkg with ueOut := s.pkg.ueOut ++ s.pkg.ueWait ++ [x], ueWait := [] } }
  else { s with pkg := { s.pkg with ueWait := s.pkg.ueWait ++ [x] } }

/-- A token takes its credit and leaves for its matching store (R320, R340). -/
def State.sendTok (s : State) (o : Org) (i n k : Nat) (tag : W16) (v : W64) : State :=
  let s := s.credit i n k false
  if s.nodeFar i n then s.ueSend (.token i n k v tag)
  else (s.modInst i fun x => { x with count := x.count + 1 }).ship o 0 (.token i n k tag v)

/-! Levels -/

/-- LAUNCH and TOKEN packets that name the image and are not yet applied (R355). -/
def Ctx.sources (c : Ctx) (image : Nat) : Bool :=
  c.packets.any fun p =>
    (bits (p.words.getD 0 0).toNat 7 0 == 1 || bits (p.words.getD 0 0).toNat 7 0 == 2) && bits (p.words.getD 1 0).toNat 55 0 == image

/-- The end of an instance: its node launch slot and reduction objects are free, its job counts down (R302, R348, R354). -/
def State.instSettle (s : State) (i : Nat) : State :=
  match s.inst? i with
  | none => s
  | some n =>
    if n.count = 0 && n.pending = 0 && !((s.ctx? n.ctx).map fun c => !n.cancelled && c.sources n.image).getD false then
      let s := { s with insts := s.insts.filter (·.iid != i),
                        launches := s.launches.filter fun l => !(l.node && l.inst == some i),
                        reds := s.reds.filter fun r => r.inst != some i,
                        halls := s.halls.map fun (h : Hall) =>
                          { h with xstore := h.xstore.filter fun t => t.inst != i, xtaken := h.xtaken.filter fun k => k.1 != i } }
      match n.job with
      | some j => s.ship (Org.ofHall n.ctx 0) 0 (.level 5 j 0)
      | none => s
    else s

/-- A level whose counter may have reached 0 (R17). -/
def State.levelSettle (s : State) (ctx lvl obj : Nat) : State :=
  match lvl with
  | 2 => s.launchSettle ctx obj
  | 4 => s.instSettle obj
  | 5 => s.jobSettle ctx obj
  | _ => s

def State.requestAll (s : State) (p : Frame → Bool) : State :=
  (s.frames.filter p).foldl (fun s f => s.requestReclaim f 4) s

/-- Abandons the porter jobs of a level on every stall (R338). -/
def State.abandonAll (s : State) (p : Msg → Bool) : State := s.stalls.foldl (fun s e => s.abandonPorter e.1 p) s

/-- Marks contained launches that have not completed as cancelled (R18). -/
def State.cancelLaunches (s : State) (p : Launch → Bool) : State :=
  { s with launches := s.launches.map fun l => if p l && !l.complete && !l.node then { l with cancelled := true } else l }

/-- A graph instance ends in this package: sources stop, queued tokens are discarded, the node launch slot is free (R338, R348). -/
def State.endInst (s : State) (i : Nat) : State :=
  match s.inst? i with
  | none => s
  | some n =>
    let s := s.modInst i fun n =>
      { n with cancelled := true, live := false, count := n.count - n.toks.length, toks := [], ovf := [],
               nodes := n.nodes.mapIdx fun k nd =>
                 { nd with credits := nd.credits.mapIdx fun j c => c + (n.toks.filter fun t => t.node == k && t.input == j).length } }
    let s := { s with launches := s.launches.filter fun l => !(l.node && l.inst == some i) }
    let s := s.cancelLaunches fun l => l.ctx == n.ctx && l.inst == some i
    let s := s.requestAll fun f => f.ctx == n.ctx && f.inst == some i
    (s.abandonAll fun m => m.org.ctx == n.ctx && m.org.inst == some i).instSettle i

/-- Cancels one graph instance: every part of it ends, in other packages too (R321). -/
def State.cancelInst (s : State) (i : Nat) : State :=
  let far := (s.inst? i).any fun x => !x.cancelled && x.parts.any fun h => decide (4 ≤ h)
  (if far then s.ueSend (.endInst i) else s).endInst i

/-- A level is cancelled (R18, R338). -/
def State.cancelLevel (s : State) (ctx lvl obj : Nat) : State :=
  match lvl with
  | 2 =>
    let s := s.modLaunch ctx obj fun l => if l.complete then l else { l with cancelled := true }
    let s := s.requestAll fun f => f.ctx == ctx && f.launch == some obj
    s.abandonAll fun m => m.org.ctx == ctx && m.org.launch == some obj
  | 3 =>
    if s.heatLive ctx obj then
      let s := s.modHeat ctx obj fun h => { h with cancelled := true }
      s.requestAll fun f => f.ctx == ctx && f.ht == obj
    else s
  | 4 => s.cancelInst obj
  | 5 =>
    let s := s.modJobrec ctx obj fun j => { j with cancelled := true }
    let s := s.cancelLaunches fun l => l.ctx == ctx && l.job == some obj
    let s := (s.insts.filter fun i => i.ctx == ctx && i.job == some obj && !i.cancelled).foldl (fun s i => s.cancelInst i.iid) s
    let s := s.requestAll fun f => f.ctx == ctx && f.job == some obj
    s.abandonAll fun m => m.org.ctx == ctx && m.org.job == some obj
  | _ => s

/-- One fewer pending cancel at a level's counter (R338). -/
def State.cancelDone (s : State) (ctx lvl obj : Nat) : State :=
  match lvl with
  | 2 => s.modLaunch ctx obj fun l => { l with pending := l.pending - 1 }
  | 3 => s.modHeat ctx obj fun h => { h with pending := h.pending - 1 }
  | 4 => s.modInst obj fun i => { i with pending := i.pending - 1 }
  | 5 => s.modJobrec ctx obj fun j => { j with pending := j.pending - 1 }
  | _ => s

/-- One fewer at a level's counter (R17). -/
def State.levelDown (s : State) (ctx lvl obj : Nat) : State :=
  match lvl with
  | 2 => s.modLaunch ctx obj fun l => { l with count := l.count - 1 }
  | 3 => s.modHeat ctx obj fun h => { h with count := h.count - 1 }
  | 4 => s.modInst obj fun i => { i with count := i.count - 1 }
  | 5 => s.modJobrec ctx obj fun j => { j with count := j.count - 1 }
  | _ => s

/-- Admission of a cancel at a level's counter (R19, R338): the status it delivers, none while another cancel is pending. A level
found live holds the cancel pending. -/
def State.cancelAdmit (s : State) (ctx lvl obj : Nat) : Option (Nat × State) :=
  match lvl with
  | 2 =>
    match s.launch? ctx obj with
    | none => some (2, s)
    | some l =>
      if l.node || !l.live then some (2, s)
      else if l.complete then some (if l.cancelled then 0 else 1, s)
      else if l.pending != 0 then none
      else some (0, s.modLaunch ctx obj fun l => { l with pending := 1 })
  | 3 =>
    match s.heat? ctx obj with
    | none => some (2, s)
    | some h =>
      if !h.live then some (2, s)
      else if h.pending != 0 then none
      else some (0, s.modHeat ctx obj fun h => { h with pending := 1 })
  | 4 =>
    match s.inst? obj with
    | none => some (2, s)
    | some i => if i.pending != 0 then none else some (0, s.modInst obj fun i => { i with pending := 1 })
  | _ =>
    match s.jobrec? ctx obj with
    | none => some (2, s)
    | some j =>
      if j.complete then some (if j.cancelled then 0 else 1, s)
      else if j.pending != 0 then none else some (0, s.modJobrec ctx obj fun j => { j with pending := 1 })

/-! Heats -/

/-- Frees the cells and arena slots of a heat and returns its tag (R252, R253). -/
def State.freeHeat (s : State) (ctx tag : Nat) : State :=
  let lo := cellKey ctx tag 0
  let hi := cellKey ctx (tag + 1) 0
  let s := { s with made := s.made.filter fun m => !(m.1 == ctx && m.2.1 == tag),
                    cells := spDrop (fun a => decide (lo ≤ a) && decide (a < hi)) s.cells,
                    heats := s.heats.filter fun h => !(h.ctx == ctx && h.tag == tag) }
  s.modCtx ctx fun c => { c with reserved := c.reserved.filter fun r => r.2.1 != tag }

end Sys2Proof.Machine
end

