-- ==== Sys2Proof/Machine/Migrate.lean ====
section
/-! DEFINITION. Page migration counters and notifications (R406, R407), and what a completed access marks (R396). -/
namespace Sys2Proof.Machine

/-- The entry of a notification (R407). -/
def migrEntry (page ctx count tail : Nat) : W128 :=
  BitVec.ofNat 128 (page % 2 ^ 48 * 2 ^ 80 + ctx % 512 * 2 ^ 71 + count % 2 ^ 15 * 2 ^ 56 + (if tail / 4096 % 2 = 0 then 1 else 0))

/-- The entry of a page in the migration table (R406). -/
def Package.migrAt (p : Package) (page : Nat) : W16 := ((p.migr.find? (·.1 == page)).map (·.2)).getD 0
def Package.putMigr (p : Package) (page : Nat) (e : W16) : Package :=
  { p with migr := (if e = 0 then [] else [(page, e)]) ++ p.migr.filter (·.1 != page) }

/-- A table entry of its two fields (R406). -/
def migrWord (queued : Bool) (count : Nat) : W16 := BitVec.ofNat 16 (count + if queued then 32768 else 0)

/-- The notification ring takes the entry of a page (R407). -/
def Package.notify (p : Package) (page ctx count : Nat) : Package :=
  { p with notices := (p.noticeTail % 4096, migrEntry page ctx count p.noticeTail) :: p.notices.filter (·.1 != p.noticeTail % 4096),
           noticeTail := p.noticeTail + 1 }

/-- COUNT of a page of the configured span rises by a request's sectors; at THRESH the bridge posts, or drops when the ring has no room
(R406, R407). THRESH 0 stands before the driver has set one. -/
def State.migrAdd (s : State) (ctx page n : Nat) : State :=
  let p := s.pkg
  let e := p.migrAt page
  let queued := e.getLsbD 15
  let c := min (e.toNat % 32768 + n) 32767
  let put := fun (p : Package) => { s with pkg := p }
  if Config.hostSpan ≤ page then s
  else if queued || p.migrThresh = 0 || c < p.migrThresh then put (p.putMigr page (migrWord queued c))
  else if p.noticeTail < p.noticeHead + 4096 then put ((p.putMigr page (migrWord true 0)).notify page ctx c)
  else put { p.putMigr page (migrWord false (p.migrThresh / 2)) with noticeDropped := p.noticeDropped + 1 }

/-- The driver has taken entries from the notification ring (R407). -/
def State.takeNotices (s : State) (n : Nat) : State :=
  { s with pkg := { s.pkg with noticeHead := min (s.pkg.noticeHead + n) s.pkg.noticeTail } }

/-- Counts the host-window sectors among the addresses of one request. -/
def State.migrTouch (s : State) (ctx : Nat) (pas : List Nat) : State :=
  let secs := ((pas.filter fun p => paKind p == .host).map (· / 128)).eraseDups
  let pages := (secs.map fun x => x % 2 ^ 41 / 512).eraseDups
  pages.foldl (fun s pg => s.migrAdd ctx pg (secs.filter fun x => x % 2 ^ 41 / 512 == pg).length) s

/-- The sectors, by physical address, of a run of bytes that a stall's port translates (R390). -/
def State.runPas (s : State) (st ctx va n : Nat) : List Nat :=
  (List.range ((va + n - 1) / 128 - va / 128 + 1)).filterMap fun k =>
    match s.pagePa st ctx (max va ((va / 128 + k) * 128)) with
    | .ok p => some p.1
    | .error _ => none

/-- The slices that serve the walk and the atomic which set a leaf's A, or its D for a write; none where they are set (R396, R398). -/
def State.markServed (s : State) (st ctx va : Nat) (wr : Bool) : State :=
  match s.walkVa ctx va with
  | .ok l =>
    let e := s.rdLE l.pte 8
    if e.testBit 5 && (!wr || e.testBit 6) then s else (s.served st ctx (s.walkReads ctx va) false).served st ctx [l.pte] true
  | .error _ => s

/-- Sets A and D of every page that a stall's access touches (R396). -/
def State.markAccess (s : State) (st ctx va n : Nat) (wr : Bool) : State :=
  let s := s.markServed st ctx va wr
  let s := if (va + n - 1) / 4096 = va / 4096 then s else s.markServed st ctx (va + n - 1) wr
  s.markPages ctx va n wr

/-- An access of a committed block or completed round sets A and D, and counts for migration at the addresses it used (R396, R406). -/
def State.accessDone (s : State) (st : Nat) (a : Acc) (wr : Bool) : State :=
  if a.size = 0 then s else (s.markAccess st a.ctx a.va a.size wr).migrTouch a.ctx (a.locs.map (·.pa))

end Sys2Proof.Machine
end

