-- ==== Sys2Proof/Machine/Nodes.lean ====
section
/-! DEFINITION. Node firing (12_frames.md R347, R348): the matching store of an instance, its keys in the call room and on the overflow
list (13_scheduling.md R361), and the frame a full key fires. -/
namespace Sys2Proof.Machine

/-! The matching store (R347, R348) -/

/-- Tokens of one key, in arrival order. -/
def Inst.toksOf (x : Inst) (node input : Nat) (tag : W16) : List Tok :=
  x.toks.filter fun t => t.node == node && t.input == input && t.tag == tag

/-- The tokens a firing takes, none where some input still lacks tokens. -/
def Inst.takes (x : Inst) (node : Nat) (tag : W16) : Option (List Tok) :=
  match x.nodes[node]? with
  | none => none
  | some nd =>
    let per := (List.range nd.nin).map fun k => ((nd.cons.getD k 0), x.toksOf node k tag)
    if per.all fun p => decide (p.1 ≤ p.2.length) then some (per.flatMap fun p => p.2.take p.1) else none

/-- Takes tokens away and returns their credits (R340, R347). -/
def Inst.consume (x : Inst) (ts : List Tok) : Inst :=
  let x := ts.foldl (fun (x : Inst) t => { x with toks := x.toks.erase t }) x
  let x := ts.foldl (fun (x : Inst) t =>
    { x with nodes := x.nodes.modify t.node fun nd => { nd with credits := nd.credits.modify t.input (· + 1) } }) x
  { x with count := x.count - ts.length }

/-- Credits of tokens that came from other packages go back there (R320). -/
def State.returnCredits (s : State) (i : Nat) (ts : List Tok) : State :=
  ts.foldl (fun s t => if t.arr.far then s.ueSend (.credit i t.node t.input) else s) s

/-- Firings so far of a node's key. -/
def Inst.firings (x : Inst) (node : Nat) (tag : W16) : Nat :=
  match x.nodes[node]? with
  | some nd => ((nd.fired.find? (·.1 == tag.toNat)).map (·.2)).getD 0
  | none => 0

/-- Report of a Starter (R235, R347, R348): the home stall, no block. -/
def State.starterReport (s : State) (x : Inst) (nd : Node) (cls : Cls) (tag : W16) : State :=
  s.report { Org.ofHall x.ctx 0 with stall := nd.home, heat := tag.toNat, inst := some x.iid } { cls := cls, eng := 6, heat := some tag.toNat }

/-- Fires a node on a key once every input holds its tokens (R347, R348) and the key stands in the call room (R361). -/
def State.fireNode (s : State) (i node : Nat) (tag : W16) (last : Arrival) : State :=
  match s.inst? i with
  | none => s
  | some x =>
    match x.nodes[node]?, x.takes node tag with
    | some nd, some ts =>
      if x.overflown node tag then s
      else if !s.heatLive x.ctx tag.toNat then
        (((s.returnCredits i ts).modInst i fun x => x.consume ts).starterReport x nd .heatRange tag).instSettle i
      else
        let n := x.firings node tag + 1
        if x.det && 128 ≤ n then s.starterReport x nd .depth tag
        else
          let ctr := decide (128 ≤ n)
          let fn := if ctr then BitVec.ofNat 64 (x.nodeSlot * 2 ^ 56 + node * 2 ^ 44 + tag.toNat * 2 ^ 28 + x.fnCtr % 2 ^ 28)
            else BitVec.ofNat 64 (x.nodeSlot * 2 ^ 56 + node * 2 ^ 44 + tag.toNat * 2 ^ 28 + n * 2 ^ 21)
          let s := (s.returnCredits i ts).modInst i fun x =>
            let x := x.consume ts
            { x with fnCtr := if ctr then x.fnCtr + 1 else x.fnCtr,
                     nodes := x.nodes.modify node fun nd =>
                       { nd with fired := (tag.toNat, n) :: nd.fired.filter (·.1 != tag.toNat) } }
          s.addFrame
            { Frame.blank x.ctx fn nd.home nd.blk last with
              regs := setRegs (Vector.replicate 32 0) 0 (ts.map (·.val)), ht := tag.toNat, prio := nd.prio, det := x.det, inst := some i,
              nodeLaunch := some x.nodeSlot, job := x.job, depth := if ctr then 8 else 5, counterFn := ctr, pinned := true, captured := ts.any (·.captured) }
    | _, _ => s

/-- The token that completes a firing: of those it takes, the one that arrived last (R429). -/
def Inst.completing (x : Inst) (ts : List Tok) : Arrival := ((x.toks.reverse.find? ts.contains).map (·.arr)).getD default

/-- Fires a node on a key as often as its tokens allow; a firing that is refused keeps them (R347, R348). -/
def State.fireKey (s : State) (i node : Nat) (tag : W16) : Nat → State
  | 0 => s
  | n + 1 =>
    match s.inst? i with
    | none => s
    | some x =>
      match x.takes node tag with
      | none => s
      | some ts =>
        let t := s.fireNode i node tag (x.completing ts)
        if (t.inst? i).map (·.toks) == some x.toks then t else t.fireKey i node tag n

/-- A key enters its hall's call room; it fires if it is full by now (R361). -/
def State.keyEnters (s : State) (i node : Nat) (tag : W16) : State :=
  let s := s.modInst i fun x => { x with ovf := x.ovf.filter fun e => !(e.1 == node && e.2.1 == tag) }
  match s.inst? i with
  | some x => if x.released then s.fireKey i node tag x.toks.length else s
  | none => s

/-- A token joins the matching store; the first of its key takes an entry of the call room, or stands on the overflow list of a full one
(R347, R361). -/
def State.joinKey (s : State) (i : Nat) (t : Tok) : State :=
  match s.inst? i with
  | none => s
  | some x =>
    let home := (x.nodes.getD t.node default).home
    let fresh := !x.toks.any fun u => u.node == t.node && u.tag == t.tag
    let late := fresh && s.roomFull (hallOfStall home) 0
    s.modInst i fun x =>
      { x with toks := x.toks ++ [t], ovf := if late then x.ovf ++ [(t.node, t.tag, ((s.stallD home).cyc : Int))] else x.ovf }

end Sys2Proof.Machine
end

