-- ==== Sys2Proof/Machine/Serve.lean ====
section
/-! DEFINITION. From call room to mapped block: serving (R363, R364), fetch (R366, R442), mapping with its checks and stops (R63,
R417, R49), speculative mapping (R370), and the arrival of operand tokens (R368). -/
namespace Sys2Proof.Machine

/-- A context runs: not pre-empted, nor blocked under R437 or R462, nor halted by its interface (R411), and no stall of its pitch is
suspect or absent (R4, R458). -/
def State.ctxRuns (s : State) (ctx : Nat) : Bool :=
  match s.ctx? ctx with
  | some c => !c.preempted && !c.blocked && !c.tdHalt && !c.params.pitch.any fun st => (s.stallD st).suspect
  | none => false

/-- A stall of an AVAILABLE hall runs for its owner (R452, R461). -/
def State.stallRuns (s : State) (st : Nat) : Bool :=
  match s.stall? st with
  | some x => !x.saved && (s.hallD (hallOfStall st)).st == .available && (match x.owner with | some c => s.ctxRuns c | none => false)
  | none => false

/-- Blocks mapped on the stall's engine and resident frames still to map one (R366: at most 4). -/
def State.engineUse (s : State) (st : Nat) : Nat :=
  (s.mappedOn st).length +
    (s.frames.filter fun f => f.stall == st && f.place == .resident &&
      !s.blocks.any fun b => b.fid == f.fid && !b.spec && !b.parked).length

/-- The frame's block in flight that is not speculative. -/
def State.blockOf (s : State) (fid : Nat) : Option Block := s.blocks.find? fun b => b.fid == fid && !b.spec

/-- The writes of the frame that created a frame come before its first block (R215). -/
def State.creatorDone (s : State) (f : Frame) : Bool :=
  match f.creator with
  | some c => s.behind c f.fid
  | none => true

/-- The writes of the handler frame that let a held frame go on come before its next block (R215, R450). -/
def State.resumerDone (s : State) (f : Frame) : Bool :=
  match f.resumer with
  | some (c, n) => s.behind c n
  | none => true

/-- A ready frame: in the call room, not held, not stopped, and of an instance whose sources are released (R321, R361, R420, R434). -/
def State.frameReady (s : State) (f : Frame) : Bool :=
  f.place == .callroom && !f.held && f.stopped.isNone && s.creatorDone f && s.resumerDone f &&
    (match f.inst.bind s.inst? with | some i => i.released | none => true)

/-- When a frame began to wait, on a scale that frames of several stalls share: each counts its own cycles (R5, R363). -/
def State.waitKey (s : State) (f : Frame) : Int := f.since - (s.stallD f.stall).cyc

/-- The least of some frames under the serving key (R363), and whether the next choice between the kinds falls to FREE frames. -/
def State.serveKey (s : State) (turn : Bool) (l : List Frame) : Option (Frame × Bool) :=
  match leastBy s.waitKey (l.filter fun f => decide (f.since + 65536 ≤ (s.stallD f.stall).cyc)) with
  | some f => some (f, turn)
  | none =>
    match leastBy (fun f => f.prio) l with
    | none => none
    | some p =>
      let cls := l.filter (·.prio == p.prio)
      let det := leastBy (fun f => f.fn.toNat) (cls.filter (·.det))
      let free := leastBy s.waitKey (cls.filter (!·.det))
      match det, free with
      | some d, some f => if turn then some (f, false) else some (d, true)
      | some d, none => some (d, turn)
      | none, some f => some (f, turn)
      | none, none => none

/-- The frame a stall takes (R363). -/
def State.servePick (s : State) (st : Nat) : Option (Frame × Bool) :=
  s.serveKey (s.stallD st).detTurn (s.frames.filter fun f => f.stall == st && s.frameReady f)

/-- Records of 512 bytes that a stall's share of the frame area takes beside its tile backing (R364, R455; log 118). -/
def Ctx.spillShare (c : Ctx) : Nat := c.shareLen / 512

/-- Where a spilled record of a stall goes: its frame-spill banks, 32 records each, then its share of the frame area (R364). -/
def State.spillRoom (s : State) (st : Nat) : Option Bool :=
  let held := fun (b : Bool) => (s.frames.filter fun f => f.stall == st && f.spill == some b).length
  let x := s.stallD st
  if held true < 32 * (x.roles.filter (· == 2)).length then some true
  else if held false < ((x.owner.bind s.ctx?).map (·.spillShare)).getD 0 then some false
  else none

/-- Makes a record of the frame table free: it spills one whose frame has no block mapped (R364). -/
def State.spillOne (s : State) (st : Nat) : Option State :=
  if (s.frames.filter fun f => f.stall == st && f.inTable).length < 64 then some s
  else
    match s.frames.find? (fun f => f.stall == st && f.inTable && !s.blocks.any fun b => b.fid == f.fid && !b.parked), s.spillRoom st with
    | some f, some b => some (s.modFrame f.fid fun f => { f with inTable := false, spill := some b })
    | _, _ => none

/-- The record for a frame that is taken. An inline child runs as a call: where no record can be made free it runs in its parent's place
(R346, log 136). -/
def State.recordFor (s : State) (st : Nat) (f : Frame) : Option State :=
  match s.spillOne st, f.parent with
  | some s, _ => some s
  | none, some p => (s.modFrame p fun p => { p with inTable := false, spill := none }).spillOne st
  | none, none => none

/-- FRAME_SERVE (R363, R364): a parked block that was released is on the engine again. -/
def execFrameServe (st : Nat) (s : State) : Out :=
  .next <|
    if !s.stallRuns st || decide (4 ≤ s.engineUse st) then s
    else
      match s.servePick st with
      | none => s
      | some (f, turn) =>
        match s.recordFor st f with
        | none => s
        | some s =>
          let s := s.modStall st fun x => { x with detTurn := turn }
          let s := s.modFrame f.fid fun f => { f with place := .resident, inTable := true, spill := none }
          match s.blockOf f.fid with
          | some b => (s.modBlock b.bid fun b => { b with parked := false }).settleBlock b.bid
          | none => s

/-- The frame belongs to a launch that is still gated (R361). -/
def State.launchGated (s : State) (f : Frame) : Bool := ((f.launch.bind (s.launch? f.ctx)).map (·.gated)).getD false

/-- Overflowed keys of a hall, ranked as FREE frames of their node's class (log 128): `next` is the node, `ht` the tag. -/
def State.overKeys (s : State) (hall : Nat) : List Frame :=
  s.insts.flatMap fun i => i.ovf.filterMap fun e =>
    let nd := i.nodes.getD e.1 default
    if hallOfStall nd.home != hall then none
    else some { Frame.blank i.ctx 0 nd.home e.1 default with inst := some i.iid, ht := e.2.1.toNat, prio := nd.prio, since := e.2.2 }

/-- CALLROOM_OVERFLOW_ENTRY (R361): the overflowed frame or key of least serving key enters as space frees. -/
def execCallroomOverflowEntry (hall : Nat) (s : State) : Out :=
  .next <|
    if 8192 ≤ s.callRoom hall 0 then s
    else
      match s.serveKey (s.hallD hall).overTurn ((s.frames.filter fun f => f.ctxHall == hall && f.place == .overflow) ++ s.overKeys hall) with
      | none => s
      | some (f, turn) =>
        let p : Place := if s.launchGated f then .gated else .callroom
        let s := s.modHall hall fun h => { h with overTurn := turn }
        if f.fid = 0 then s.keyEnters (f.inst.getD 0) f.next (BitVec.ofNat 16 f.ht)
        else s.modFrame f.fid fun f => { f with place := p }

/-! Stops (R420) -/

/-- The notice of a stop: the entry of KIND 7 (R420). -/
def Frame.notice (f : Frame) (reason cookie : Nat) : CqEntry :=
  { cookie := cookie, status := 0, kind := 7, job := 0, detail := f.fref + reason * 2 ^ 24, frees := none }

/-- Stops a frame before its next block and posts the notice; a frame asked to halt that stops for another reason posts the notice of
reason 7 as well (R421). -/
def State.stopFrame (s : State) (f : Frame) (reason cookie : Nat) : State :=
  let s := (s.modFrame f.fid fun f =>
    { f with stopped := some reason, fetched := none, fetching := false, halt := false, stp := false }).leaveEngine f.fid
  let s := s.post f.ctx (f.notice reason cookie)
  if f.halt && reason != 7 then s.post f.ctx (f.notice 7 0) else s

/-- The checks of R417 apply to the next mapping: debuggable, not passed over, and before iteration 0 of a loop. -/
def State.watched (s : State) (f : Frame) : Bool :=
  ((s.ctx? f.ctx).map (·.params.debuggable)).getD false && !f.pass && (match f.loop with | some (i, _) => i == 0 | none => true)

/-- An enabled breakpoint entry names the address (R416). -/
def Ctx.bpHit (c : Ctx) (a : Nat) : Bool := c.bps.any fun e => e.getLsbD 0 && bits e.toNat 55 4 == a / 16

/-! Fetch (R366, R442) -/

/-- Translates the pages of a fetch: the pages' bytes, a page to walk, or a fault. -/
inductive FetchResult where
  | bytes (b : List Byte)
  | walk (va : Nat)
  | fault (c : Cls) (va : Nat) (straddle : Bool)
  deriving Repr, Inhabited

/-- One page's piece of a fetch. -/
def State.fetchPiece (s : State) (st ctx va n : Nat) : FetchResult :=
  match s.lookupVa st ctx va with
  | none => .walk va
  | some (pa, a) =>
    if !a.x then .fault .fetchNoexec va false
    else if (List.range ((n + 127) / 128 + 1)).any fun i => s.sectorLost (pa + min (128 * i) (n - 1)) then .fault .dataError va false
    else .bytes (getBytes s.mem pa n)

/-- A run of bytes that may cross one page boundary (R39, R442). -/
def State.fetchRun (s : State) (st ctx va n : Nat) : FetchResult :=
  let n0 := min n (4096 - va % 4096)
  match s.fetchPiece st ctx va n0 with
  | .bytes b0 =>
    if n0 = n then .bytes b0
    else
      match s.fetchPiece st ctx (va + n0) (n - n0) with
      | .bytes b1 => .bytes (b0 ++ b1)
      | .walk v => .walk v
      | .fault c v _ => .fault c v true
  | r => r

/-- The block at an address, whole: the header's ICNT says how long it is; an ICNT out of range brings the header alone, which
mapping refuses (R63). -/
def State.fetchBlock (s : State) (st ctx va : Nat) : FetchResult :=
  match s.fetchRun st ctx va 16 with
  | .bytes h =>
    let n := bits (ofBytes h) 11 4
    if n = 0 || 128 < n then .bytes h else s.fetchRun st ctx va (16 + 8 * n)
  | r => r

/-- The bytes a fetch delivers (R67, R378): memory's, which its slices serve and the block cache takes, or any of those fetched from
the address since the cache was last empty. -/
def State.fetchVersion (s : State) (st ctx va : Nat) (b : List Byte) (stale : Bool) : List Byte × State :=
  let old := ((s.stallD st).bcache.filter (·.1 == va)).map (·.2)
  if !stale || old.isEmpty then
    let s := s.served st ctx (s.runPas st ctx va b.length) false
    (b, if old.contains b then s else s.modStall st fun x => { x with bcache := (va, b) :: x.bcache })
  else match s.choose (List.range old.length) with
    | (some k, s) => (old.getD k b, s)
    | (none, s) => (b, s)

/-- BLOCK_FETCH (R366): a matching breakpoint stops the frame first (R417). -/
def execBlockFetch (fid : Nat) (stale : Bool) (s : State) : Out :=
  .next <|
    match s.frame? fid with
    | none => s
    | some f =>
      if f.place != .resident || f.fetched.isSome || f.fetching || (s.blockOf fid).isSome || !s.stallRuns f.stall then s
      else if s.watched f && ((s.ctx? f.ctx).map (·.bpHit f.next)).getD false then s.stopFrame f 1 0
      else
        match s.fetchBlock f.stall f.ctx f.next with
        | .bytes b =>
          let (b, s) := (s.translated f.stall f.ctx f.next).fetchVersion f.stall f.ctx f.next b stale
          s.modFrame fid fun f => { f with fetched := some (f.next, b) }
        | .walk va =>
          let s := { s with walks := s.walks ++ [(⟨s.nextId, f.ctx, va, f.stall, .fetch fid, false, f.ht, f.next⟩ : Walk)], nextId := s.nextId + 1 }
          s.modFrame fid fun f => { f with fetching := true }
        | .fault c va st => s.mapFault fid 0xFF { cls := c, va := va, straddle := st }

/-! Mapping -/

/-- A freshly mapped block: every slot armed, every operand field empty (R42, R49). -/
def Block.fresh (bid fid addr : Nat) (bs : List Byte) (iter cyc : Nat) : Block :=
  let words := (pieces 8 ((bs.length - 16) / 8) (bs.drop 16)).map fun w => BitVec.ofNat 64 (ofBytes w)
  { bid := bid, fid := fid, addr := addr, hdr := BitVec.ofNat 128 (ofBytes (bs.take 16)), words := words,
    slots := words.map fun _ => ⟨none, none, none, false⟩, transit := [], effs := [], gws := [], lsids := [], exits := [],
    fflags := 0, aflags := 0, waits := [], zeroed := [], iter := iter, spec := false, specOrigin := false, pred := none,
    parked := false, seen := [], fences := [], mapCyc := cyc, lastArr := none, ninstr := 0, guess := false, entry := [] }

def isBkpt (p : SlotWord) : Option (BitVec 8) :=
  match p with
  | .instr (.bkpt _ c) => some c
  | _ => none
/-- The first BKPT of a block: its slot and code. -/
def Block.bkpt? (b : Block) : Option (Nat × BitVec 8) :=
  let ps := b.parsed
  (List.range ps.length).findSome? fun n => (isBkpt (ps.getD n .second)).map fun c => (n, c)

/-- The exit target of a loop block (R40, R50); one outside the 56-bit addresses is taken modulo 2^56 (DESIGN CHOICE, log 126). -/
def Block.exitTarget (b : Block) : Nat := (((b.addr : Int) + sext (b.hdrBits 119 96) 24 * 16) % (2 : Int) ^ 56).toNat
/-- Loop count register (R49). -/
def Block.lcr (b : Block) : Nat := b.hdrBits 24 20

/-- The breach of a block at its mapping (R483). -/
def Block.breach? (b : Block) : Option (Nat × Nat) := mapBreach b.hdr.toNat b.words

/-- BLOCK_MAP: breaches fault (R63); DEBUG-STOP and BKPT stop a debuggable frame, BKPT faults another (R417, R419); a loop reads
its count at entry, and a count of 0 passes control on (R49). -/
def execBlockMap (fid : Nat) (s : State) : Out :=
  .next <|
    match s.frame? fid with
    | none => s
    | some f =>
      match f.fetched with
      | none => s
      | some (a, bs) =>
        if f.place != .resident || a != f.next || (s.blockOf fid).isSome || !s.stallRuns f.stall ||
            decide (4 ≤ (s.mappedOn f.stall).length) then s
        else
          let b := Block.fresh s.nextId fid a bs ((f.loop.map (·.1)).getD 0) (s.stallD f.stall).cyc
          let first := match f.loop with | some (i, _) => i == 0 | none => true
          let o := f.org a 0xFF b.iter b.keep
          let stopAs := fun (r code : Nat) =>
            (((s.count f.stall 2 1).birty o 2 (2 * 2 ^ 16 + 0xFF * 2 ^ 20)).stopFrame f r code)
          match b.breach? with
          | some (c, sl) => s.mapFault fid sl { cls := .illegal, extra := BitVec.ofNat 64 c }
          | none =>
            if s.watched f && b.debugStop then stopAs 3 0
            else
              match (if first && !f.pass then b.bkpt? else none) with
              | some (sl, code) =>
                if s.watched f then stopAs 2 code.toNat
                else s.mapFault fid sl { cls := .breakpoint, extra := BitVec.ofNat 64 code.toNat }
              | none =>
                let n := (f.regs.getD b.lcr 0).toNat % 2 ^ 32
                if b.isLoop && f.loop.isNone && n == 0 then
                  s.modFrame fid fun f => { f with next := b.exitTarget, fetched := none, pass := false }
                else
                  let lp := if b.isLoop then (match f.loop with | some l => some l | none => some (0, n)) else none
                  let s := { s with blocks := s.blocks ++ [{ b with entry := s.handlerRegs f }], nextId := s.nextId + 1 }
                  s.modFrame fid fun f => { f with loop := lp, pass := false }

/-- An instruction past whose block the predictor does not go (R371). -/
def endsPrediction : Instr → Bool
  | .fend _ | .eret _ | .eretEnd _ | .eretRedir _ | .svc _ _ => true
  | _ => false

/-- The last block of a frame's chain of mapped blocks. -/
def State.lastBlock (s : State) (fid : Nat) : Option Block :=
  s.blocks.find? fun b => b.fid == fid && !s.blocks.any fun c => c.fid == fid && c.pred == some b.bid

/-- SPECULATIVE_MAP (R370): only from translations at hand, without checks of R417 and without a record; a block that would fault
ILLEGAL is dropped without trace (R66). -/
def execSpeculativeMap (fid addr : Nat) (s : State) : Out :=
  .next <|
    match s.frame? fid, s.blockOf fid, s.lastBlock fid with
    | some f, some b0, some p =>
      if b0.parked || addr % 16 != 0 || decide (2 ^ 56 ≤ addr) || !s.stallRuns f.stall || decide (4 ≤ s.engineUse f.stall) ||
          decide (3 ≤ (s.blocks.filter fun b => b.fid == fid && b.spec).length) || p.isLoop ||
          p.parsed.any (fun w => match w.instr? with | some i => endsPrediction i | none => false) then s
      else
        match s.fetchBlock f.stall f.ctx addr with
        | .bytes bs =>
          let (bs, s) := s.fetchVersion f.stall f.ctx addr bs (Config.pick s.draws % 2 == 1)
          let s := { s with draws := s.draws + 1 }
          let b := Block.fresh s.nextId fid addr bs 0 (s.stallD f.stall).cyc
          if b.breach?.isSome || b.isLoop || b.bkpt?.isSome || b.debugStop then s
          else { s with blocks := s.blocks ++ [{ b with spec := true, specOrigin := true, pred := some p.bid }], nextId := s.nextId + 1 }
        | _ => s
    | _, _, _ => s

/-! Operand tokens (R368) -/

/-- The later of two arrivals: the later cycle, then the lower slot (R429). -/
def laterArr (old : Option (Nat × Nat × Arrival)) (cyc slot : Nat) (a : Arrival) : Option (Nat × Nat × Arrival) :=
  match old with
  | some (c, n, x) => if c < cyc || (c == cyc && slot < n) then some (cyc, slot, a) else some (c, n, x)
  | none => some (cyc, slot, a)

/-- OPERAND_TOKEN_ARRIVAL (R46, R47, R368). -/
def execOperandTokenArrival (bid k : Nat) (s : State) : Out :=
  .next <|
    match s.block? bid with
    | none => s
    | some b =>
      match s.frame? b.fid, b.transit[k]? with
      | some f, some t =>
        if b.parked || !s.stallRuns f.stall then s
        else
          match (b.slotD t.slot).put t.fld t.val with
          | none => s.blockFault bid t.src (blockForm 1)
          | some x =>
            (s.modBlock bid fun b =>
              { b with slots := b.slots.set t.slot x, transit := b.transit.eraseIdx k,
                       lastArr := laterArr b.lastArr (s.stallD f.stall).cyc t.slot t.arr }).settleBlock bid
      | _, _ => s

end Sys2Proof.Machine
end

