-- ==== Sys2Proof/Machine/Commit.lean ====
section
/-! DEFINITION. Commit (R46, R369): what a complete block does all at once, in the order of R27 and R46, and what becomes of its frame
afterwards: the next block or iteration (R50), its end (R138), an SVC stop (R447), a return from a fault (R450), a stop (R418), a
pending reclamation (R342), speculation (R370). -/
namespace Sys2Proof.Machine

/-! When a block may commit -/

def insertEff (e : Nat × Effect) : List (Nat × Effect) → List (Nat × Effect)
  | [] => [e]
  | a :: l => if e.1 < a.1 then e :: a :: l else a :: insertEff e l
/-- The effects in slot order; those of one slot keep their order (R46). -/
def Block.ordered (b : Block) : List (Nat × Effect) := b.effs.foldl (fun l e => insertEff e l) []

def Effect.inbox? : Effect → Option Inbox
  | .msg i _ _ => i.inbox?
  | _ => none

/-- Every inbox has room for all the block's entries (R263). -/
def State.roomFor (s : State) (b : Block) (f : Frame) : Bool :=
  [Inbox.pa, .vec, .spe, .porter, .tile].all fun k =>
    decide ((b.effs.filter fun e => e.2.inbox? == some k).length ≤ (s.stallD f.stall).room k)

/-- Credits left at a node input (R340). -/
def State.credits (s : State) (inst node input : Nat) : Nat :=
  match s.inst? inst with
  | some i => ((i.nodes.getD node default).credits).getD input 0
  | none => 0

/-- Every input the block's SENDs name holds a credit for each of its tokens (R340). -/
def State.creditsFor (s : State) (b : Block) : Bool :=
  b.effs.all fun e =>
    match e.2 with
    | .send i n k _ _ =>
      decide ((b.effs.filter fun d => match d.2 with | .send i' n' k' _ _ => i' == i && n' == n && k' == k | _ => false).length ≤
        s.credits i n k) || (s.inst? i).isNone
    | _ => true

/-- A full trace ring under STALL holds the events of traced frames that would write (R427). -/
def State.traceHolds (s : State) (o : Org) (ty : Nat) : Bool :=
  match s.ctx? o.ctx with
  | some c => c.params.debuggable && c.trace.en && c.trace.typeOn ty && (!c.trace.scopeCaptured || o.capt) && !c.trace.drop &&
      (s.ringFull c || !c.trace.waiting.isEmpty)
  | none => false

/-! The effects -/

/-- Effects that perform at a home after the commit (R234): they leave before the block's other effects, so that what these release to
other parties comes behind every write of the block, whatever the order of the slots (R215, R252). -/
def Effect.isWrite : Effect → Bool
  | .store _ _ _ _ | .atomic _ | .mcast _ _ _ _ _ | .hurdle _ _ _ _ | .fset _ _ _ => true
  | _ => false

/-- The block's effects in the order in which they apply: its writes, then the rest, each in slot order (R46, R215). -/
def Block.applied (b : Block) : List (Nat × Effect) :=
  b.ordered.filter (·.2.isWrite) ++ b.ordered.filter (!·.2.isWrite)

/-- The scope of the instruction in a slot (R222). -/
def Block.scopeAt (b : Block) (n : Nat) : Scope := ((b.instr? n).map (·.scope)).getD .sys

/-- A misaligned access is a set of one-byte accesses (R210). -/
def Acc.split (a : Acc) : Bool := a.va % a.size != 0
/-- Byte `i` of an access. -/
def Acc.byte (a : Acc) (i : Nat) : Acc := { a with va := a.va + i, size := 1, locs := [a.locs.getD i default] }

/-- A WPR or register write's home, a store's or a multicast's, all leave as traffic with the instruction's MSQ. -/
def Org.at (o : Org) (slot heat : Nat) : Org := { o with slot := slot, heat := heat }

/-- Stores of a heat that HT.END frees keep only their bytes on other pages (R252). -/
def trimHeat (ctx tag : Nat) (w : Flight) : Option Flight :=
  match w.cargo with
  | .store a d r mc =>
    if w.org.ctx == ctx && a.heat == tag then
      let keep := (a.locs.zip (bytesLE d.toNat a.locs.length)).filter fun e => !e.1.hp
      if keep.isEmpty then none
      else some { w with cargo := .store { a with heat := 0, locs := keep.map (·.1) } (BitVec.ofNat 64 (ofBytes (keep.map (·.2)))) r mc }
    else some w
  | _ => some w

/-- The message of an instruction as it leaves at commit (R46, R105, R112, R120, R262). -/
def messageOf (f : Frame) (o : Org) (pos : Nat) (i : Instr) (l r : W64) : Msg :=
  { i := i, l := l, r := r, pp := f.pp, rm := fcsrRm f.fcsr, spc := f.spc, pos := pos, org := o, folds := i.foldTiles,
    seq := match i with
      | .pmmaI _ p | .pmmaS _ p | .pmmaX _ p | .pmvI _ p | .pmvS _ p | .pmvX _ p => if p.sq then some (l.toNat % 4096) else none
      | .pzacc _ _ sq _ => if sq then some (l.toNat % 4096) else none
      | _ => none }

/-- A message enters its inbox; the frame owes its folds, the levels count a porter job (R17, R106). -/
def State.sendMsg (s : State) (m : Msg) : State :=
  let s := s.modStall m.org.stall fun x => x.enqueue m
  let s := s.modFrame m.org.fid fun f => { f with folds := f.folds + m.folds.length }
  if m.i.inbox? == some .porter && !m.i.isBar then s.countUp m.org true else s

/-- LAUNCH at commit (R336). -/
def State.startLaunch (s : State) (f : Frame) (o : Org) (slot : Nat) (word arg : W64) : State :=
  let n := bits word.toNat 63 56 + 1
  let det := match f.inst with | some i => ((s.inst? i).map (·.det)).getD f.det | none => f.det
  let s := s.modLaunch f.ctx slot fun l =>
    { l with live := true, det := det, by_ := some f.fid, inst := f.inst, job := f.job,
             cancelled := l.cancelled || s.bornCancelled f.ctx f.inst f.job }
  let tmpl : Frame :=
    { Frame.blank f.ctx 0 0 (bits word.toNat 55 4 * 16) ⟨6, o.fn, o.bsq, o.stall, false⟩ with
      ht := f.ht, pp := f.pp, fcsr := f.fcsr &&& 7, spc := f.spc, prio := bits word.toNat 3 2, det := det, launch := some slot,
      inst := f.inst, nodeLaunch := none, job := f.job, creator := some f.fid, captured := f.captured }
  s.rootFrames tmpl slot (!det && decide (127 < n)) arg (fun _ => f.ctxHall) n 0

/-- Part-to-part traffic of a key (R310). -/
def Cargo.ofKey (i : Nat) (k : W16) : Cargo → Bool
  | .forward i' k' _ _ _ _ _ _ | .partValue i' k' _ _ _ _ _ | .result i' k' _ _ _ _ => i' == i && k' == k
  | _ => false

/-- A report of a hall's reduction table or remote store (R235, R438). -/
def State.hallReport (s : State) (o : Org) (hall : Nat) (cls : Cls) (extra : W64) : State :=
  s.report { o with stall := hall * 512 + 0x1FF } { cls := cls, eng := 7, extra := extra }

/-- The handle of an object (R305). -/
def Red.handle (r : Red) : W64 := BitVec.ofNat 64 (r.hall * 2 ^ 14 + r.slot)

/-- No part of a key's object is left: none here, and each of its `n` parts that lies in another package has been freed there (R310). -/
def State.keyGone (s : State) (i key n : Nat) : Bool :=
  (!s.reds.any fun (x : Red) => x.inst == some i && bits x.desc.toNat 34 32 != 0 && bits x.desc.toNat 63 48 == key) &&
    (s.inst? i).all fun x => (List.range n).all fun p => decide (x.parts.getD p 0 < 4) || x.freed.any fun e => e.1 == key && e.2.1 == p

/-- What travels or waits for a key of which no part is left reaches a freed object: it is dropped, with a report each (R305). -/
def State.dropKey (s : State) (i : Nat) (key : W16) (hall : Nat) (h : W64) : State :=
  let gone := (s.flight.filter fun w => w.cargo.ofKey i key).map (·.org) ++
    ((s.inst? i).elim [] fun x => (x.waits.filter fun w => w.1.key == key).map fun w => w.1.org)
  let s := { s with flight := s.flight.filter fun w => !w.cargo.ofKey i key }.modInst i fun x =>
    { x with waits := x.waits.filter fun w => w.1.key != key, freed := x.freed.filter (fun e => e.1 != key.toNat),
             broken := x.broken.erase key.toNat }
  gone.foldl (fun s o => s.hallReport o hall .redState h) s

/-- A part of a key's object has been freed: it is noted, and the key is free once no part is left (R305, R310). -/
def State.partFreed (s : State) (i key part n handle hall : Nat) : State :=
  let s := s.modInst i fun x => { x with freed := (key, part, handle) :: x.freed }
  if s.keyGone i key n then s.dropKey i (BitVec.ofNat 16 key) hall (BitVec.ofNat 64 handle) else s

/-- Frees a reduction object (R305, R310); parts in other packages hear of it. -/
def State.dropRed (s : State) (hall slot : Nat) : State :=
  match s.red? hall slot with
  | none => s
  | some r =>
    let s := { s with reds := s.reds.filter fun r => !(r.hall == hall && r.slot == slot) }
    let key := bits r.desc.toNat 63 48
    match r.inst with
    | some i =>
      if bits r.desc.toNat 34 32 = 0 then s
      else
        let n := 2 ^ bits r.desc.toNat 34 32
        let far := (s.inst? i).any fun x => x.parts.any fun h => decide (4 ≤ h)
        (if far then s.ueSend (.redFree i (BitVec.ofNat 16 key) r.part n) else s).partFreed i key r.part n r.handle.toNat hall
    | none => s

def Fwd.cargo (i : Nat) (x : Fwd) : Cargo :=
  match x.cov with
  | none => .forward i x.key x.part x.lvl x.idx x.val x.desc x.flags
  | some n => .partValue i x.key x.part n x.val x.desc x.flags

/-- An object becomes live: what waited for the part goes on to it (R305, R310). -/
def State.liveRed (s : State) (hall slot : Nat) : State :=
  let s := s.modRed hall slot fun r => { r with live := true }
  match s.red? hall slot with
  | none => s
  | some r =>
    let key := bits r.desc.toNat 63 48
    match (if bits r.desc.toNat 34 32 = 0 then none else r.inst) with
    | none => s
    | some i =>
      -- a part of an object that has broken is broken too (R310, R313)
      let s := if (s.inst? i).any fun x => x.broken.contains key then s.modRed hall slot fun r => { r with broken := true } else s
      let mine := fun (w : Fwd × Bool) => w.1.key.toNat == key && w.1.part == r.part
      let ws := (s.inst? i).elim [] fun x => x.waits.filter mine
      let s := s.modInst i fun x =>
        { x with waits := x.waits.filter fun w => !mine w, freed := x.freed.filter fun e => !(e.1 == key && e.2.1 == r.part) }
      ws.foldl (fun s w => s.ship w.1.org 0 (w.1.cargo i)) s

/-- A token to another context's ingress: a TOKEN packet that waits at the port of the context named (R339, R352; log 8), behind the
sender's writes on their way (R215). Its tag is the word's or the sender's heat. -/
def State.sendGrant (s : State) (from_ heat ctx : Nat) (bar : List Nat) (w v : W64) : State :=
  let idx := bits w.toNat 31 20
  let tag := if w.getLsbD 35 then bits w.toNat 15 0 else heat % 2 ^ 16
  let dest := 2 ^ 35 + (Config.grantNode from_ idx).toNat * 2 ^ 20 + bits w.toNat 18 16 * 2 ^ 16 + tag
  s.modCtx ctx fun c => { c with packets := c.packets ++
    [{ slotted := false, bar := bar, words := [2, BitVec.ofNat 64 (Config.grantImage from_ idx).toNat, BitVec.ofNat 64 dest, v, 0, 0, 0, 0] }] }

/-- One effect of a block at its commit. `pos` is the commit position (R262). -/
def State.applyEffect (s : State) (o : Org) (pos : Nat) (e : Nat × Effect) : State :=
  match s.frame? o.fid with
  | none => s
  | some f =>
    let oo := o.at e.1 f.ht
    match e.2 with
    | .store lsid a d rel =>
      if a.split then
        (List.range a.size).foldl (fun s i => s.ship (o.at e.1 a.heat) (msqOf o.bsq lsid) (.store (a.byte i) (d >>> (8 * i)) rel false)) s
      else s.ship (o.at e.1 a.heat) (msqOf o.bsq lsid) (.store a d rel false)
    | .atomic op =>
      match s.ops.find? (·.oid == op) with
      | some m =>
        (match m.kind with
         | .atomic i opnd nw _ rel =>
           let old := m.old.getD 0
           let wr := match i with | .cas _ _ => if old == opnd then some nw else none | _ => some nw
           s.ship (o.at e.1 m.acc.heat) (msqOf o.bsq m.lsid) (.atomicWrite m.acc old wr rel)
         | .load _ _ _ => s)
      | none => s
    | .mcast lsid a d rel entries =>
      let s := s.ship (o.at e.1 a.heat) (msqOf o.bsq lsid) (.store a d rel true)
      entries.foldl (fun s w => s.ship (o.at e.1 a.heat) (msqOf o.bsq lsid) (.mcast w a.size d rel)) s
    | .hurdle lsid a k n => s.ship (o.at e.1 a.heat) (msqOf o.bsq lsid) (.hurdle a k n false)
    | .csrw _ _ | .ppset _ _ | .mark _ _ | .yld | .svc _ _ => s
    | .spawn cell blk arg extra => s.spawnChild f o cell blk arg extra
    | .fref cell n kind a =>
      let s := if kind == 1 then s else s.modFrame f.fid fun f => { f with holds := holdAdd f.holds cell n }
      if kind == 2 then s else s.ship oo 0 (.reach cell a.pa true n)
    | .fdrop cell a => (s.modFrame f.fid fun f => { f with holds := holdAdd f.holds cell (-1) }).ship oo 0 (.reach cell a.pa false 1)
    | .fset lsid a v => s.ship (o.at e.1 a.heat) (msqOf o.bsq lsid) (.fset a v)
    | .launch slot w arg => s.startLaunch f o slot w arg
    | .cancel lvl obj status => if status == 0 then s.ship oo 0 (.level lvl obj 1) else s
    | .send i n k tag v => s.sendTok oo i n k tag v
    | .sendIngress c w v => s.sendGrant f.ctx o.heat c ((s.flight.filter fun x => x.cargo.isWrite && x.org.fid == f.fid).map (·.id)) w v
    | .heatNew tag => s.modHeat f.ctx tag fun h => { h with live := true }
    | .heatEnd => { s.freeHeat f.ctx f.ht with flight := s.flight.filterMap (trimHeat f.ctx f.ht) }
    | .heatCancel tag => s.ship oo 0 (.level 3 tag 2)
    | .msg i l r => s.sendMsg (messageOf f oo pos i l r)
    | .tgetFold fl => s.modFrame f.fid fun f => { f with af := f.af ||| fl }
    | .red hall slot rid lvl idx v => s.ship oo 0 (.contribution hall slot rid lvl idx v)
    | .rdinit slot => s.liveRed f.ctxHall slot
    | .rdfree hall slot rid =>
      if (s.red? hall slot).all fun r => r.rid != rid then s
      else
        let s := s.dropRed hall slot
        -- an RDWAIT parked on the object faults as it is released (R305)
        s.blocks.foldl (fun s b => match b.waits.find? fun w => w.2 == .red hall slot with
          | some w => s.blockFault b.bid w.1 { cls := .redState, extra := BitVec.ofNat 64 (hall * 2 ^ 14 + slot) }
          | none => s) s

/-- A CSRW or PPSET at commit (R27, R127, R444). -/
def applyCsr (f : Frame) (e : Nat × Effect) : Frame :=
  match e.2 with
  | .csrw 3 v => { f with pp := (v.setWidth 13) &&& 0x1F1F }
  | .csrw 4 v => { f with fcsr := (v.setWidth 9) &&& 0x1F7 }
  | .csrw 5 v => { f with af := v.setWidth 5 }
  | .csrw 6 v => { f with spc := (v.setWidth 18) &&& 0x307FF }
  | .csrw 7 v => { f with spf := v.setWidth 4 }
  | .ppset a b => { f with pp := b ++ (0 : BitVec 3) ++ a }
  | _ => f

/-- Registers, control registers and sticky flags at commit (R27, R46, R136). -/
def Block.commitRegs (b : Block) (f : Frame) : Frame :=
  let regs := b.gws.foldl (fun r g => match g.2.2 with | some v => r.setIfInBounds g.1 v | none => r) f.regs
  let regs := b.exits.foldl (fun r e => match e.2 with | .call _ ret => r.setIfInBounds 30 (BitVec.ofNat 64 ret) | _ => r) regs
  let f := b.ordered.foldl applyCsr { f with regs := regs }
  { f with fcsr := orFcsr f.fcsr b.fflags, af := f.af ||| b.aflags }

/-! Returning from a fault (R450) -/

/-- Applies the ERET of a handler frame `fid` to its record. -/
def State.returnFrom (s : State) (fid : Nat) (r : Rec) (form l : Nat) (g0 : W64) : State :=
  let s := match r.heldFid.bind s.frame? with
    | some h =>
      if !h.held then s
      else match form with
        | 0 => s.unhold h.fid fid
        | 1 => s.endFrame h.fid false
        | _ => (s.modFrame h.fid fun f =>
            { f with regs := f.regs.setIfInBounds 0 g0, next := l, loop := none, fetched := none }).unhold h.fid fid
    | none => s
  let s := match r.jobRef with
    | some (st, id) =>
      if form = 0 then s.modStall st fun x => { x with jobs := x.jobs.map fun (j : Job) =>
          if j.id == id && j.st == JobSt.paused then { j with st := .running } else j }
      else s.abandonJob st id 3
    | none => s
  s.freeRec r

/-- A handler frame ends: its ERET, or ERET.end when it ended by FEND, is applied (R450). -/
def State.endHandler (s : State) (f : Frame) (form l : Nat) (g0 : W64) : State :=
  let s := match f.record.bind fun k => s.recs.find? (·.rid == k) with
    | some r => s.returnFrom f.fid r form l g0
    | none => s
  s.endFrame f.fid false

/-! After the commit -/

/-- EID of an exit (R54, R425). -/
def eidOf : Instr → Nat
  | .bro _ e _ | .bri _ e | .call _ e _ | .ret _ e => e.toNat
  | _ => 0

/-- XW of a commit record (R425). -/
def Block.commitXw (b : Block) : Nat :=
  (if b.isLoop then b.iter % 2 ^ 32 else 0) +
    (match b.exits with
     | (n, _) :: _ => (match b.instr? n with | some i => eidOf i | none => 0) * 2 ^ 32
     | [] => 2 ^ 35) + min b.ninstr 128 * 2 ^ 36

/-- A watchpoint entry matches an access (R416, R418). -/
def wpHit (e : W128) (a : Seen) : Bool :=
  let k := bits e.toNat 110 109
  let base := bits e.toNat 55 0
  (k == 3 || (k == 1 && a.rd) || (k == 2 && a.wr)) && (a.rd || a.wr) &&
    decide (a.acc.va < base + 2 ^ bits e.toNat 108 104) && decide (base < a.acc.va + a.acc.size) &&
    (!e.getLsbD 111 || bits e.toNat 127 112 == a.acc.heat)

/-- Walk steps pending at a stall (R430). -/
def State.walksAt (s : State) (st : Nat) : Nat :=
  (s.flight.filter fun (w : Flight) => w.stall == st && (match w.cargo with | .walkStep _ _ _ _ => true | _ => false)).length

/-- The arrival history takes the commit, and a walk may start (R429, R430). -/
def State.noteCommit (s : State) (b : Block) (f : Frame) (o : Org) : State :=
  let arr := if f.bsq = 0 then f.origin else match b.lastArr with | some (_, _, a) => a | none => f.prevArrival 0
  let w := if f.bsq = 0 then 0 else match b.lastArr with | some (c, _, _) => min (c - b.mapCyc) (2 ^ 18 - 1) | none => 0
  let s := s.modStall f.stall fun x =>
    { x with hist := (⟨f.fn, f.bsq, b.addr, x.cyc, arr, w, f.captured, f.handler, f.det⟩ :: x.hist).take 1024 }
  match s.ctx? f.ctx with
  | some c =>
    if c.params.debuggable && c.trace.en && (!c.trace.scopeCaptured || f.captured) then
      let n := (s.stallD f.stall).tracedCommits + 1
      let s := s.modStall f.stall fun x => { x with tracedCommits := n }
      if c.trace.walkExp ≤ 31 && n % 2 ^ c.trace.walkExp == 0 then
        let s := s.modCtx f.ctx fun c => { c with trace := { c.trace with walk := (c.trace.walk + 1) % 65536 } }
        let s := s.count f.stall 14 1
        if s.walksAt f.stall < 8 then s.ship o 0 (.walkStep c.trace.walk 0 f.fn f.bsq) else s
      else s
    else s
  | none => s

/-- The frame's next block after a commit (R50, R136). -/
def Block.advance (b : Block) (f : Frame) : Frame :=
  let f := { f with bsq := f.bsq + 1 }
  match b.exits, f.loop with
  | (_, .to a) :: _, _ | (_, .call a _) :: _, _ => { f with next := a, loop := none, fetched := none }
  | [], some (i, n) =>
    if i + 1 = n then { f with next := b.exitTarget, loop := none, fetched := none } else { f with loop := some (i + 1, n) }
  | _, _ => { f with loop := none, fetched := none }

/-- The speculative block mapped at the successor becomes the frame's block; any other is discarded without trace. A frame that a
debugger may stop has its next block checked instead (R370, R371, R417). -/
def State.confirmSpec (s : State) (fid bid : Nat) : State :=
  match s.frame? fid with
  | none => s
  | some f =>
    match s.blocks.find? fun b => b.fid == fid && b.spec && b.pred == some bid with
    | some b =>
      if !b.guess && b.addr == f.next && f.loop.isNone && f.place == .resident && !f.held && f.stopped.isNone && !s.watched f then
        (s.modBlock b.bid fun b => { b with spec := false, pred := none, entry := s.handlerRegs f }).settleBlock b.bid
      else s.discardSpec fid
    | none => s

/-- An SVC's stop at the commit of its block (R447). -/
def State.svcStop (s : State) (b : Block) (o : Org) (ended : Bool) : State :=
  b.ordered.foldl (fun s e =>
    match e.2 with
    | .svc imm l =>
      let info : FaultInfo := { cls := .svc, va := some (l.toNat % 2 ^ 56), extra := imm.setWidth 64 }
      let oo := { o with slot := e.1, iter := if b.isLoop then b.iter else 0 }
      if ended then s.enterRec (.make oo info none true none)
      else ((s.modFrame o.fid fun f => { f with held := true }).leaveEngine o.fid).enterRec (.make oo info (some o.fid) true none)
    | _ => s) s

/-- Where the frame goes after its block has committed: stops, inline children, the call room or its next block (R346, R363, R418,
R421, R422). -/
def State.settleFrame (s : State) (fid : Nat) (wp yld : Bool) : State :=
  match s.frame? fid with
  | none => s
  | some f =>
    let others := s.frames.any fun g => g.fid != fid && g.ctx == f.ctx && g.stall == f.stall && s.frameReady g
    let s :=
      if wp then s.stopFrame f 4 0
      else if f.stp then s.stopFrame f 6 0
      else if f.halt then s.stopFrame f 7 0
      else if f.held then s
      else if yld || others || !f.inlineKids.isEmpty then s.enterRoom fid
      else s.modFrame fid fun f => { f with place := .resident }
    match f.inlineKids with
    | [] => s
    | k :: _ => s.startKid k

/-- What a block's commit does (R46). -/
def State.commitBlock (s : State) (b : Block) (f : Frame) : State :=
  let o := { f.org b.addr 0xFF b.iter b.keep with bid := b.bid }
  let pos := (s.stallD f.stall).commitPos + 1
  let s := s.modStall f.stall fun x => { x with commitPos := pos }
  let s := s.modFrame f.fid fun f => b.commitRegs f
  let s := b.ordered.foldl (fun s e =>
    match e.2 with
    | .csrw 0x41 v => s.modCtx f.ctx fun c => { c with hentry := v.toNat % 2 ^ 56 }
    | _ => s) s
  let s := b.applied.foldl (fun s e => s.applyEffect { o with scp := b.scopeAt e.1 } pos e) s
  let s := { s with ops := s.ops.filter (·.bid != b.bid), blocks := s.blocks.filter (·.bid != b.bid),
                    copies := s.copies.map fun (k : Copy) => if k.users.contains b.bid then { k with fixed := true } else k }
  let s := b.seen.foldl (fun s a => if a.mark then s.accessDone f.stall a.acc a.wr else s) s
  let s := s.markAccess f.stall f.ctx b.addr (16 + 8 * b.icnt) false
  let s := b.ordered.foldl (fun s e =>
    match e.2 with
    | .mark imm v => s.birty { o with slot := e.1 } 7 (imm.toNat + v.toNat % 65536 * 2 ^ 32)
    | _ => s) s
  let s := ((s.count f.stall 1 1).birty o 1 b.commitXw).noteCommit b f o
  let s := s.modFrame f.fid fun f => b.advance f
  let s := { s with fences := (s.fences ++ b.fences.map fun (e : Nat × Ord × Scope) => (f.fid, msqOf o.bsq e.1, e.2.1)).filter fun (e : Nat × Nat × Ord) =>
        s.flight.any fun (w : Flight) => w.cargo.isWrite && w.org.fid == e.1 && msqLt w.msq e.2.1 }
  let s := if f.handler then s else s.modCtx f.ctx fun c => { c with stuckArmed := true }
  let wp := ((s.ctx? f.ctx).map fun c =>
    c.params.debuggable && b.seen.any fun a => c.wps.any fun e => wpHit e a).getD false
  let yld := b.effs.any fun e => match e.2 with | .yld => true | _ => false
  let ended := b.exits.any fun e => match e.2 with | .fend | .eret _ _ _ => true | _ => false
  let s := s.svcStop b o ended
  if ended then
    let s := if wp then s.post f.ctx { cookie := 0, status := 0, kind := 7, job := 0, detail := f.fref + 5 * 2 ^ 24, frees := none } else s
    let s := s.discardSpec f.fid
    match s.frame? f.fid with
    | none => s
    | some f' =>
      if f.handler then
        match b.exits with
        | (_, .eret form l g0) :: _ => s.endHandler f' form l g0
        | _ => s.endHandler f' 1 0 0
      else s.endFrame f.fid false
  else
    match f.reclaim with
    | some c =>
      match s.frame? f.fid with
      | some f' => if s.pinnedByKeep f' then (s.settleFrame f.fid wp yld).confirmSpec f.fid b.bid else s.reclaimFrame f.fid c
      | none => s
    | none => (s.settleFrame f.fid wp yld).confirmSpec f.fid b.bid

/-- The first HT.END among the block's effects, when its exit is not FEND (R252). -/
def Block.badHeatEnd (b : Block) : Option Nat :=
  if b.exits.any (fun e => e.2 == .fend) then none
  else (b.effs.find? fun e => match e.2 with | .heatEnd => true | _ => false).map (·.1)

/-- The writes before an early release are still on their way. -/
def State.barFlies (s : State) (e : Early) : Bool := e.bar.any fun n => s.flight.any (·.id == n)

/-- The level of the smallest scope that contains two frames, by frame and stall (R222); a stall of another package has number 2048. -/
def pairScope (f1 st1 f2 st2 : Nat) : Nat :=
  if f1 = f2 then 0
  else if st1 = st2 then 1
  else if hallOfStall st1 = hallOfStall st2 then 2
  else if st1 = 2048 ∨ st2 = 2048 then 4 else 3

/-- A read of a frame by an acquire of too narrow a scope has taken an early release whose scope holds both parties; a later fence of
the frame whose scope holds them too makes the edge (R215, R223). What follows such a fence waits for the writes before the release. -/
def State.fenceHolds (s : State) (b : Block) (f : Frame) (lsid : Nat) : Bool :=
  s.early.any fun e => s.barFlies e &&
    b.fences.any fun x => decide (x.1 < lsid) && x.2.1 != .rel && decide (pairScope e.fid e.stall f.fid f.stall ≤ x.2.2.level) &&
      e.seen.any fun r => r.1 == f.fid && msqLt r.2 (msqOf (s.bsqOf b f) x.1)

/-- A block may commit (R46, R369): it is complete, nothing it waits for remains, and its inboxes and a trace ring under STALL have
room. -/
def State.mayCommit (s : State) (b : Block) (f : Frame) : Bool :=
  !b.spec && !b.parked && b.waits.isEmpty && s.complete b && !s.fenceHolds b f 32 && s.roomFor b f && !s.traceHolds (f.org b.addr 0xFF b.iter b.keep) 1

/-- BLOCK_COMMIT (R46, R369): once the block is complete, nothing it waits for remains and its inboxes have room. A block that waits
for credits is parked (R340). -/
def execBlockCommit (bid : Nat) (s : State) : Out :=
  .next <|
    match s.block? bid with
    | none => s
    | some b =>
      match s.frame? b.fid with
      | none => s
      | some f =>
        if b.spec || b.parked || !s.stallRuns f.stall || !b.waits.isEmpty || !s.complete b || s.fenceHolds b f 32 then s
        else
          match b.badHeatEnd with
          | some n => s.blockFault bid n { cls := .heatState }
          | none =>
            if !s.roomFor b f || s.traceHolds (f.org b.addr 0xFF b.iter b.keep) 1 then s
            else if !s.creditsFor b then
              (s.modBlock bid fun b => { b with parked := true }).modFrame f.fid fun f => { f with place := .parked }
            else s.commitBlock b f

end Sys2Proof.Machine
end

