-- ==== Sys2Proof/Machine/Engine.lean ====
section
/-! DEFINITION. What the engines share: the checks of tile placement and overlap (R32, R34, R157), the tile rule (R264), folds
(R106), the records of R425, reports of dropped messages (R128), abandonment, and a failed residue check (R125, R166, R207, R458). -/
namespace Sys2Proof.Machine

/-- The class of the first breach of a list of checks. -/
def firstBad (l : List (Bool × Cls)) : Option Cls := (l.find? (·.1)).map (·.2)

def Stall.srcTile (x : Stall) (t : Nat) : Tile := x.tileD (x.srcSlot t)
def Stall.dstTile (x : Stall) (t : Nat) : Tile := x.tileD (x.dstSlot t)

/-- Rows of the tile store from a tile's first to one past its last (R34). -/
def Stall.span (x : Stall) (t : Tile) : Nat × Nat := (t.ell x.roles, t.ell x.roles + t.storeRows)
/-- Two tiles share a tile-store row. -/
def Stall.overlap (x : Stall) (a b : Tile) : Bool :=
  decide ((x.span a).1 < (x.span b).2) && decide ((x.span b).1 < (x.span a).2)

/-- A tile with a row outside the tile store, from its first to its last (R32, R132, R208, R296). -/
def Stall.placeFault (x : Stall) (t : Tile) : Option Cls := if t.inStore x.roles then none else some .bankRole
def Stall.placeFaults (x : Stall) (ts : List Tile) : Option Cls := ts.findSome? x.placeFault

/-! The tile rule (R264) -/

/-- The job still reads its sources: some round is left, or it has none and has not completed (R273). -/
def Job.reads (j : Job) : Bool := j.round.isSome || decide (j.pos < j.total) || j.total == 0

/-- A tile is held as a source of running work (R161, R273). -/
def Stall.held (x : Stall) (t : Nat) : Bool :=
  (x.pa.toList.any fun r => r.srcs.contains t) || (x.vec.toList.any fun r => r.srcs.contains t) ||
    x.jobs.any fun (j : Job) => j.reads && j.srcs.contains t

def Stall.srcsReady (x : Stall) (ts : List Nat) : Bool := ts.all fun t => (x.srcTile t).st == .ready
/-- A destination is EMPTY, or READY for the merging forms. -/
def Stall.dstReady (x : Stall) (t : Nat) (merge : Bool) : Bool := (x.dstTile t).st == if merge then .ready else .empty
/-- A merge into a tile that running work reads waits until it has been read (R161). -/
def Stall.dstFree (x : Stall) (t : Nat) : Bool := (x.dstTile t).st != .ready || !x.held (x.dstSlot t)
/-- An older message of the same frame merges into the same tile: it starts first, unless sequence numbers order the two
(R120, R121, R162; log 102). -/
def mergeFirst (inbox : List Msg) (m : Msg) : Bool :=
  m.i.merges && (inbox.takeWhile (· != m)).any fun o => o.i.merges && o.org.fid == m.org.fid && o.i.dstTiles == m.i.dstTiles &&
    !(o.seq.isSome && m.seq.isSome)
/-- The pages of everything the work touches are at hand (R455). -/
def Stall.pagesFor (x : Stall) (ts : List Tile) : Bool := ts.all x.pagesIn

/-- Takes sources and destinations at a start, with their pages pinned (R261, R266, R455). -/
def Stall.take (x : Stall) (srcs dsts : List Nat) : Stall :=
  let x := (srcs.map x.srcTile ++ dsts.map x.dstTile).foldl (·.pin ·) x
  dsts.foldl (·.takeDst ·) (srcs.foldl (·.takeSrc ·) x)

/-! Folds, records and reports -/

/-- The folds of a message take their values as it starts (R106). -/
def State.takeFolds (s : State) (m : Msg) : State :=
  m.folds.foldl (fun s t => s.fold m.org.fid ((s.stallD m.org.stall).srcTile t).afl) s
/-- The message that made a tile READY, as an origin (R429). -/
def Msg.arrival (m : Msg) : Arrival := ⟨4, m.org.fn, m.org.bsq, m.org.stall, false⟩

/-- A report about engine work: it names the issuing block (R128). -/
def State.engReport (s : State) (m : Msg) (cls : Cls) (eng : Nat) : State := s.report m.org { cls := cls, eng := eng }

/-- A message whose checks fail at its start is dropped (R128, R159, R208). -/
def State.dropMsg (s : State) (m : Msg) (cls : Cls) (eng : Nat) : State := (s.dropFolds m).engReport m cls eng

/-- An engine instruction executes: its checks, the states under NB, and a message to leave at commit (R54, R128). -/
def State.sendAt (s : State) (c : Cx) (i : Instr) (bad : Option Cls) (nb ready : Bool) : State :=
  match bad with
  | some k => s.faultAt c { cls := k }
  | none => if nb && !ready then s.faultAt c { cls := .tileNotReady } else s.effect c (.msg i c.l c.r)

/-- A residue check fails for good: ARITH_RETRY_FAIL, and the stall is suspect (R125, R166, R207, R458). -/
def State.arithFail (s : State) (m : Msg) (eng : Nat) : State :=
  let syn := Config.syndrome s.draws
  let s := { s with draws := s.draws + 1 }.report m.org { cls := .arithRetryFail, extra := syn, eng := eng }
  let s := s.modStall m.org.stall fun x => { x with suspect := true }
  (s.report m.org { cls := .stallSuspect, extra := syn, eng := eng }).tellDriver m.org.ctx

end Sys2Proof.Machine
end

