-- ==== Sys2Proof/Machine/Real.lean ====
section
/-! DEFINITION. Exact real numbers and their rounding (R83, R98-R100, R145-R148): a magnitude is an integer times a power of two,
with a sticky mark where the exact value lies strictly above it and below the next integer. -/
namespace Sys2Proof.Machine

/-- ceil(log2 n): the least D with n ≤ 2^D. -/
def clog2 (n : Nat) : Nat := if n ≤ 1 then 0 else Nat.log2 (n - 1) + 1

/-- Rounding modes, by their FCSR.RM codes (R28). -/
inductive Rm where
  | rne | rtz | rdn | rup | rmm
  deriving DecidableEq, Repr, Inhabited

def Rm.ofCode (c : BitVec 3) : Rm :=
  match c.toNat with
  | 1 => .rtz
  | 2 => .rdn
  | 3 => .rup
  | 4 => .rmm
  | _ => .rne

/-- A nonnegative real: `m`·2^`k`, or, when `st`, a value strictly between that and (`m`+1)·2^`k`. -/
structure Mag where
  m  : Nat
  k  : Int
  st : Bool
  deriving DecidableEq, Repr, Inhabited

/-- 2^x for an integer x ≥ 0, and 1 below. -/
def pow2 (x : Int) : Nat := 2 ^ x.toNat

/-- floor(log2) of a nonzero magnitude. -/
def Mag.log2 (a : Mag) : Int := (Nat.log2 a.m : Int) + a.k

/-- a / 2^t split: its integer part, and how the rest compares with one half: 0 none, 1 below, 2 equal, 3 above. A sticky magnitude
must have its unit at or below half of 2^t. -/
def Mag.split (a : Mag) (t : Int) : Nat × Nat :=
  if t ≤ a.k then (a.m * pow2 (a.k - t), if a.st then 1 else 0)
  else
    let d := pow2 (t - a.k)
    let r := a.m % d
    (a.m / d,
     if r = 0 && !a.st then 0 else if 2 * r < d then 1 else if 2 * r = d && !a.st then 2 else 3)

/-- round_int (R145): `rest` as in `split`. -/
def roundInt (rm : Rm) (neg : Bool) (n rest : Nat) : Nat :=
  match rm with
  | .rne => if rest = 3 || (rest = 2 && n % 2 = 1) then n + 1 else n
  | .rmm => if 2 ≤ rest then n + 1 else n
  | .rtz => n
  | .rup => if rest != 0 && !neg then n + 1 else n
  | .rdn => if rest != 0 && neg then n + 1 else n

/-- A floating-point format: exponent bits and fraction bits (R98). -/
structure Fmt where
  e : Nat
  f : Nat
  deriving DecidableEq, Repr, Inhabited

def fp32 : Fmt := ⟨8, 23⟩
def bf16 : Fmt := ⟨8, 7⟩
def fp16 : Fmt := ⟨5, 10⟩
def e4m3 : Fmt := ⟨4, 3⟩
def e5m2 : Fmt := ⟨5, 2⟩
def e2m1 : Fmt := ⟨2, 1⟩

def Fmt.bias (x : Fmt) : Nat := 2 ^ (x.e - 1) - 1
/-- Exponent of the least normal number. -/
def Fmt.emin (x : Fmt) : Int := 1 - (x.bias : Int)
def Fmt.emax (x : Fmt) : Int := x.bias
def Fmt.signBit (x : Fmt) : Nat := 2 ^ (x.e + x.f)
def Fmt.infBits (x : Fmt) (neg : Bool) : Nat := (if neg then x.signBit else 0) + (2 ^ x.e - 1) * 2 ^ x.f
/-- The canonical NaN (R99). -/
def Fmt.nan (x : Fmt) : Nat := (2 ^ x.e - 1) * 2 ^ x.f + 2 ^ (x.f - 1)
def Fmt.maxBits (x : Fmt) (neg : Bool) : Nat := x.infBits neg - 1
def Fmt.zero (x : Fmt) (neg : Bool) : Nat := if neg then x.signBit else 0

/-- The value of a bit pattern. -/
inductive FpVal where
  | nan (signalling : Bool)
  | inf (neg : Bool)
  /-- ± m·2^k; zero when m = 0 -/
  | fin (neg : Bool) (m : Nat) (k : Int)
  deriving DecidableEq, Repr, Inhabited

/-- Decodes a pattern; E4M3 has one NaN code and no infinity, E2M1 neither (R98). -/
def Fmt.decode (x : Fmt) (v : Nat) : FpVal :=
  let f := v % 2 ^ x.f
  let e := v / 2 ^ x.f % 2 ^ x.e
  let neg := v / 2 ^ (x.e + x.f) % 2 = 1
  let top := e = 2 ^ x.e - 1
  if x = e4m3 && top && f = 7 then .nan false
  else if top && x != e4m3 && x != e2m1 then
    (if f = 0 then .inf neg else .nan (f < 2 ^ (x.f - 1)))
  else if e = 0 then .fin neg f (x.emin - x.f)
  else .fin neg (2 ^ x.f + f) ((e : Int) - x.bias - x.f)

/-- round_fp32 and its like for the narrower formats (R83, R100, R145): a nonzero magnitude under a rounding mode. -/
def Fmt.round (x : Fmt) (rm : Rm) (neg : Bool) (a : Mag) : Nat × FlagSet :=
  let e := max a.log2 x.emin
  let sp := a.split (e - x.f)
  let n := roundInt rm neg sp.1 sp.2
  let (n, e) := if n = 2 ^ (x.f + 1) then (2 ^ x.f, e + 1) else (n, e)
  let sg := if neg then x.signBit else 0
  if x.emax < e then
    let up := match rm with
      | .rne | .rmm => true
      | .rup => !neg
      | .rdn => neg
      | .rtz => false
    (if up then x.infBits neg else x.maxBits neg, { of_ := true, nx := true })
  else
    let inexact := sp.2 != 0
    let bits := if n < 2 ^ x.f then n else (e - x.emin + 1).toNat * 2 ^ x.f + (n - 2 ^ x.f)
    (sg + bits, { nx := inexact, uf := inexact && decide (n < 2 ^ x.f) })

/-- A signed dyadic number. -/
structure Dy where
  i : Int
  k : Int
  deriving DecidableEq, Repr, Inhabited

def Dy.zero : Dy := ⟨0, 0⟩
def Dy.add (a b : Dy) : Dy :=
  let k := min a.k b.k
  ⟨a.i * (pow2 (a.k - k) : Int) + b.i * (pow2 (b.k - k) : Int), k⟩
def Dy.mul (a b : Dy) : Dy := ⟨a.i * b.i, a.k + b.k⟩
def Dy.neg (a : Dy) : Dy := ⟨-a.i, a.k⟩
/-- a < b. -/
def Dy.lt (a b : Dy) : Bool := decide ((a.add b.neg).i < 0)
def Dy.eq (a b : Dy) : Bool := decide ((a.add b.neg).i = 0)
def Dy.mag (a : Dy) : Mag := ⟨a.i.natAbs, a.k, false⟩
def Dy.ofInt (i : Int) : Dy := ⟨i, 0⟩

/-- A finite value as a signed number. -/
def dyOf (neg : Bool) (m : Nat) (k : Int) : Dy := ⟨if neg then -(m : Int) else m, k⟩

/-- Rounds an exact nonzero number. -/
def Fmt.roundDy (x : Fmt) (rm : Rm) (a : Dy) : Nat × FlagSet := x.round rm (decide (a.i < 0)) a.mag

/-- The quotient of two nonzero magnitudes, with at least 64 bits of it before the sticky mark. -/
def divMag (m1 : Nat) (k1 : Int) (m2 : Nat) (k2 : Int) : Mag :=
  let sh := 64 + Nat.log2 m2 + 1
  ⟨m1 * 2 ^ sh / m2, k1 - k2 - sh, m1 * 2 ^ sh % m2 != 0⟩

/-- floor(√n), by bits from the top. -/
def sqrtGo (n : Nat) : Nat → Nat → Nat
  | 0, r => r
  | b + 1, r =>
    let c := r + 2 ^ b
    sqrtGo n b (if c * c ≤ n then c else r)
def natSqrt (n : Nat) : Nat := sqrtGo n (Nat.log2 n / 2 + 1) 0

/-- The square root of a nonzero magnitude, with at least 64 bits of it. -/
def sqrtMag (m : Nat) (k : Int) : Mag :=
  let sh : Nat := 128 + (k % 2).toNat
  let n := m * 2 ^ sh
  let r := natSqrt n
  ⟨r, (k - sh) / 2, r * r != n⟩

/-! FP32 arithmetic (R146-R148) -/

/-- The sign of an exact zero sum (R147). -/
def zeroSum (rm : Rm) (n1 n2 : Bool) : Bool := if n1 = n2 then n1 else rm = .rdn

/-- x + y under R147. -/
def fpAdd (x : Fmt) (rm : Rm) (a b : FpVal) : Nat × FlagSet :=
  match a, b with
  | .nan s, .nan t => (x.nan, { nv := s || t })
  | .nan s, _ => (x.nan, { nv := s })
  | _, .nan t => (x.nan, { nv := t })
  | .inf s, .inf t => if s = t then (x.infBits s, {}) else (x.nan, { nv := true })
  | .inf s, .fin _ _ _ => (x.infBits s, {})
  | .fin _ _ _, .inf t => (x.infBits t, {})
  | .fin n1 m1 k1, .fin n2 m2 k2 =>
    let r := (dyOf n1 m1 k1).add (dyOf n2 m2 k2)
    if r.i = 0 then (x.zero (zeroSum rm n1 n2), {}) else x.roundDy rm r

/-- The value with the other sign. -/
def FpVal.negate : FpVal → FpVal
  | .nan s => .nan s
  | .inf n => .inf (!n)
  | .fin n m k => .fin (!n) m k

def fpSub (x : Fmt) (rm : Rm) (a b : FpVal) : Nat × FlagSet := fpAdd x rm a b.negate

/-- The exact product of two values that are not NaN; `none` for 0 × ∞. -/
def fpProd (a b : FpVal) : Option FpVal :=
  match a, b with
  | .inf s, .inf t => some (.inf (s != t))
  | .inf s, .fin t m _ => if m = 0 then none else some (.inf (s != t))
  | .fin s m _, .inf t => if m = 0 then none else some (.inf (s != t))
  | .fin s m1 k1, .fin t m2 k2 => some (.fin (s != t) (m1 * m2) (k1 + k2))
  | .nan s, _ | _, .nan s => some (.nan s)

def FpVal.isNan : FpVal → Bool
  | .nan _ => true
  | _ => false
def FpVal.isSnan : FpVal → Bool
  | .nan s => s
  | _ => false

/-- x × y under R147. -/
def fpMul (x : Fmt) (rm : Rm) (a b : FpVal) : Nat × FlagSet :=
  if a.isSnan || b.isSnan then (x.nan, { nv := true })
  else if a.isNan || b.isNan then (x.nan, {})
  else
    match fpProd a b with
    | none => (x.nan, { nv := true })
    | some (.inf s) => (x.infBits s, {})
    | some (.fin s m k) => if m = 0 then (x.zero s, {}) else x.round rm s ⟨m, k, false⟩
    | some (.nan _) => (x.nan, {})

/-- a × b + c with one rounding (R146, R147). -/
def fpFma (x : Fmt) (rm : Rm) (a b c : FpVal) : Nat × FlagSet :=
  if a.isSnan || b.isSnan || c.isSnan then (x.nan, { nv := true })
  else
    let zi := match a, b with
      | .inf _, .fin _ 0 _ => true
      | .fin _ 0 _, .inf _ => true
      | _, _ => false
    if zi then (x.nan, { nv := true })
    else if a.isNan || b.isNan || c.isNan then (x.nan, {})
    else
      match fpProd a b with
      | some p => fpAdd x rm p c
      | none => (x.nan, { nv := true })

/-- a ÷ b under R147. -/
def fpDiv (x : Fmt) (rm : Rm) (a b : FpVal) : Nat × FlagSet :=
  if a.isSnan || b.isSnan then (x.nan, { nv := true })
  else
    match a, b with
    | .nan _, _ | _, .nan _ => (x.nan, {})
    | .inf _, .inf _ => (x.nan, { nv := true })
    | .inf s, .fin t _ _ => (x.infBits (s != t), {})
    | .fin s _ _, .inf t => (x.zero (s != t), {})
    | .fin s m1 k1, .fin t m2 k2 =>
      if m2 = 0 then (if m1 = 0 then (x.nan, { nv := true }) else (x.infBits (s != t), { dz := true }))
      else if m1 = 0 then (x.zero (s != t), {})
      else x.round rm (s != t) (divMag m1 k1 m2 k2)

/-- √a under R147. -/
def fpSqrt (x : Fmt) (rm : Rm) (a : FpVal) : Nat × FlagSet :=
  match a with
  | .nan s => (x.nan, { nv := s })
  | .inf false => (x.infBits false, {})
  | .inf true => (x.nan, { nv := true })
  | .fin s m k =>
    if m = 0 then (x.zero s, {})
    else if s then (x.nan, { nv := true })
    else x.round rm false (sqrtMag m k)

/-- a < b for values that are not NaN; ±0 are equal. -/
def fpLt (a b : FpVal) : Bool :=
  match a, b with
  | .inf s, .inf t => s && !t
  | .inf s, .fin _ _ _ => s
  | .fin _ _ _, .inf t => !t
  | .fin n1 m1 k1, .fin n2 m2 k2 => (dyOf n1 m1 k1).lt (dyOf n2 m2 k2)
  | _, _ => false
def fpEq (a b : FpVal) : Bool := !a.isNan && !b.isNan && !fpLt a b && !fpLt b a

def FpVal.neg? : FpVal → Bool
  | .nan _ => false
  | .inf n => n
  | .fin n _ _ => n

/-- FMIN and FMAX of two patterns (R148). -/
def fpMinMax (x : Fmt) (max : Bool) (va vb : Nat) : Nat × FlagSet :=
  let a := x.decode va
  let b := x.decode vb
  let fl : FlagSet := { nv := a.isSnan || b.isSnan }
  if a.isNan && b.isNan then (x.nan, fl)
  else if a.isNan then (vb, fl)
  else if b.isNan then (va, fl)
  else
    let less := fpLt a b || (fpEq a b && a.neg? && !b.neg?)
    (if less != max then va else vb, fl)

/-- fcvt_int (R152): the integer and its flags. -/
def fcvtInt (rm : Rm) (lo hi : Int) (a : FpVal) : Int × FlagSet :=
  match a with
  | .nan _ => (0, { nv := true })
  | .inf n => (if n then lo else hi, { nv := true })
  | .fin neg m k =>
    let sp := (⟨m, k, false⟩ : Mag).split 0
    let n := roundInt rm neg sp.1 sp.2
    let v : Int := if neg then -(n : Int) else n
    if hi < v then (hi, { nv := true }) else if v < lo then (lo, { nv := true }) else (v, { nx := sp.2 != 0 })

/-- An integer rounded to a format; 0 gives +0 (R152). -/
def intToFp (x : Fmt) (rm : Rm) (i : Int) : Nat × FlagSet := if i = 0 then (0, {}) else x.roundDy rm ⟨i, 0⟩

/-- A conversion between formats (R100): exact or rounded, NaN canonical, NV for a signalling source. -/
def fpConvert (src dst : Fmt) (rm : Rm) (v : Nat) : Nat × FlagSet :=
  match src.decode v with
  | .nan s => (dst.nan, { nv := s })
  | .inf n => (dst.infBits n, {})
  | .fin neg m k => if m = 0 then (dst.zero neg, {}) else dst.round rm neg ⟨m, k, false⟩

/-- An SP32 pattern as a magnitude. -/
def sp32Val (v : Nat) : Nat × Int := if v / 2 ^ 23 = 511 then (0, 0) else (2 ^ 23 + v % 2 ^ 23, -((v / 2 ^ 23 : Nat) : Int) - 23)

end Sys2Proof.Machine
end

