-- ==== Sys2Proof/Machine/Spe.lean ====
section
/-! DEFINITION. The sum-product engine (07_sumproduct.md): values in scratch (R187), subtrees (R189-R193), moves (R197, R198), issue and
completion (R201-R207), SPFENCE (R199). SP32 is that of R101 and R102. -/
namespace Sys2Proof

/-- The subtree of an SPT or SPD with its mode bit: (is SPD, fields, ACC or ONE). -/
def Instr.tree? : Instr → Option (Bool × SF × Bool)
  | .spt t acc => some (false, t, acc)
  | .spd t one => some (true, t, one)
  | _ => none

def SF.leaves (t : SF) : List Nat := [t.l0, t.l1, t.l2, t.l3, t.l4, t.l5, t.l6, t.l7].map (·.toNat)
/-- Operator of node `k` (R189). -/
def SF.op (t : SF) (k : Nat) : Nat := t.shape.toNat / 2 ^ (2 * k) % 4
/-- reach (R190). -/
def SF.reach (t : SF) : Nat → Bool
  | 0 => true
  | 1 => true
  | 2 => t.op 0 != 3
  | 3 => true
  | 4 => t.op 1 != 3
  | 5 => t.op 0 != 3
  | _ => t.op 0 != 3 && t.op 2 != 3
/-- read (R190). -/
def SF.reads (t : SF) (j : Nat) : Bool := t.reach (3 + j / 2) && (t.op (3 + j / 2) != 3 || j % 2 == 0)
/-- The scratch entries of the leaves that are read, in leaf order. -/
def SF.readLeaves (t : SF) : List Nat := t.leaves.zipIdx.filterMap fun e => if t.reads e.2 then some e.1 else none

end Sys2Proof
namespace Sys2Proof.Machine

/-! SP32 (R101, R102) -/

/-- sp32_round. -/
def sp32Round (m : Nat) (e : Int) : Nat × FlagSet :=
  if m = 0 then (0xFF800000, {})
  else
    let a : Mag := ⟨m, e, false⟩
    let k := a.log2
    let sp := a.split (k - 23)
    let n := roundInt .rne false sp.1 sp.2
    let (n, k) := if n = 2 ^ 24 then (2 ^ 23, k + 1) else (n, k)
    if 1 ≤ k then (0x7FFFFF, { of_ := true, nx := true })
    else if k < -510 then (0xFF800000, { uf := true, nx := true })
    else ((-k).toNat * 2 ^ 23 + (n - 2 ^ 23), { nx := sp.2 != 0 })

/-! Values and node arithmetic (R187, R191) -/

/-- The value of a scratch word in a format: 0 FP32, 1 BF16, 2 SP32. -/
def speRead (fmt v : Nat) : Nat := if fmt = 1 then v % 2 ^ 16 else v
def speOne (fmt : Nat) : Nat := if fmt = 0 then 0x3F800000 else if fmt = 1 then 0x3F80 else 0
def speFmt (fmt : Nat) : Fmt := if fmt = 1 then bf16 else fp32

/-- A value with the flags raised on the way to it. -/
abbrev SpeVal := Nat × FlagSet

def speAdd (fmt a b : Nat) : SpeVal :=
  if fmt = 2 then
    let x := sp32Val a
    let y := sp32Val b
    let r := (dyOf false x.1 x.2).add (dyOf false y.1 y.2)
    sp32Round r.i.toNat r.k
  else fpAdd (speFmt fmt) .rne ((speFmt fmt).decode a) ((speFmt fmt).decode b)
def speMul (fmt a b : Nat) : SpeVal :=
  if fmt = 2 then
    let x := sp32Val a
    let y := sp32Val b
    sp32Round (x.1 * y.1) (x.2 + y.2)
  else fpMul (speFmt fmt) .rne ((speFmt fmt).decode a) ((speFmt fmt).decode b)

/-- MAX takes its right child (R193): the left one when equal or both NaN. -/
def speMaxRight (fmt a b : Nat) : Bool :=
  if fmt = 2 then
    let x := sp32Val a
    let y := sp32Val b
    (dyOf false x.1 x.2).lt (dyOf false y.1 y.2)
  else
    let x := (speFmt fmt).decode a
    let y := (speFmt fmt).decode b
    if x.isNan then !y.isNan else !y.isNan && (fpLt x y || (fpEq x y && x.neg? && !y.neg?))
/-- MAX, as FMAX: of one NaN and another operand the other one comes out, with INV where the NaN signals; an SP32 zero keeps its bits
(log 59). -/
def speMax (fmt a b : Nat) : SpeVal :=
  if fmt = 2 then (if speMaxRight fmt a b then b else a, {}) else fpMinMax (speFmt fmt) true a b
/-- PASS is exact; a NaN comes out canonical, a signalling one with INV (R99, R191). A zero of SP32 keeps its bits (log 59). -/
def spePass (fmt a : Nat) : SpeVal :=
  if fmt = 2 then (a, {})
  else
    let x := (speFmt fmt).decode a
    (if x.isNan then (speFmt fmt).nan else a, { nv := x.isSnan })

/-- A node from its children's values. -/
def speNode (fmt op : Nat) (a b : Nat) : SpeVal :=
  match op with
  | 0 => speAdd fmt a b
  | 1 => speMul fmt a b
  | 2 => speMax fmt a b
  | _ => spePass fmt a

/-- The values of nodes 0 to 6 and the flags of all reached ones (R192); leaves in leaf order. -/
def speTree (fmt : Nat) (t : SF) (lv : List Nat) : List Nat × FlagSet :=
  let leaf := fun (k : Nat) => speNode fmt (t.op k) (lv.getD (2 * (k - 3)) 0) (lv.getD (2 * (k - 3) + 1) 0)
  let n3 := leaf 3
  let n4 := leaf 4
  let n5 := leaf 5
  let n6 := leaf 6
  let n1 := speNode fmt (t.op 1) n3.1 n4.1
  let n2 := speNode fmt (t.op 2) n5.1 n6.1
  let n0 := speNode fmt (t.op 0) n1.1 n2.1
  let fl := fun (k : Nat) (v : SpeVal) => if t.reach k then v.2 else {}
  ([n0.1, n1.1, n2.1, n3.1, n4.1, n5.1, n6.1],
   .joinAll [fl 0 n0, fl 1 n1, fl 2 n2, fl 3 n3, fl 4 n4, fl 5 n5, fl 6 n6])

/-- The adjoints a node gives its children (R193). -/
def speGive (fmt op d l r : Nat) : SpeVal × SpeVal :=
  match op with
  | 0 => ((d, {}), (d, {}))
  | 1 => (speMul fmt d r, speMul fmt d l)
  | 2 => if speMaxRight fmt l r then ((0, {}), (d, {})) else ((d, {}), (0, {}))
  | _ => ((d, {}), (0, {}))

/-- A MAX node gives one child only, PASS its left (R193). -/
def speGives (fmt op l r : Nat) : Bool × Bool :=
  match op with
  | 0 | 1 => (true, true)
  | 2 => if speMaxRight fmt l r then (false, true) else (true, false)
  | _ => (true, false)

/-- The contributions of the leaves, none for a leaf that receives nothing, and the flags (R193). A node or leaf that a MAX above it
did not choose receives none, so nothing is updated and no flag raised there (log 110). -/
def speBack (fmt : Nat) (t : SF) (lv vals : List Nat) (root : Nat) : List (Option Nat) × FlagSet :=
  let v := fun (k : Nat) => vals.getD k 0
  let kids := fun (k : Nat) => if k < 3 then (v (2 * k + 1), v (2 * k + 2)) else (lv.getD (2 * (k - 3)) 0, lv.getD (2 * (k - 3) + 1) 0)
  -- children of a node that holds an adjoint: their adjoints and the flags
  let go := fun (k : Nat) (d : Option Nat) =>
    match d with
    | none => ((none, none), ({} : FlagSet))
    | some d =>
      let (l, r) := kids k
      let g := speGive fmt (t.op k) d l r
      let h := speGives fmt (t.op k) l r
      (((if h.1 then some g.1.1 else none), (if h.2 then some g.2.1 else none)),
       ((if h.1 then g.1.2 else {}) : FlagSet).join (if h.2 then g.2.2 else {}))
  let r0 := go 0 (some root)
  let r1 := go 1 r0.1.1
  let r2 := go 2 r0.1.2
  let r3 := go 3 r1.1.1
  let r4 := go 4 r1.1.2
  let r5 := go 5 r2.1.1
  let r6 := go 6 r2.1.2
  ([r3.1.1, r3.1.2, r4.1.1, r4.1.2, r5.1.1, r5.1.2, r6.1.1, r6.1.2],
   .joinAll [r0.2, r1.2, r2.2, r3.2, r4.2, r5.2, r6.2])

/-! Scratch (R35, R187, R197) -/

def Stall.sp (x : Stall) (i : Nat) : Nat := (spGet 0 x.scratch (i % 2048)).toNat
/-- The range of SPLD, SPST and SPZ. -/
def speRange (l : W64) : List Nat := (List.range (bits l.toNat 27 16)).map fun i => (bits l.toNat 10 0 + i) % 2048
def adjAt (spc : BitVec 18) (i : Nat) : Nat := (i + spcAdj spc) % 2048

/-- The entries a message reads, and those it writes (R202). -/
def speReads (m : Msg) : List Nat :=
  match m.i with
  | .spt t acc => t.readLeaves ++ (if acc then [t.out.toNat] else [])
  | .spd t one => t.readLeaves ++ (if one then [] else [adjAt m.spc t.out.toNat]) ++ t.readLeaves.map (adjAt m.spc)
  | .spst _ _ _ => speRange m.l
  | _ => []
def speWrites (m : Msg) : List Nat :=
  match m.i with
  | .spt t _ => [t.out.toNat]
  | .spd t _ => t.readLeaves.map (adjAt m.spc)
  | .spld _ _ _ | .spz _ _ => speRange m.l
  | _ => []

/-- The issue cost (R202). -/
def speCost (m : Msg) : Nat :=
  match m.i.tree? with
  | some (_, t, _) =>
    let es := t.readLeaves.eraseDups
    es.foldl (fun n e => max n (es.filter fun k => k % 16 == e % 16).length) 1
  | none => max 1 ((bits m.l.toNat 27 16 + 15) / 16)

/-! Checks (R197, R198, R208) -/

def Stall.speTile (t : Tile) : Bool := t.lay && [4, 5, 10, 11].contains t.fmt
/-- The checks of an SPE instruction; `port` says that a bound port is refused. -/
def Stall.speCheck (x : Stall) (i : Instr) (l : W64) : Option Cls :=
  let n := bits l.toNat 27 16
  let tile := fun (t : Tile) (port : Bool) =>
    (firstBad [(decide (2048 < n), .illegalOperand), (!Stall.speTile t || port, .tileFormat), (decide (t.elems < n), .tileRange)]).orElse
      fun _ => x.placeFault t
  match i with
  | .spld _ ta _ => tile (x.srcTile ta.toNat) false
  | .spst _ tc _ => tile (x.tileD tc.toNat) (x.bound tc.toNat)
  | .spz _ _ => firstBad [(decide (2048 < n), .illegalOperand)]
  | _ => none

/-- SPT (R192). -/
def execSpt (t : SF) (acc : Bool) (s : State) : Out := s.runBare fun c => s.sendAt c (.spt t acc) none false true
/-- SPD (R193). -/
def execSpd (t : SF) (one : Bool) (s : State) : Out := s.runBare fun c => s.sendAt c (.spd t one) none false true
/-- SPLD (R198). -/
def execSpld (h : Hd) (ta : BitVec 6) (nb : Bool) (s : State) : Out :=
  s.runWord h fun c =>
    let x := s.stallD c.f.stall
    s.sendAt c (.spld h ta nb) (x.speCheck (.spld h ta nb) c.l) nb (x.srcsReady [ta.toNat])
/-- SPST (R198). -/
def execSpst (h : Hd) (tc : BitVec 6) (nb : Bool) (s : State) : Out :=
  s.runWord h fun c =>
    let x := s.stallD c.f.stall
    s.sendAt c (.spst h tc nb) (x.speCheck (.spst h tc nb) c.l) nb (x.dstReady tc.toNat false)
/-- SPZ (R198). -/
def execSpz (h : Hd) (sp : Bool) (s : State) : Out :=
  s.runWord h fun c => s.sendAt c (.spz h sp) ((s.stallD c.f.stall).speCheck (.spz h sp) c.l) false true
/-- SPFENCE (R199, R200). -/
def execSpfence (h : Hd) (s : State) : Out :=
  s.runWord h fun c => if s.speBusy c.f then s.waitOn c .spe else s.deliver c h (c.f.spf.setWidth 64)

/-! Issue (R201-R203) -/

/-- What a message will write: its entries, its tile and bytes, its flags (R192, R193, R198). -/
def Stall.speRun (x : Stall) (m : Msg) (second : Bool) : SpeRun :=
  let c := speCost m
  let fmt := spcFmt m.spc
  let run : SpeRun := { m := m, start := x.cyc, done := x.cyc + c + 7, writes := [], tile := none, bytes := [], flags := 0, cost := c,
                        reads := speReads m, second := second, retried := 0 }
  match m.i with
  | .spt t acc =>
    let lv := t.leaves.map fun l => speRead fmt (x.sp l)
    let r := speTree fmt t lv
    let root := r.1.headD 0
    let o := if acc then speAdd fmt (speRead fmt (x.sp t.out.toNat)) root else (root, {})
    { run with writes := [(t.out.toNat, BitVec.ofNat 32 o.1)], flags := (r.2.join o.2).spf }
  | .spd t one =>
    let lv := t.leaves.map fun l => speRead fmt (x.sp l)
    let r := speTree fmt t lv
    let root := if one then speOne fmt else speRead fmt (x.sp (adjAt m.spc t.out.toNat))
    let b := speBack fmt t lv r.1 root
    let upd := (t.leaves.zip b.1).foldl (fun (e : List (Nat × Nat) × FlagSet) q =>
      match q.2 with
      | none => e
      | some cj =>
        let a := adjAt m.spc q.1
        let old := ((e.1.find? (·.1 == a)).map (·.2)).getD (speRead fmt (x.sp a))
        let v := speAdd fmt old cj
        ((a, v.1) :: e.1.filter (·.1 != a), e.2.join v.2)) ([], {})
    { run with writes := upd.1.map fun w => (w.1, BitVec.ofNat 32 w.2), flags := ((r.2.join b.2).join upd.2).spf }
  | .spld _ ta _ =>
    let t := x.srcTile ta.toNat
    { run with writes := (speRange m.l).zipIdx.map fun e => (e.1, BitVec.ofNat 32 (x.elem t e.2)), tile := some (x.srcSlot ta.toNat) }
  | .spst _ tc _ =>
    let t := x.tileD tc.toNat
    let vs := (speRange m.l).map fun i => x.sp i % 2 ^ elemBits t.fmt
    { run with tile := some tc.toNat, bytes := joinElems (elemBits t.fmt) (vs ++ List.replicate (t.elems - vs.length) 0) }
  | .spz _ sp => { run with writes := (speRange m.l).map fun e => (e, if sp then 0xFF800000 else 0) }
  | _ => run

/-- A run's write set. -/
def SpeRun.writeSet (r : SpeRun) : List Nat := speWrites r.m
/-- A message depends on an issued one that has not completed (R203). -/
def speConflict (m : Msg) (r : SpeRun) : Bool := r.writeSet.any fun e => (speReads m).contains e || (speWrites m).contains e

/-- Leaves of a subtree message. -/
def speLeaves (m : Msg) : List Nat := match m.i.tree? with | some (_, t, _) => t.readLeaves | none => []

/-- The second message of a cycle (R203). -/
def Stall.spePair (x : Stall) (m : Msg) : Bool :=
  match x.spe.getLast? with
  | some p =>
    let banks := (speLeaves p.m ++ speLeaves m).map (· % 16)
    p.start == x.cyc && p.cost == 1 && !p.second && p.m.i.tree?.isSome && m.i.tree?.isSome && speCost m == 1 && !speConflict m p &&
      banks.eraseDups.length == banks.length
  | none => false

/-- The tile conditions of R198. -/
def Stall.speReady (x : Stall) (m : Msg) : Bool :=
  (match m.i with
   | .spld _ ta _ => x.srcsReady [ta.toNat]
   | .spst _ tc _ => x.dstReady tc.toNat false
   | _ => true) && x.pagesFor (m.i.srcTiles.map x.srcTile ++ m.i.dstTiles.map x.dstTile)

/-- The read set meets a lost entry pair (R457). -/
def Stall.speLost (x : Stall) (m : Msg) : Bool := (speReads m).any fun e => x.lostPairs.any fun p => p.1 == e / 2

/-- A message it depends on ended in this very cycle (R203). -/
def Stall.speFresh (x : Stall) (m : Msg) : Bool :=
  x.speDone.any fun e => e.1 == x.cyc && e.2.any fun k => (speReads m).contains k || (speWrites m).contains k

/-- SPE_MESSAGE_ISSUE (R201, R203, R215): the oldest message, once nothing it depends on is outstanding. -/
def execSpeMessageIssue (st : Nat) (s : State) : Out :=
  .next <|
    let x := s.stallD st
    match x.inSpe with
    | [] => s
    | m :: rest =>
      let pair := x.spePair m
      if !s.stallRuns st || (decide (x.cyc < x.speNext) && !pair) || x.spe.any (speConflict m) || x.speFresh m || !x.topsClear m ||
          !x.speReady m || !s.behindMsg m.org || s.traceHolds m.org 3 then s
      else
        let s := s.modStall st fun x => { x with inSpe := rest }
        match x.speCheck m.i m.l with
        | some cls => s.dropMsg m cls 3
        | none =>
          if x.speLost m then s.dropMsg m .dataError 3
          else
            let r := x.speRun m pair
            let s := s.takeFolds m
            let s := s.modStall st fun x =>
              { x.take m.i.srcTiles m.i.dstTiles with spe := x.spe ++ [r], speNext := max x.speNext (x.cyc + r.cost) }
            (if pair then s else s.count st 6 r.cost).engBirty m 3 2 0

/-! Completion (R200, R202, R207) -/

/-- Writes scratch; a lost pair is whole again once both its entries are written (R457). -/
def Stall.speStore (x : Stall) (w : Nat × W32) : Stall :=
  let heal := fun (p : Nat × Nat) => if p.1 == w.1 / 2 then (p.1, p.2 ||| 2 ^ (w.1 % 2)) else p
  { x with scratch := spPut 0 x.scratch w.1 w.2, lostPairs := (x.lostPairs.map heal).filter (·.2 != 3) }

/-- What this message wrote is noted for the rest of the cycle: a dependent one waits for the next (R203). -/
def Stall.speAfter (x : Stall) (r : SpeRun) : Stall :=
  { x with speDone := (x.cyc, r.writeSet) :: x.speDone.filter fun e => e.1 == x.cyc }

/-- Messages whose results are checked: subtrees, not moves (R207). -/
def SpeRun.checked (r : SpeRun) : Bool := r.m.i.tree?.isSome

/-- The oldest issued message ends; messages end in any order their cycles allow. -/
def Stall.speDue (x : Stall) : Option SpeRun := x.spe.find? fun r => decide (r.done ≤ x.cyc)

/-- The tile a message writes. -/
def SpeRun.dest (r : SpeRun) : List Nat := match r.m.i with | .spst _ _ _ => r.tile.toList | _ => []

/-- A message leaves the SPE, and lets go of the tile it read. -/
def State.speLeave (s : State) (st : Nat) (r : SpeRun) : State :=
  (s.modStall st fun x => ({ x with spe := x.spe.erase r }).speAfter r).modStall st fun x =>
    match r.m.i with | .spld _ _ _ => x.release r.tile.toList | _ => x

/-- A running message is abandoned: none of its writes stands, and the tile it was to write returns to EMPTY (R207, R456). -/
def State.speAbandon (s : State) (st : Nat) (r : SpeRun) : State :=
  ((s.speLeave st r).loseTiles st r.dest).engBirty r.m 4 2 ((s.stallD st).cyc + 1 - r.start)

/-- An issued message ends, its residues matching or failing for good (R200, R202, R207). -/
def State.speFinish (s : State) (st : Nat) (r : SpeRun) (ok : Bool) : State :=
  if !ok then (s.speAbandon st r).arithFail r.m 3
  else
    let n := (s.stallD st).cyc + 1 - r.start
    let s := s.speLeave st r
    let dest := r.dest
    let s := s.modStall st fun x =>
      dest.foldl (fun (x : Stall) t => (x.putTile (x.tileD t) 0 r.bytes).modTile t fun y =>
        { y with st := .ready, afl := 0, origin := r.m.arrival }) (r.writes.foldl Stall.speStore x)
    let s := s.modFrame r.m.org.fid fun f => { f with spf := f.spf ||| r.flags }
    s.engBirty r.m 4 2 n

/-- SPE_MESSAGE_COMPLETE (R202, R207): `ok` says whether the residues of a tree result or of the adjoint updates match. -/
def execSpeMessageComplete (st : Nat) (ok : Bool) (s : State) : Out :=
  .next <|
    let x := s.stallD st
    match x.speDue with
    | none => s
    | some r =>
      if (s.stall? st).isNone || s.traceHolds r.m.org 4 then s
      else if !ok && r.checked && r.retried < 2 then
        s.modStall st fun x => { x with spe := x.spe.map fun q => if q == r then { r with retried := r.retried + 1, done := r.done + r.cost + 8 } else q }
      else s.speFinish st r (ok || !r.checked)

end Sys2Proof.Machine
end

