-- ==== Sys2Proof/Machine/Memory.lean ====
section
/-! DEFINITION. Loads, stores, atomics, fences and multicast (09_memory_instr.md R234-R249), the order in which they perform (R213,
R215, R224, R230), and the end of a page-table walk (R390). -/
namespace Sys2Proof

/-- Operations that a later read of the block waits for until they have fired: each could touch the same bytes, or order what follows
(R213, R215, R219, R224). -/
def Instr.gates : Instr → Bool
  | .ld _ _ | .ldh _ _ | .lds _ _ | .st _ _ | .stmc _ _ | .fence _ _ | .fget _ _ | .hdWait _ _ | .hdTest _ _ => true
  | i => i.isAtomic

/-- As a later operation on a sync page sees it: every operation on such pages stands in the way as well (R258, R334). -/
def Instr.gatesSync : Instr → Bool
  | .hdInit _ _ | .hdArr _ _ | .hdXpct _ _ | .fset _ _ => true
  | i => i.gates

/-- Words with no LSID that observe what another party releases (R215): a read that stands after them in a later block waits. -/
def Instr.observes : Instr → Bool
  | .ftest _ | .ttest _ _ | .tget _ _ _ | .lwait _ | .rdwait _ | .rdwaitF _ | .peek _ => true
  | _ => false

/-- Porter jobs that take a card (R268). -/
def Instr.hasCard : Instr → Bool
  | .pld _ _ _ _ | .pst _ _ _ _ | .pcpy _ _ | .pgat _ _ _ _ | .psct _ _ _ _ | .prdc _ _ _ _ | .pxpd _ _ _ _ | .pcmp _ _ _ _
  | .pstrmIn _ _ _ | .pstrmOut _ _ _ => true
  | _ => false

end Sys2Proof
namespace Sys2Proof.Machine

/-! Checking an access when it executes (R234) -/

/-- Starts a walk for an instruction; the instruction waits for it (R390). -/
def State.startWalk (s : State) (c : Cx) (va first heat : Nat) (quiet wr : Bool) : State :=
  ({ s with walks := s.walks ++ [(⟨s.nextId, c.f.ctx, va, c.f.stall, .slot c.b.bid c.slot quiet, wr, heat, first⟩ : Walk)],
            nextId := s.nextId + 1 }).waitOn c .walk

/-- Checks an access and goes on with it; a failed check faults the block (R234). -/
def State.checked (s : State) (c : Cx) (n : Need) (store : Bool) (ea : W64) (size heat : Nat) (k : Acc → State) : State :=
  match s.checkAccess c.f.stall c.f.ctx c.b.bid n store ea size heat with
  | .ok a => k a
  | .walk va => s.startWalk c va ea.toNat heat false n.w
  | .fault cls va h =>
    s.faultAt c { cls := cls, va := va, heat := some h, wr := n.w, straddle := va != ea.toNat % 2 ^ 56 && cls != .address }

/-- Records what a watchpoint and the A and D bits see of an access (R396, R418). -/
def State.sees (s : State) (c : Cx) (a : Acc) (rd wr mark : Bool) : State :=
  s.modBlock c.b.bid fun b => { b with seen := b.seen ++ [⟨a, rd, wr, mark⟩] }

def needR : Need := ⟨true, false, false, false, false⟩
def needW : Need := ⟨false, true, false, false, false⟩
def needRW : Need := ⟨true, true, false, false, false⟩

/-! Bytes of the frame's own earlier writes (R213) -/

/-- Bytes a write names. -/
def Cargo.acc? : Cargo → Option Acc
  | .store a _ _ _ | .atomicWrite a _ _ _ | .hurdle a _ _ _ | .fset a _ => some a
  | _ => none

/-- The bytes a cargo writes at its home. -/
def Cargo.stored : Cargo → Option (Acc × List Byte)
  | .store a d _ _ => some (a, bytesLE d.toNat a.locs.length)
  | .atomicWrite a _ (some w) _ => some (a, bytesLE w.toNat a.locs.length)
  | _ => none

def insertMsq (e : Nat × Acc × List Byte) : List (Nat × Acc × List Byte) → List (Nat × Acc × List Byte)
  | [] => [e]
  | a :: l => if msqLt e.1 a.1 then e :: a :: l else a :: insertMsq e l

/-- The frame's committed writes that have not performed, in program order. -/
def State.flyingWrites (s : State) (fid : Nat) : List (Nat × Acc × List Byte) :=
  (s.flight.filterMap fun w => if w.org.fid == fid then w.cargo.stored.map fun e => (w.msq, e) else none).foldl
    (fun l e => insertMsq e l) []

/-- What an atomic will write, once admitted (R242). -/
def MemOp.writes (m : MemOp) : Option W64 :=
  match m.kind, m.old with
  | .atomic (.cas _ _) e n _ _, some o => if o == e then some n else none
  | .atomic _ _ n _ _, some _ => some n
  | _, _ => none

/-- The block's own writes before an LSID, in program order. -/
def State.blockWrites (s : State) (b : Block) (bsq : W32) (lsid : Nat) : List (Nat × Acc × List Byte) :=
  (b.effs.filterMap fun e =>
    match e.2 with
    | .store n a d _ => if n < lsid then some (msqOf bsq n, a, bytesLE d.toNat a.locs.length) else none
    | .mcast n a d _ _ => if n < lsid then some (msqOf bsq n, a, bytesLE d.toNat a.locs.length) else none
    | .atomic op =>
      (match s.ops.find? (·.oid == op) with
       | some m => if m.lsid < lsid then m.writes.map fun w => (msqOf bsq m.lsid, m.acc, bytesLE w.toNat m.acc.locs.length) else none
       | none => none)
    | _ => none).foldl (fun l e => insertMsq e l) []

/-- The heat whose cell a byte of an access lies in. -/
def cellHeat (heat : Nat) (b : BLoc) : Nat := if b.hp then heat else 0

/-- One byte as a read by heat `h` sees it after one more of its own writes: whether `h`'s cell exists by then, and the value. -/
def overlayByte (h : Nat) (x : BLoc) (p : Bool × Byte) (w : Acc × List Byte) : Bool × Byte :=
  let made := p.1 || (h != 0 && w.1.heat == h && w.1.locs.any fun y => y.hp && y.va / 128 == x.va / 128)
  match (w.1.locs.zip w.2).find? fun y => y.1.pa == x.pa && (cellHeat w.1.heat y.1 == h || (cellHeat w.1.heat y.1 == 0 && !p.1)) with
  | some y => (made, y.2)
  | none => (made, p.2)

/-- The bytes a read of a frame returns: the latest of its own earlier writes to each byte, else the memory's (R213, R218). -/
def State.readOver (s : State) (a : Acc) (ws : List (Nat × Acc × List Byte)) : List Byte :=
  a.locs.map fun x =>
    let h := cellHeat a.heat x
    (ws.foldl (fun p w => overlayByte h x p w.2) (h != 0 && s.hasCell a.ctx h x.va, s.rdLoc a.ctx a.heat x)).2

/-- Two accesses of a frame share a byte, or a sector of one heat's cell (R228). -/
def Acc.meets (a b : Acc) : Bool :=
  a.locs.any fun x => b.locs.any fun y =>
    x.pa == y.pa ||
      (x.hp && y.hp && x.va / 128 == y.va / 128 && (a.heat != 0 || b.heat != 0))

/-! When an operation may perform -/

/-- A region of a card: base and length. -/
def cardRegion (card : List W64) : Nat → Nat × Nat
  | 0 => (bits (card.getD 0 0).toNat 55 0, bits (card.getD 3 0).toNat 31 0)
  | 1 => (bits (card.getD 1 0).toNat 55 0, bits (card.getD 3 0).toNat 63 32)
  | _ => (bits (card.getD 2 0).toNat 55 0, bits (card.getD 4 0).toNat 31 0)

/-- Jobs of the frame's earlier blocks let an access go: none awaits acceptance, and none still writes the bytes (R230). -/
def State.jobsClear (s : State) (st fid : Nat) (bsq : W32) (va size : Nat) : Bool :=
  let x := s.stallD st
  !(x.inPor.any fun m => m.i.hasCard && m.org.fid == fid && bsqLt m.org.bsq bsq) &&
    !(x.jobs.any fun j => !j.card.isEmpty && j.m.org.fid == fid && bsqLt j.m.org.bsq bsq &&
        (j.st == .held ||
          (let w := cardRegion j.card 2
           decide (va < w.1 + w.2) && decide (w.1 < va + size))))

/-- The slot that holds an LSID has fired, or MNULL closed it (R213). -/
def Block.lsidFired (b : Block) (n : Nat) : Bool := b.lsids.any fun e => e.1 == n && (b.slotD e.2).fired

/-- An earlier LSID of the block that has not fired, of an instruction of some kind, stands in the way of an operation (R213). -/
def Block.gapBefore (b : Block) (kind : Instr → Bool) (lsid : Nat) : Bool :=
  let ps := b.parsed
  (List.range lsid).any fun n => b.mmask.testBit n && !b.lsidFired n &&
    ps.any fun p => match p.instr? with
      | some i => kind i && (match i.lsid? with | some l => l.toNat == n | none => false)
      | none => false

/-- Two accesses share a byte of one cell (R210). -/
def Acc.shares (a b : Acc) : Bool :=
  a.locs.any fun x => b.locs.any fun y => x.pa == y.pa && cellHeat a.heat x == cellHeat b.heat y

/-- A release of another frame that has run ahead of the writes before it is not read yet: the release's scope holds both parties, and
an acquire's, where the read is one, does too (R222, R223). -/
def State.earlyHolds (s : State) (f : Frame) (a : Acc) (acq : Option Scope) : Bool :=
  s.early.any fun e => e.fid != f.fid && e.acc.shares a && s.barFlies e &&
    (let p := pairScope e.fid e.stall f.fid f.stall
     decide (p ≤ e.scp.level) && acq.all fun c => decide (p ≤ c.level))

/-- The scope of an outstanding acquire (R215). -/
def MemOp.acquires (m : MemOp) (b : Block) : Option Scope :=
  match m.kind with
  | .load _ true _ | .atomic _ _ _ true _ => some (b.scopeAt m.slot)
  | _ => none

/-- An acquire's read notes the early releases it takes: those for which its scope is too narrow to wait (R223). -/
def State.noteSeen (s : State) (b : Block) (f : Frame) (m : MemOp) : State :=
  if (m.acquires b).isNone then s
  else { s with early := s.early.map fun e =>
    if e.fid != f.fid && e.acc.shares m.acc && decide (pairScope e.fid e.stall f.fid f.stall ≤ e.scp.level) then
      { e with seen := (f.fid, msqOf (s.bsqOf b f) m.lsid) :: e.seen } else e }

/-- A read of a speculative block may perform: nothing in the blocks before can still write its bytes, acquire, order it or name a
job it must wait for (R214, R230, R370). -/
def State.specClear (s : State) (b : Block) (a : Acc) : Bool :=
  (s.preds b).all fun p =>
    !p.gapBefore Instr.gates 32 && p.fences.all (fun e => e.2.1 == .rel) &&
      !((List.range p.icnt).any fun n => match (p.parsed.getD n .second).instr? with
        | some i => i.hasCard || (i.observes && !(p.slotD n).fired)
        | none => false) &&
      !(s.ops.any fun o => o.bid == p.bid && o.old.isNone && (o.acc.meets a || (o.acquires p).isSome))

/-- A read or an atomic's admission may perform: no gap before it, earlier acquires done, earlier reads of the same bytes done,
fences of R224 satisfied, no job in the way, and no release ahead of what it releases (R213, R219, R223, R224, R230). Behind a fence of
a speculative block it waits until the block is confirmed: the blocks before have committed then (R214, R225). -/
def State.readReady (s : State) (b : Block) (f : Frame) (m : MemOp) : Bool :=
  let q := msqOf (s.bsqOf b f) m.lsid
  let earlier := s.ops.filter fun o => o.bid == m.bid && decide (o.lsid < m.lsid) && o.old.isNone
  !b.gapBefore Instr.gates m.lsid && s.specClear b m.acc && !s.earlyHolds f m.acc (m.acquires b) &&
    !(earlier.any fun o => match o.kind with | .load _ a _ => a | .atomic _ _ _ a _ => a || o.acc.meets m.acc) &&
    !(earlier.any fun o => o.acc.meets m.acc) &&
    !(b.spec && b.fences.any fun e => decide (e.1 < m.lsid) && e.2.1 != .rel) && !s.fenceHolds b f m.lsid &&
    !(b.fences.any fun e => decide (e.1 < m.lsid) && (e.2.1 != .rel) && earlier.any fun o => decide (o.lsid < e.1)) &&
    !(b.fences.any fun e => decide (e.1 < m.lsid) && e.2.1 == .plain && s.flight.any fun w => w.cargo.isWrite && w.org.fid == f.fid) &&
    !(s.fences.any fun e => e.1 == f.fid && msqLt e.2.1 q && e.2.2 == .plain &&
        s.flight.any fun w => w.cargo.isWrite && w.org.fid == f.fid && msqLt w.msq e.2.1) &&
    s.jobsClear f.stall f.fid (s.bsqOf b f) m.acc.va m.acc.size

/-- The same aligned 8-byte word of the same cell (R243). -/
def sameWord (a b : Acc) : Bool :=
  a.locs.any fun x => b.locs.any fun y => x.pa / 8 == y.pa / 8 && cellHeat a.heat x == cellHeat b.heat y

/-- An atomic of another frame is pending at a word: admitted and not yet performed or cancelled (R243). -/
def State.wordPending (s : State) (a : Acc) (p : MemOp → Bool) (q : Flight → Bool) : Bool :=
  (s.ops.any fun o => o.old.isSome && sameWord o.acc a && p o) ||
    (s.flight.any fun w => (match w.cargo with | .atomicWrite b _ _ _ => sameWord b a | _ => false) && q w)

/-- Counts an access that performed (R378, R431 MEMOPS, L2_MISS). -/
def State.countAccess (s : State) (st : Nat) (a : Acc) (wr : Bool) : State := (s.count st 9 1).served st a.ctx (a.locs.map (·.pa)) wr

/-! Lost sectors (R456, R457) -/

/-- A hall whose lost list is full is FAILED, and the driver hears of it for each context there (R457, R461). -/
def State.failHall (s : State) (hall : Nat) : State :=
  let s := s.modHall hall fun h => { h with st := .failed }
  let hit := s.ctxs.filter fun c => c.params.pitch.any (hallOfStall · == hall) || s.pagesInHall c hall
  hit.foldl (fun s c => s.tellDriver c.num) s

/-- An uncorrectable error makes a sector lost (R456, R457). -/
def State.loseSector (s : State) (ctx heat : Nat) (b : BLoc) : State :=
  let h := (s.homeOf b.pa).1
  let k := s.locKey ctx heat b
  if paKind b.pa == .scratch then
    s.modHall h fun x => { x with lostScratch := (b.pa / 128, 0) :: x.lostScratch.filter (·.1 != b.pa / 128) }
  else if (s.hallD h).lost.contains k then s
  else if 256 ≤ (s.hallD h).lost.length then s.failHall h
  else s.modHall h fun x => { x with lost := x.lost ++ [k] }

/-! Loads (R238, R240) -/

/-- The outstanding operation an executed load or atomic becomes. -/
def State.addOp (s : State) (c : Cx) (lsid : BitVec 5) (k : OpKind) (a : Acc) : State :=
  { s with ops := s.ops ++ [⟨s.nextId, c.b.bid, c.slot, lsid.toNat, k, a, none, c.org, []⟩], nextId := s.nextId + 1 }

/-- LD and LDH of a speculative block (R370): they behave as LDS and wait for an absent translation; a failed check gives 0, and the
block is then mapped again when its turn comes, since the run that counts must take that fault (R214). -/
def State.specLoad (s : State) (c : Cx) (h : Hd) (m : MF) (n : Need) (base : W64) (heat : Nat) : State :=
  match s.checkAccess c.f.stall c.f.ctx c.b.bid n false (m.ea base) m.wid.bytes heat with
  | .ok a => ((s.done c).sees c a true false false).addOp c m.lsid (.load m.wid.signed m.ord.isAcq true) a
  | .walk _ => s.waitOn c .order
  | .fault _ _ _ => (s.deliver c h 0).modBlock c.b.bid fun b => { b with guess := true }

/-- LD and LDH (R238): of these a control page takes the plain 8-byte LD only (R402). -/
def State.loadBy (s : State) (c : Cx) (h : Hd) (m : MF) (base : W64) (heat : Nat) (ld : Bool) : State :=
  let n : Need := { needR with plain8 := ld && m.wid == .d && m.ord == .plain, hnd := c.f.handler }
  s.satisfyLsid c m.lsid fun s =>
    if c.b.spec then s.specLoad c h m n base heat
    else
      s.checked c n false (m.ea base) m.wid.bytes heat fun a =>
        ((s.done c).sees c a true false true).addOp c m.lsid (.load m.wid.signed m.ord.isAcq false) a

def execLd (h : Hd) (m : MF) (s : State) : Out := s.runWord h fun c => s.loadBy c h m (m.base c) (m.heat c) true

/-- LDH takes its heat from the left operand (R238). -/
def execLdh (h : Hd) (m : MF) (s : State) : Out := s.runWord h fun c => s.loadBy c h m (m.base c) (m.heat c) false

/-- LDS delivers 0 where a check fails (R240). -/
def execLds (h : Hd) (m : MF) (s : State) : Out :=
  s.runWord h fun c =>
    s.satisfyLsid c m.lsid fun s =>
      if c.b.zeroed.contains c.slot then s.deliver c h 0
      else
        match s.checkAccess c.f.stall c.f.ctx c.b.bid needR false (m.ea (m.base c)) m.wid.bytes (m.heat c) with
        | .ok a => ((s.done c).sees c a true false false).addOp c m.lsid (.load m.wid.signed false true) a
        | .walk va => if c.b.spec then s.waitOn c .order else s.startWalk c va (m.ea (m.base c)).toNat (m.heat c) true false
        | .fault _ _ _ => s.deliver c h 0

/-- PREF asks its home slice to hold the sector; it is no event and changes no value, and where a check fails it has no effect (R241). -/
def execPref (h : Hd) (m : MF) (s : State) : Out :=
  s.runWord h fun c =>
    s.satisfyLsid c m.lsid fun s =>
      if c.b.zeroed.contains c.slot then s.done c
      else
        match s.checkAccess c.f.stall c.f.ctx c.b.bid needR false (m.ea (m.base c)) 1 (m.heat c) with
        | .ok a => (s.done c).served c.f.stall c.f.ctx [a.pa] false
        | .walk va => if c.b.spec then s.waitOn c .order else s.startWalk c va (m.ea (m.base c)).toNat (m.heat c) true false
        | .fault _ _ _ => s.done c

/-- A pair-control register as a load sees it (R401, R402). -/
def State.controlRead (s : State) (pa : Nat) : Nat :=
  match s.pairAt? pa with
  | none => 0
  | some p =>
    if pa % 4096 = 0 then p.wpr
    else if pa % 4096 = 8 then p.err * 2 ^ 16 + p.stt * 2 ^ 8 + p.cur
    else if pa % 4096 = 16 then p.hva
    else 0

/-- Bytes of an access, from a pair's registers on a control page (R402). -/
def State.readBytes (s : State) (a : Acc) (ws : List (Nat × Acc × List Byte)) : List Byte :=
  if paKind a.pa == .control then bytesLE (s.controlRead a.pa) a.size else s.readOver a ws

/-- A copied sector as the first write of the cell it will start (R228). -/
def Copy.write (k : Copy) : Nat × Acc × List Byte := (0, ⟨k.ctx, k.heat, k.sec * 128, 128, locsFrom (k.sec * 128) k.pa 128 true⟩, k.bytes)

/-- All the frame's own writes that stand before an operation: copies of sectors, committed writes on their way, those of the blocks
before a speculative one, and its block's (R213, R228, R370). -/
def State.ownWrites (s : State) (b : Block) (f : Frame) (lsid : Nat) : List (Nat × Acc × List Byte) :=
  (s.copies.filter fun k => k.fid == f.fid && !s.made.contains (k.ctx, k.heat, k.sec)).map (·.write) ++ s.flyingWrites f.fid ++
    (s.preds b).reverse.flatMap (fun p => s.blockWrites p (s.bsqOf p f) 32) ++ s.blockWrites b (s.bsqOf b f) lsid

/-- A read behind an unperformed write of its frame to a sector that has no cell: where it takes a byte of the base sector, the cell
will start as the sector stands now, so that the frame's later reads find the same bytes in it: R228's one read of the sector comes before
the store in the frame's order, and no later read may return an older byte, where R85's copy as the store performs would (log 132). -/
def State.noteCopies (s : State) (fid bid : Nat) (a : Acc) (ws : List (Nat × Acc × List Byte)) : State :=
  let open_ := fun (x : BLoc) =>
    x.hp && a.heat != 0 && !s.hasCell a.ctx a.heat x.va &&
      !(s.copies.any fun k => k.fid == fid && k.ctx == a.ctx && k.heat == a.heat && k.sec == x.va / 128) &&
      (ws.any fun w => w.2.1.heat == a.heat && w.2.1.sectors.contains (x.va / 128)) &&
      !(ws.any fun w => w.2.1.heat == a.heat && w.2.1.locs.any fun y => y.hp && y.va == x.va)
  let secs := ((a.locs.filter open_).map fun x => (x.va / 128, x.pa / 128 * 128)).eraseDups
  let use := fun (k : Copy) => if k.fid == fid && k.ctx == a.ctx && k.heat == a.heat && a.sectors.contains k.sec then { k with users := bid :: k.users } else k
  { s with copies := s.copies.map use ++ secs.map fun e => ⟨fid, a.ctx, a.heat, e.2, e.1, getBytes s.mem e.2 128, [bid], false⟩ }

/-- A scratch sector that has gone since the check (R235, R403). -/
def State.accGone (s : State) (a : Acc) : Bool := a.locs.any fun x => paKind x.pa == .scratch && !s.scratchPresent x.pa

/-- A location of an access that has no home now (R235, R403), and one that lies in a lost sector (R457). -/
def State.locGone (s : State) (x : BLoc) : Bool := paKind x.pa == .scratch && !s.scratchPresent x.pa
def State.locLost (s : State) (a : Acc) (rd : Bool) (x : BLoc) : Bool := s.accLost { a with locs := [x] } rd

/-- What a record says of an access that failed at its home: the first byte that has failed, with its page (R438, R439). -/
def Acc.failInfo (a : Acc) (bad : BLoc → Bool) (cls : Cls) (eng : Nat) (wr : Bool) : FaultInfo :=
  let x := (a.locs.find? bad).getD (a.locs.headD default)
  { cls := cls, va := x.va, pa := some x.pa, heat := some a.heat, eng := eng, wr := wr, straddle := x.va / 4096 != a.va / 4096 }

/-- An operation writes: an atomic. -/
def MemOp.writing (m : MemOp) : Bool := match m.kind with | .atomic _ _ _ _ _ => true | .load _ _ _ => false

/-- An executed operation meets an error at its home before the commit: the block is discarded (R235, R457). -/
def State.readError (s : State) (b : Block) (m : MemOp) (bad : BLoc → Bool) (cls : Cls) : State :=
  s.blockFault b.bid m.slot (m.acc.failInfo bad cls 0 m.writing)

/-- A load's bytes are all read: its value goes to its targets (R238). -/
def State.loadDone (s : State) (b : Block) (f : Frame) (m : MemOp) (h : Hd) (sg : Bool) (bs : List Byte) : State :=
  (({ s.noteSeen b f m with ops := s.ops.filter (·.oid != m.oid) }).sendToken b.bid m.slot h (extendValue sg m.acc.size (ofBytes bs))
    ({ f with bsq := s.bsqOf b f }.prevArrival 1)).countAccess f.stall m.acc false

/-- A misaligned load reads its bytes one by one, in an order nothing fixes (R210). -/
def State.readByte (s : State) (b : Block) (f : Frame) (m : MemOp) (h : Hd) (sg : Bool) : State :=
  let todo := (List.range m.acc.size).filter fun k => !m.part.any (·.1 == k)
  match s.choose todo with
  | (some k, s) =>
    let a := m.acc.byte k
    let ws := s.ownWrites b f m.lsid
    let part := (k, (s.readBytes a ws).headD 0) :: m.part
    let s := s.noteCopies f.fid b.bid a ws
    if todo.length ≤ 1 then
      s.loadDone b f m h sg ((List.range m.acc.size).map fun i => ((part.find? (·.1 == i)).map (·.2)).getD 0)
    else { s with ops := s.ops.map fun (o : MemOp) => if o.oid == m.oid then { o with part := part } else o }
  | (none, s) => s

/-- MEM_READ_RESPONSE (R213, R234, R238): `err` is an uncorrectable error met at the home (R456). -/
def execMemReadResponse (op : Nat) (err : Bool) (s : State) : Out :=
  .next <|
    match s.ops.find? (·.oid == op) with
    | none => s
    | some m =>
      match s.block? m.bid, m.kind with
      | some b, .load sg _ _ =>
        (match s.frame? b.fid with
         | none => s
         | some f =>
           if !s.stallRuns f.stall || !s.readReady b f m then s
           else if err then (s.loseSector m.acc.ctx m.acc.heat (m.acc.locs.headD default)).readError b m (fun _ => true) .dataError
           else if s.accGone m.acc then s.readError b m s.locGone .scratchAbsent
           else if s.accLost m.acc true then s.readError b m (s.locLost m.acc true) .dataError
           else
             match (b.instr? m.slot) with
             | none => s
             | some i =>
               if m.acc.split then s.readByte b f m i.hd sg
               else
                 let ws := s.ownWrites b f m.lsid
                 (s.noteCopies f.fid b.bid m.acc ws).loadDone b f m i.hd sg (s.readBytes m.acc ws))
      | _, _ => s

/-! Stores (R239) -/

/-- The check and record of ST. -/
def execSt (h : Hd) (m : MF) (s : State) : Out :=
  s.runWord h fun c =>
    let n : Need := { needW with plain8 := m.wid == .d && m.ord == .plain, hnd := c.f.handler }
    s.satisfyLsid c m.lsid fun s =>
      s.checked c n true (m.ea (m.base c)) m.wid.bytes (m.heat c) fun a =>
        ((s.reserve c.b.bid a).effect c (.store m.lsid.toNat a (m.data c) m.ord.isRel)).sees c a false true true

/-! Atomics (R242, R243) -/

/-- What an AMO writes, from the old value (R242). -/
def amoNew (i : Instr) (w old x : Nat) : Nat :=
  match i with
  | .amoAdd _ _ => (old + x) % 2 ^ w
  | .amoAnd _ _ => old &&& x
  | .amoOr _ _ => old ||| x
  | .amoXor _ _ => old ^^^ x
  | .amoMin _ _ => if sext old w ≤ sext x w then old else x
  | .amoMax _ _ => if sext old w ≥ sext x w then old else x
  | _ => x

/-- AMO and CAS execute: alignment, checks and the arena (R242, R254); admission follows. -/
def State.atomicBy (s : State) (c : Cx) (m : MF) (i : Instr) (opnd new : W64) : State :=
  s.satisfyLsid c m.lsid fun s =>
    let ea := m.ea (m.base c)
    if ea.toNat % m.wid.bytes != 0 then s.faultAt c { cls := .address, va := some (ea.toNat % 2 ^ 56), heat := some (m.heat c), wr := true }
    else
      s.checked c needRW true ea m.wid.bytes (m.heat c) fun a =>
        let id := s.nextId
        ((((s.reserve c.b.bid a).addOp c m.lsid (.atomic i opnd new m.ord.isAcq m.ord.isRel) a)).effect c (.atomic id)).sees c a true true true

/-- AMO.add (R242). -/
def execAmoAdd (h : Hd) (m : MF) (s : State) : Out := s.runWord h fun c => s.atomicBy c m (.amoAdd h m) (m.data c) 0
/-- AMO.and (R242). -/
def execAmoAnd (h : Hd) (m : MF) (s : State) : Out := s.runWord h fun c => s.atomicBy c m (.amoAnd h m) (m.data c) 0
/-- AMO.or (R242). -/
def execAmoOr (h : Hd) (m : MF) (s : State) : Out := s.runWord h fun c => s.atomicBy c m (.amoOr h m) (m.data c) 0
/-- AMO.xor (R242). -/
def execAmoXor (h : Hd) (m : MF) (s : State) : Out := s.runWord h fun c => s.atomicBy c m (.amoXor h m) (m.data c) 0
/-- AMO.swap (R242). -/
def execAmoSwap (h : Hd) (m : MF) (s : State) : Out := s.runWord h fun c => s.atomicBy c m (.amoSwap h m) (m.data c) 0
/-- AMO.min (R242). -/
def execAmoMin (h : Hd) (m : MF) (s : State) : Out := s.runWord h fun c => s.atomicBy c m (.amoMin h m) (m.data c) 0
/-- AMO.max (R242). -/
def execAmoMax (h : Hd) (m : MF) (s : State) : Out := s.runWord h fun c => s.atomicBy c m (.amoMax h m) (m.data c) 0
/-- CAS: expected on R, new on P (R45, R242). -/
def execCas (h : Hd) (m : MF) (s : State) : Out :=
  s.runWord h fun c => s.atomicBy c m (.cas h m) (extendValue false m.wid.bytes c.r.toNat) (extendValue false m.wid.bytes c.p.toNat)

/-- A write that an early release of another frame has run past has yet to perform on the word: it goes first, so that what waits for
those writes cannot hold them up (R223, R243). -/
def State.barWrites (s : State) (f : Frame) (a : Acc) : Bool :=
  s.early.any fun e => e.fid != f.fid && s.flight.any fun w => e.bar.contains w.id && (w.cargo.acc?).any fun x => sameWord x a

/-- ATOMIC_ADMIT (R243): the home reads the old value, delivers it, and holds the write until commit or discard. -/
def execAtomicAdmit (op : Nat) (s : State) : Out :=
  .next <|
    match s.ops.find? (·.oid == op) with
    | none => s
    | some m =>
      match s.block? m.bid, m.kind, m.old with
      | some b, .atomic i x nw acq rel, none =>
        (match s.frame? b.fid with
         | none => s
         | some f =>
           if !s.stallRuns f.stall || !s.readReady b f m || s.wordPending m.acc (fun _ => true) (fun _ => true) || s.barWrites f m.acc then s
           else if s.accGone m.acc then s.readError b m s.locGone .scratchAbsent
           else if s.accLost m.acc true then s.readError b m (s.locLost m.acc true) .dataError
           else
             let ws := s.ownWrites b f m.lsid
             let old := ofBytes (s.readOver m.acc ws)
             let w := 8 * m.acc.size
             let new := match i with
               | .cas _ _ => nw
               | _ => BitVec.ofNat 64 (amoNew i w old (x.toNat % 2 ^ w))
             let s := { (s.noteCopies f.fid b.bid m.acc ws).noteSeen b f m with ops := s.ops.map fun (o : MemOp) =>
               if o.oid == op then { o with old := some (BitVec.ofNat 64 old), kind := .atomic i x new acq rel } else o }
             (s.sendToken b.bid m.slot i.hd (BitVec.ofNat 64 old) (f.prevArrival 1)).countAccess f.stall m.acc false)
      | _, _, _ => s

/-- FENCE takes effect in the order unit (R224, R225, R245). -/
def execFence (h : Hd) (m : MF) (s : State) : Out :=
  s.runWord h fun c =>
    s.satisfyLsid c m.lsid fun s =>
      (s.done c).modBlock c.b.bid fun b => { b with fences := b.fences ++ [(m.lsid.toNat, m.ord, m.scp)] }

/-! Multicast (R247-R249, R258) -/

/-- STMC: form, checks, and the fifteen entries read at execution, plain reads that wait as a load does (R213, R218, R230, R248). A
misaligned address is MCAST_FORM by R248's words; the table of R260 lists it under ADDRESS (log 100). -/
def execStmc (h : Hd) (m : MF) (s : State) : Out :=
  s.runWord h fun c =>
    s.satisfyLsid c m.lsid fun s =>
      let ea := m.ea (m.base c)
      let bad : FaultInfo := { cls := .mcastForm, va := some (ea.toNat % 2 ^ 56), heat := some (m.heat c), wr := true }
      if ea.toNat / 2 ^ 56 = 0 && (8 ≤ ea.toNat % 128 || ea.toNat % m.wid.bytes != 0) then s.faultAt c bad
      else
        s.checked c needW true ea m.wid.bytes (m.heat c) fun a =>
          if a.locs.any (·.hp) then s.faultAt c bad
          else
            let pa := a.pa / 128 * 128
            let entry : Acc := { a with va := ea.toNat / 128 * 128 + 8, size := 120, locs := locsFrom (ea.toNat / 128 * 128 + 8) (pa + 8) 120 false }
            if !s.readReady c.b c.f ⟨0, c.b.bid, c.slot, m.lsid.toNat, .load false false false, entry, none, c.org, []⟩ then s.waitOn c .order
            else if s.accLost entry true then s.faultAt c (entry.failInfo (s.locLost entry true) .dataError 0 false)
            else
              let bs := s.readOver entry (s.ownWrites c.b c.f m.lsid.toNat)
              let es := ((pieces 8 15 bs).map fun e => BitVec.ofNat 64 (ofBytes e)).filter (·.getLsbD 63)
              (s.effect c (.mcast m.lsid.toNat a (m.data c) m.ord.isRel es)).sees c a false true true

/-- Earlier writes of the frame, some of which may stand before this one. -/
def State.earlierWrites (s : State) (w : Flight) : List Flight :=
  s.flight.filter fun e => e.cargo.isWrite && e.org.fid == w.org.fid && msqLt e.msq w.msq

/-- MCAST_DELIVERY (R226, R249): accepted by a WORD tile of the context's pitch that is EMPTY or FILLING, else dropped and counted. A
tile that a running engine message writes changes by nothing else (R161): the delivery waits for the message's end (log 101). -/
def execMcastDelivery (k : Nat) (s : State) : Out :=
  .next <|
    match s.flight[k]? with
    | none => s
    | some w =>
      match w.cargo with
      | .mcast e size d rel =>
        let st := bits e.toNat 10 0
        let n := bits e.toNat 16 11
        let bofs := bits e.toNat 36 18
        let x := s.stallD st
        let t := x.tileD n
        let mine := ((s.ctx? w.org.ctx).map fun c => c.params.pitch.contains st).getD false
        if (mine && (x.saved || !x.pagesIn t || x.engineWrites n)) || (rel && !(s.earlierWrites w).isEmpty) then s
        else
          let s := s.land k
          if mine && t.lay && !x.bound n && decide (bofs + size ≤ t.bytes) && (t.st == .empty || t.st == .filling) then
            let arr := (t.arr + size) % 2 ^ 20
            (s.modStall st fun x => ((x.pin t).putTile t bofs (bytesLE d.toNat size)).modTile n fun t =>
              { t with arr := arr, st := if t.exp ≤ arr && !x.jobs.any (fun (j : Job) => !j.settled && j.dests.contains n) then .ready else .filling,
                       origin := ⟨4, w.org.fn, w.org.bsq, w.org.stall, false⟩ })
          else s.modCtx w.org.ctx fun c => { c with dropped := c.dropped + 1 }
      | _ => s

/-! A committed write performs at its home (R215, R224, R235, R239) -/

/-- A write that orders everything before it (R215): a release. FSET and HD.ARR are releases too. -/
def Cargo.isRel : Cargo → Bool
  | .store _ _ r _ => r
  | .atomicWrite _ _ w r => w.isSome && r
  | .fset _ _ => true
  | .hurdle _ k _ _ => k == 1
  | _ => false

/-- Hurdle operations and multicast value words of one frame perform at each home in MSQ order (R258). -/
def Cargo.inMsqOrder : Cargo → Bool
  | .store _ _ _ mc => mc
  | .hurdle _ _ _ _ => true
  | _ => false

/-- The order of a frame's writes lets this one go, what it releases left aside (R213, R224, R258). -/
def State.plainOrder (s : State) (w : Flight) : Bool :=
  let es := s.earlierWrites w
  !(w.cargo.inMsqOrder && es.any fun e => e.cargo.inMsqOrder &&
        (match e.cargo.acc?, w.cargo.acc? with | some a, some b => s.homeOf a.pa == s.homeOf b.pa | _, _ => false)) &&
    !(es.any fun e => match e.cargo.acc?, w.cargo.acc? with | some a, some b => a.meets b | _, _ => false) &&
    !(s.fences.any fun f => f.1 == w.org.fid && f.2.2 != .acq && msqLt f.2.1 w.msq && es.any fun e => msqLt e.msq f.2.1)

/-- The order of a frame's writes lets this one go: a release goes behind all of them (R213, R215, R224, R258). -/
def State.writeOrder (s : State) (w : Flight) : Bool := !(w.cargo.isRel && !(s.earlierWrites w).isEmpty) && s.plainOrder w

/-- Jobs issued before the write's block let it go (R230). -/
def State.writeClear (s : State) (w : Flight) (a : Acc) : Bool := s.jobsClear w.org.stall w.org.fid w.org.bsq a.va a.size

/-- Another frame's atomic is pending on a word of a write (R243). -/
def State.othersPend (s : State) (w : Flight) (a : Acc) : Bool :=
  s.wordPending a (fun o => o.org.fid != w.org.fid) (fun e => e.org.fid != w.org.fid)

/-- A write waits for nothing but the writes of its frame before it. -/
def State.unheld (s : State) (w : Flight) : Bool :=
  (w.cargo.acc?).any fun a => paKind a.pa != .control && s.writeClear w a && !s.othersPend w a

/-- A release may perform ahead of earlier writes of its frame where every reader it holds for waits for these (R222, R223): no waiter
of its word lies within its scope, the host, which does not wait, does not see the word, and nothing else holds those writes up. -/
def State.mayEarly (s : State) (w : Flight) (a : Acc) : Bool :=
  w.cargo.isRel && s.plainOrder w && (s.earlierWrites w).all s.unheld && !(w.org.scp == .sys && paKind a.pa == .host) &&
    !(s.conts.any fun k => k.ctx == a.ctx && k.va == a.va && !k.dead &&
      (match s.frame? k.fid with
       | some g => decide (pairScope w.org.fid w.org.stall g.fid g.stall ≤ w.org.scp.level)
       | none => false))

/-- A write performs: behind all that is before it, or ahead of it with a note of what it ran past (R223). -/
def State.writeGoes (s : State) (w : Flight) (a : Acc) : Bool := s.writeOrder w || s.mayEarly w a
def State.noteEarly (s : State) (w : Flight) (a : Acc) : State :=
  if s.writeOrder w then s
  else { s with early := s.early ++ [⟨w.org.fid, w.org.stall, w.org.scp, a, (s.earlierWrites w).map (·.id), []⟩] }

/-- The reservations of a block for sectors end: a write of it has made or found the cell, or none of it is left to (R85). -/
def State.endReserve (s : State) (ctx bid heat : Nat) (secs : List Nat) : State :=
  s.modCtx ctx fun c => { c with reserved := c.reserved.filter fun r => !(r.1 == bid && r.2.1 == heat && secs.contains r.2.2) }

/-- Cells that a frame's copies start are made (R228). -/
def State.startCells (s : State) (fid : Nat) (a : Acc) : State :=
  (s.copies.filter fun k => k.fid == fid && k.ctx == a.ctx && k.heat == a.heat && a.sectors.contains k.sec).foldl (fun s k =>
    if !s.heatLive k.ctx k.heat || s.made.contains (k.ctx, k.heat, k.sec) then s
    else { s with made := (k.ctx, k.heat, k.sec) :: s.made, cells := putBytes s.cells (cellKey k.ctx k.heat k.sec) k.bytes }) s

/-- Writes an access's bytes; those for the cell of a heat that has ended go nowhere (R252). -/
def State.performWrite (s : State) (bid : Nat) (a : Acc) (bs : List Byte) : State :=
  let live := s.heatLive a.ctx a.heat
  let es := (a.locs.zip bs).filter fun e => !e.1.hp || a.heat == 0 || live
  let s := s.wrLocs a.ctx a.heat (es.map (·.1)) (es.map (·.2))
  let s := es.foldl (fun s e => s.healScratch e.1.pa) s
  if a.heat = 0 then s else s.endReserve a.ctx bid a.heat a.sectors

/-- A committed access meets an error at its home: a report, and nothing is performed (R235). R85 ends a reservation in three ways, and
none of them speaks of such a store: its slots return to the arena once no write of the block on its way covers their sectors (DESIGN
CHOICE, log 33). -/
def State.writeError (s : State) (w : Flight) (a : Acc) (bad : BLoc → Bool) (cls : Cls) : State :=
  let idle := a.sectors.filter fun sec => !s.flight.any fun e => e.org.bid == w.org.bid &&
    (match e.cargo.acc? with | some b => b.ctx == a.ctx && b.heat == a.heat && b.sectors.contains sec | none => false)
  ((s.endReserve a.ctx w.org.bid a.heat idle).report w.org (a.failInfo bad cls 5 true)).dropCopies w.org.fid

/-- STORE_PERFORM (R239, R243); an atomic was counted as it was admitted (R431). `err` is an uncorrectable error met at the home. -/
def execStorePerform (k : Nat) (err : Bool) (s : State) : Out :=
  .next <|
    match s.flight[k]? with
    | none => s
    | some w =>
      let act := fun (a : Acc) (bs : List Byte) (touch count : Bool) =>
        let s := (s.noteEarly w a).land k
        if err then (s.loseSector a.ctx a.heat (a.locs.headD default)).writeError w a (fun _ => true) .dataError
        else if s.accGone a then s.writeError w a s.locGone .scratchAbsent
        else if s.accLost a false then s.writeError w a (s.locLost a false) .dataError
        else
          let s := if touch then ((s.startCells w.org.fid a).performWrite w.org.bid a bs).dropCopies w.org.fid else s
          if count then s.countAccess w.org.stall a true else if touch then s.served w.org.stall a.ctx (a.locs.map (·.pa)) true else s
      match w.cargo with
      | .store a d _ _ =>
        if paKind a.pa == .control || !s.writeGoes w a || !s.writeClear w a ||
            s.othersPend w a then s
        else act a (bytesLE d.toNat a.locs.length) true true
      | .atomicWrite a _ (some v) _ =>
        if !s.writeGoes w a then s else act a (bytesLE v.toNat a.locs.length) true false
      | .atomicWrite a _ none _ =>
        -- a failed CAS writes nothing, and still makes its heat's cell (R242)
        if !s.writeOrder w then s else act a (s.rdAcc a) (a.heat != 0 && a.locs.any (·.hp)) false
      | _ => s

/-! Walks (R390, R394, R442) -/

/-- The class of a fetch whose walk failed (R442). -/
def fetchClass (c : Cls) : Cls := if c = .pageAbsent then .fetchAbsent else c

/-- The walker takes 128 walks of a hall at once; further ones queue in order of request (R390). -/
def State.walking (s : State) (k : Walk) : Bool :=
  ((s.walks.filter fun x => hallOfStall x.stall == hallOfStall k.stall).take 128).any (·.id == k.id)

/-- PAGE_WALK_DONE: a translation fills the TLBs and its waiter goes on; a fault goes to the waiter (R390, R394, R240, R275, R442). -/
def execPageWalkDone (w : Nat) (s : State) : Out :=
  .next <|
    match s.walks.find? (·.id == w) with
    | none => s
    | some k =>
      if !s.walking k then s else
      let r := s.walkVa k.ctx k.va
      let s := { s with walks := s.walks.filter (·.id != w) }.served k.stall k.ctx (s.walkReads k.ctx k.va) false
      let s := match r with
        | .ok l => s.fillTlb k.stall k.ctx k.va l
        | .error _ => s
      match k.who, r with
      | .slot bid slot quiet, r =>
        let s := s.modBlock bid fun b => { b with waits := b.waits.filter (·.1 != slot) }
        (match r, quiet, s.block? bid with
         | .ok _, _, _ => s
         | .error _, true, _ => s.modBlock bid fun b => { b with zeroed := slot :: b.zeroed }
         | .error cls, false, some _ =>
           s.blockFault bid slot { cls := cls, va := k.va, heat := some k.heat, wr := k.wr, straddle := k.va != k.first }
         | .error _, false, none => s)
      | .fetch fid, .ok _ => s.modFrame fid fun f => { f with fetching := false }
      | .fetch fid, .error cls => s.mapFault fid 0xFF { cls := fetchClass cls, va := k.va, straddle := k.va != k.first }

end Sys2Proof.Machine
end

