-- ==== Sys2Proof/Machine/Sync.lean ====
section
/-! DEFINITION. Sync pages: hurdles (R255-R258), future cells with their readers and setters (R327-R335), the continuation lists of
both (R329), and the events that reach them at their homes (R330). -/
namespace Sys2Proof.Machine

def needSync (r w : Bool) : Need := ⟨r, w, true, false, false⟩

/-- The current home address of a cell or hurdle word. -/
def Acc.word (a : Acc) (s : State) : Nat := s.rdLE a.pa 16

/-- The origin of what a cell or hurdle word delivers (R429). -/
def State.originAt (s : State) (ctx va edge : Nat) : Arrival :=
  match s.origins.find? fun o => o.1 == ctx && o.2.1 == va with
  | some o => { o.2.2 with edge := edge }
  | none => { (default : Arrival) with edge := edge }
def State.setOrigin (s : State) (o : Org) (va : Nat) : State :=
  { s with origins := (o.ctx, va, ⟨0, o.fn, o.bsq, o.stall, false⟩) :: s.origins.filter fun e => !(e.1 == o.ctx && e.2.1 == va) }

/-! Waiting at a word (R329) -/

/-- The record of an instruction that waits at a cell or hurdle word. -/
def State.newCont (s : State) (c : Cx) (va : Nat) (hurdle : Bool) : Cont :=
  ⟨va, c.f.ctx, c.f.fid, c.b.bid, c.slot, false, hurdle, (s.ctx? c.f.ctx).elim 1 fun x => s.contPlace x c.f.stall c.b.bid c.slot⟩

/-- Links a continuation at the head of the list of a cell or hurdle word, and the instruction waits (R257, R329, R334). -/
def State.link (s : State) (c : Cx) (a : Acc) (hurdle : Bool) : State :=
  let k := s.newCont c a.va hurdle
  let t := { s with conts := k :: s.conts }.wrCont k (contHead (s.contList c.f.ctx a.va))
  (t.wrLE a.pa 16 (headWord (s.rdLE a.pa 16) k.at_ hurdle)).waitOn c (.cont a.va)

/-- What a released waiter delivers: FTEST and HD.TEST give 1 (R257, R335). -/
def wakeValue (i : Instr) (v : W64) : W64 :=
  match i with
  | .ftest _ | .hdTest _ _ => 1
  | _ => v

/-- Delivers to one waiter (R329, R330). -/
def State.wake1 (s : State) (v : W64) (a : Arrival) (k : Cont) : State :=
  match s.block? k.bid with
  | none => s
  | some b =>
    match s.frame? k.fid, b.instr? k.slot with
    | some f, some i =>
      ((s.modBlock k.bid fun b => b.markFired k.slot true).count f.stall 3 1).sendToken k.bid k.slot i.hd (wakeValue i v) a
    | _, _ => s

/-- The list at a word empties: every record that is not DEAD gets the value (R256, R330). -/
def State.wakeAll (s : State) (ctx va : Nat) (v : W64) (a : Arrival) : State :=
  let mine := s.conts.filter fun k => k.ctx == ctx && k.va == va
  let s := { s with conts := s.conts.filter fun k => !(k.ctx == ctx && k.va == va) }
  (mine.filter (!·.dead)).foldl (fun s k => s.wake1 v a k) s

/-- The waiters of a reclaimed future fault (R330). -/
def State.failWaiters (s : State) (ctx va : Nat) : State :=
  let mine := s.conts.filter fun k => k.ctx == ctx && k.va == va
  let s := { s with conts := s.conts.filter fun k => !(k.ctx == ctx && k.va == va) }
  (mine.filter (!·.dead)).foldl (fun s k => s.blockFault k.bid k.slot { cls := .futureReclaimed, va := va }) s

/-! Checks -/

/-- A sync access of 16 bytes: alignment, then the checks of R234 with the SYNC attribute required (R246, R331, R334). -/
def State.syncChecked (s : State) (c : Cx) (r w : Bool) (ea : W64) (heat : Nat) (k : Acc → State) : State :=
  if ea.toNat % 16 != 0 then s.faultAt c { cls := .address, va := some (ea.toNat % 2 ^ 56), heat := some heat, wr := w }
  else s.checked c (needSync r w) false ea 16 heat k

/-- A sync read acts at its home: it stands behind what R213, R224, R230 and R258 put before it, else it waits in the order unit. -/
def State.syncReady (s : State) (c : Cx) (lsid : BitVec 5) (a : Acc) (hurdle : Bool) : Bool :=
  s.readReady c.b c.f ⟨0, c.b.bid, c.slot, lsid.toNat, .load false true false, a, none, c.org, []⟩ &&
    !c.b.gapBefore Instr.gatesSync lsid.toNat &&
    !(hurdle && c.b.effs.any fun e => match e.2 with
      | .hurdle n x _ _ | .mcast n x _ _ _ => decide (n < lsid.toNat) && s.homeOf x.pa == s.homeOf a.pa
      | _ => false) &&
    !(s.flight.any fun w => w.org.fid == c.f.fid &&
        ((hurdle && w.cargo.inMsqOrder && (match w.cargo.acc? with | some x => s.homeOf x.pa == s.homeOf a.pa | none => false)) ||
          (match w.cargo with | .fset x _ => x.pa == a.pa | _ => false)))

/-- A sync access at its home meets a lost sector before the commit (R235, R457). -/
def State.syncRead (s : State) (c : Cx) (a : Acc) (k : Nat → State) : State :=
  if s.accLost a true then s.faultAt c (a.failInfo (s.locLost a true) .dataError 0 false)
  else k (a.word s)

/-! Hurdles (R255-R258) -/

def hdExpect (w : Nat) : Nat := bits w 31 0
def hdArrived (w : Nat) : Nat := bits w 63 32
def hdPhase (w : Nat) : Nat := bits w 64 64
def hdHead (w : Nat) : Nat := bits w 119 68
/-- A hurdle word from its fields; the reserved bits stand. -/
def hdWord (w expect arrived phase head : Nat) : Nat :=
  bits w 127 120 * 2 ^ 120 + head * 2 ^ 68 + bits w 67 65 * 2 ^ 65 + phase % 2 * 2 ^ 64 + arrived * 2 ^ 32 + expect

/-- HD.INIT, HD.ARR and HD.XPCT execute; they perform after commit (R256). -/
def State.hurdleBy (s : State) (c : Cx) (m : MF) (kind : Nat) : State :=
  s.satisfyLsid c m.lsid fun s =>
    s.syncChecked c true true (m.ea c.l) (m.heat c) fun a =>
      (s.effect c (.hurdle m.lsid.toNat a kind (c.r.setWidth 32))).sees c a true true true

def execHdInit (h : Hd) (m : MF) (s : State) : Out := s.runWord h fun c => s.hurdleBy c m 0
def execHdArr (h : Hd) (m : MF) (s : State) : Out := s.runWord h fun c => s.hurdleBy c m 1
def execHdXpct (h : Hd) (m : MF) (s : State) : Out := s.runWord h fun c => s.hurdleBy c m 2

/-- HD.WAIT: PHASE when it differs from the phase operand, else the frame waits for the next completion (R257). -/
def execHdWait (h : Hd) (m : MF) (s : State) : Out :=
  s.runWord h fun c =>
    s.satisfyLsid c m.lsid fun s =>
      s.syncChecked c true false (m.ea c.l) (m.heat c) fun a =>
        if !s.syncReady c m.lsid a true then s.waitOn c .order
        else s.syncRead c a fun w =>
          let s := (s.sees c a true false true).countAccess c.f.stall a false
          if hdPhase w != c.r.toNat % 2 then s.deliverFrom c h (BitVec.ofNat 64 (hdPhase w)) (s.originAt c.f.ctx a.va 3)
          else s.link c a true

/-- HD.TEST samples, and in a DET frame waits (R257). -/
def execHdTest (h : Hd) (m : MF) (s : State) : Out :=
  s.runWord h fun c =>
    s.satisfyLsid c m.lsid fun s =>
      s.syncChecked c true false (m.ea c.l) (m.heat c) fun a =>
        if !s.syncReady c m.lsid a true then s.waitOn c .order
        else s.syncRead c a fun w =>
          let s := (s.sees c a true false true).countAccess c.f.stall a false
          if hdPhase w != c.r.toNat % 2 then s.deliverFrom c h 1 (s.originAt c.f.ctx a.va 3)
          else if c.f.det then s.link c a true
          else s.deliver c h 0

/-- A hurdle word settles (R256): as many phases complete as its arrivals hold; waiters get the first of them. -/
def State.hdSettle (s : State) (o : Org) (va pa w : Nat) : State :=
  let e := hdExpect w
  let n := hdArrived w / e
  if e = 0 || n = 0 then s.wrLE pa 16 w
  else
    let s := s.wrLE pa 16 (hdWord w e (hdArrived w % e) ((hdPhase w + n) % 2) 0)
    let s := s.setOrigin o va
    s.wakeAll o.ctx va (BitVec.ofNat 64 (1 - hdPhase w)) (s.originAt o.ctx va 3)

/-- A sum that saturates at 2^32 − 1 (R256): the value and whether it passed. -/
def sat32 (x : Nat) : Nat × Bool := if 2 ^ 32 ≤ x then (2 ^ 32 - 1, true) else (x, false)

/-- An HD.INIT, an arrival or an HD.XPCT performs on its word (R256). -/
def State.hdPerform (s : State) (o : Org) (a : Acc) (kind n eng : Nat) : State :=
  let w := a.word s
  let info : FaultInfo := { cls := .hurdleOver, va := a.va, heat := some a.heat, eng := eng, wr := true }
  match kind with
  | 0 =>
    if hdHead w != 0 then s.report o { info with cls := .hurdleState }
    else s.wrLE a.pa 16 (hdWord w n 0 0 0)
  | 1 =>
    let (v, excess) := sat32 (hdArrived w + n)
    let s := if excess then s.report o info else s
    s.hdSettle o a.va a.pa (hdWord w (hdExpect w) v (hdPhase w) (hdHead w))
  | _ =>
    let (v, excess) := sat32 (hdExpect w + n)
    let s := if excess then s.report o info else s
    s.hdSettle o a.va a.pa (hdWord w v (hdArrived w) (hdPhase w) (hdHead w))

/-- HD.XPCTs of the frame that a job's arrival stands behind (R258). -/
def State.xpctBefore (s : State) (w : Flight) : Bool :=
  s.flight.any fun e => (match e.cargo with | .hurdle _ k _ j => k == 2 && !j | _ => false) && e.org.fid == w.org.fid &&
    !bsqLt w.org.bsq e.org.bsq

/-- HURDLE_UPDATE_PERFORM (R256, R258): `err` is an uncorrectable error met at the home. -/
def execHurdleUpdatePerform (k : Nat) (err : Bool) (s : State) : Out :=
  .next <|
    match s.flight[k]? with
    | none => s
    | some w =>
      match w.cargo with
      | .hurdle a kind n job =>
        if job then
          (if s.xpctBefore w then s
           else if err || s.accLost a true then
             ((if err then (s.land k).loseSector a.ctx a.heat (a.locs.headD default) else s.land k)).report w.org
               { cls := .dataError, va := a.va, pa := some a.pa, heat := some a.heat, eng := 4, wr := true }
           else ((s.land k).hdPerform w.org a kind n.toNat 4).served w.org.stall a.ctx [a.pa] true)
        else if !s.writeGoes w a || !s.writeClear w a then s
        else if err || s.accLost a true then
          ((if err then (s.land k).loseSector a.ctx a.heat (a.locs.headD default) else s.land k)).writeError w a (fun _ => true) .dataError
        else (((s.noteEarly w a).land k).hdPerform w.org a kind n.toNat 5).countAccess w.org.stall a true
      | _ => s

/-! Reading and setting futures (R334, R335) -/

/-- What FGET and FTEST do with a cell that is neither FULL nor EMPTY (R334). -/
def cellFault (st : Nat) (va : Nat) : FaultInfo :=
  { cls := if st = 2 then .futureReclaimed else .futureState, va := va }

/-- FGET (R334). -/
def execFget (h : Hd) (m : MF) (s : State) : Out :=
  s.runWord h fun c =>
    s.satisfyLsid c m.lsid fun s =>
      s.syncChecked c true false (m.ea c.l) (m.heat c) fun a =>
        if !s.syncReady c m.lsid a false then s.waitOn c .order
        else s.syncRead c a fun w =>
          let s := (s.sees c a true false true).countAccess c.f.stall a false
          if cellSt w = 1 then s.deliverFrom c h (BitVec.ofNat 64 (cellVal w)) (s.originAt c.f.ctx a.va 2)
          else if cellSt w = 0 then s.link c a false
          else s.faultAt c (cellFault (cellSt w) a.va)

/-- FSET performs after commit and is a release (R334). -/
def execFset (h : Hd) (m : MF) (s : State) : Out :=
  s.runWord h fun c =>
    s.satisfyLsid c m.lsid fun s =>
      s.syncChecked c false true (m.ea c.l) (m.heat c) fun a =>
        (s.effect c (.fset m.lsid.toNat a c.r)).sees c a false true true

/-- FTEST: 1 on FULL, 0 on EMPTY; a DET frame waits (R335). -/
def execFtest (h : Hd) (s : State) : Out :=
  s.runWord h fun c =>
    s.syncChecked c true false c.l 0 fun a =>
      if s.earlyHolds c.f a (some .sys) then s.waitOn c .order
      else s.syncRead c a fun w =>
        let s := (s.sees c a true false true).countAccess c.f.stall a false
        if cellSt w = 1 then s.deliverFrom c h 1 (s.originAt c.f.ctx a.va 2)
        else if cellSt w = 0 then (if c.f.det then s.link c a false else s.deliver c h 0)
        else s.faultAt c (cellFault (cellSt w) a.va)

/-- PEEK: the ST code, never waiting; a DET frame faults DET_BREACH (R300, R335). -/
def execPeek (h : Hd) (s : State) : Out :=
  s.runWord h fun c =>
    if c.f.det then s.faultAt c { cls := .detBreach }
    else
      s.syncChecked c true false c.l 0 fun a =>
        s.syncRead c a fun w => ((s.sees c a true false true).countAccess c.f.stall a false).deliver c h (BitVec.ofNat 64 (cellSt w))

/-! The events of a cell (R330) -/

/-- The hall whose pool list keeps a cell (R327). -/
def State.poolHall (s : State) (ctx pa : Nat) : Nat :=
  match s.ctx? ctx with
  | some c => if c.halls.contains (s.homeOf pa).1 then (s.homeOf pa).1 else c.halls.headD 0
  | none => 0

/-- A cell whose last reference and whose producer are gone returns to the pool (R330). -/
def State.freeCell (s : State) (ctx va pa : Nat) : State :=
  let w := s.rdLE pa 16
  let busy := (s.frames.any fun f => f.ctx == ctx && f.cell == some va && f.fref == cellProd w) ||
    s.flight.any fun e => e.org.ctx == ctx &&
      (match e.cargo with
       | .producerEnd v _ _ _ => v == va
       | .fset a _ => a.va == va
       | _ => false)
  if cellReach w = 0 && (cellSt w = 1 || (cellSt w = 2 && !busy)) then
    let s := s.wrLE pa 16 (w + (3 - cellSt w) * 2 ^ 110)
    s.modCtx ctx fun c => { c with pool := c.pool ++ [(s.poolHall ctx pa, va)] }
  else s

/-- The cell with a new ST, and a new VALUE and NOVAL. -/
def cellTo (w st val : Nat) (noval : Bool) : Nat := cellWord (cellReach w) st (cellProd w) val noval

/-- FUTURE_CELL_FSET (R330): a release, behind every earlier write of its frame. -/
def execFutureCellFset (k : Nat) (s : State) : Out :=
  .next <|
    match s.flight[k]? with
    | none => s
    | some w =>
      match w.cargo with
      | .fset a v =>
        if !s.writeGoes w a || !s.writeClear w a then s
        else if s.accLost a true then (s.land k).writeError w a (fun _ => true) .dataError
        else
          let s := ((s.noteEarly w a).land k).countAccess w.org.stall a true
          let c := a.word s
          if cellSt c = 0 then
            ((s.wrLE a.pa 16 (cellTo c 1 v.toNat false)).setOrigin w.org a.va).wakeAll w.org.ctx a.va v
              ⟨2, w.org.fn, w.org.bsq, w.org.stall, false⟩
          else if cellSt c = 2 then s.freeCell w.org.ctx a.va a.pa
          else s.writeError w a (fun _ => true) .futureState
      | _ => s

/-- FUTURE_REACH_CHANGE (R330, R333): clamped to 0 and 65,535 with a report; an EMPTY cell nobody refers to is reclaimed with its
producer, another returns to the pool. Changes of one frame reach a cell in order, behind the frame's writes. -/
def execFutureReachChange (k : Nat) (s : State) : Out :=
  .next <|
    match s.flight[k]? with
    | none => s
    | some w =>
      match w.cargo with
      | .reach va pa plus n =>
        let first := !s.flight.any fun e => decide (e.id < w.id) && e.org.fid == w.org.fid &&
          (match e.cargo with | .reach v _ _ _ => v == va | _ => false)
        if !first || !s.behind w.org.fid w.id || !s.endTurn w then s
        else if paKind pa == .noRegion then s.land k
        else if s.sectorLost pa then
          (s.land k).report w.org { cls := .dataError, va := va, eng := 5, wr := true }
        else
          let s := (s.land k).served w.org.stall w.org.ctx [pa] true
          let c := s.rdLE pa 16
          let r := cellReach c
          let r' := if plus then min (r + n) 65535 else r - n
          let bad := if plus then decide (65535 < r + n) else decide (r < n)
          let s := s.wrLE pa 16 (c % 2 ^ 112 + r' * 2 ^ 112)
          let s := if bad then s.report w.org { cls := .futureState, va := va, eng := 5, wr := true } else s
          if r' != 0 then s
          else if cellSt c = 0 then
            let s := s.wrLE pa 16 (cellWord 0 2 (cellProd c) 0 false)
            let s := s.failWaiters w.org.ctx va
            match s.frames.find? fun f => f.ctx == w.org.ctx && f.cell == some va && f.fref == cellProd c with
            | some f => s.requestReclaim f 1
            | none => s.freeCell w.org.ctx va pa
          else s.freeCell w.org.ctx va pa
      | _ => s

/-- PRODUCER_END (R330, R332): behind every write of the producer. -/
def execProducerEnd (k : Nat) (s : State) : Out :=
  .next <|
    match s.flight[k]? with
    | none => s
    | some w =>
      match w.cargo with
      | .producerEnd va pa prod recl =>
        if !s.behind w.org.fid w.id || !s.endTurn w then s
        else if paKind pa == .noRegion then s.land k
        else if s.sectorLost pa then
          (s.land k).report w.org { cls := .dataError, va := va, eng := 5, wr := true }
        else
          let s := (s.land k).served w.org.stall w.org.ctx [pa] true
          let c := s.rdLE pa 16
          if cellProd c != prod % 2 ^ 24 then s
          else if cellSt c = 0 then
            (if recl then (s.wrLE pa 16 (cellTo c 2 0 false)).failWaiters w.org.ctx va
             else
               ((s.wrLE pa 16 (cellTo c 1 0 true)).setOrigin w.org va).wakeAll w.org.ctx va 0 ⟨2, w.org.fn, w.org.bsq, w.org.stall, false⟩)
          else s.freeCell w.org.ctx va pa
      | _ => s

/-- CONTINUATION_UNLINK (R329): the home drops the dead records of a list. -/
def execContinuationUnlink (k : Nat) (s : State) : Out :=
  .next <|
    match s.flight[k]? with
    | none => s
    | some w =>
      match w.cargo with
      | .unlink va => (s.land k).unlinkDead w.org.ctx va
      | _ => s

end Sys2Proof.Machine
end

