-- ==== Sys2Proof/Machine/Future.lean ====
section
/-! DEFINITION. Heats (R250-R253), spawning and references (R332, R333), launches (R336, R337), cancelling (R338), sending tokens
(R339, R340), the matching stores (R347-R349), and the events at counters, stalls and heat directories (R19, R253, R342). -/
namespace Sys2Proof.Machine

/-! Heats -/

/-- HT.NEW takes any free tag, or waits for one (R251). -/
def execHtNew (h : Hd) (s : State) : Out :=
  s.runWord h fun c =>
    match s.choose (s.freeTags c.f.ctx) with
    | (none, s) => s.waitOn c .heatPool
    | (some t, s) =>
      let s := { s with heats := s.heats ++ [(⟨c.f.ctx, t, false, 0, 0, false, none⟩ : Heat)] }
      (s.effect c (.heatNew t)).sendToken c.b.bid c.slot h (BitVec.ofNat 64 t) (c.f.prevArrival 0)

/-- HT.END waits until its frame is the heat's last and nothing of the heat is in flight (R252). -/
def execHtEnd (h : Hd) (s : State) : Out :=
  s.runWord h fun c =>
    match s.heat? c.f.ctx c.f.ht with
    | none => s.faultAt c { cls := .heatState }
    | some x =>
      if c.f.ht = 0 || x.ender.any (· != c.f.fid) then s.faultAt c { cls := .heatState }
      else
        let s := s.modHeat c.f.ctx c.f.ht fun x => { x with ender := some c.f.fid }
        if s.waitOver c.f .heatEnd then s.effect c .heatEnd else s.waitOn c .heatEnd

/-- HT.CANCEL (R253). -/
def execHtCancel (h : Hd) (s : State) : Out :=
  s.runWord h fun c =>
    let t := c.l.toNat % 65536
    if t = 0 || t = c.f.ht then s.faultAt c { cls := .heatState, heat := some t }
    else s.effect c (.heatCancel t)

/-- A cancelled heat has drained (R253). -/
def State.heatDone (s : State) (x : Heat) : Bool := x.live && x.cancelled && x.count == 0 && x.pending == 0 && s.heatQuiet x.ctx x.tag

/-- HEAT_CELLS_FREE (R253): a cancelled heat whose count and writes have drained frees its cells and its tag. -/
def execHeatCellsFree (ctx tag : Nat) (s : State) : Out :=
  .next <|
    match s.heat? ctx tag with
    | some x => if s.heatDone x then s.freeHeat ctx tag else s
    | none => s

/-! The hold set as the block's effects will leave it (R326, R332, R333) -/

/-- One effect on a hold set, in slot order; the error is the class it faults. -/
def holdStep (l : List (Nat × Nat)) : Effect → Except Cls (List (Nat × Nat))
  | .spawn cell _ _ _ => if 8 ≤ l.length then .error .holdFull else .ok (holdAdd l cell 1)
  | .fref cell n kind _ =>
    if kind == 1 then .ok l
    else
      match l.find? (·.1 == cell) with
      | some e => if 65535 < e.2 + n then .error .futureState else .ok (holdAdd l cell n)
      | none => if 8 ≤ l.length then .error .holdFull else .ok (holdAdd l cell n)
  | .fdrop cell _ => if l.any (·.1 == cell) then .ok (holdAdd l cell (-1)) else .error .futureState
  | _ => .ok l

def holdRun (l : List (Nat × Nat)) : List (Nat × Effect) → Except Cls (List (Nat × Nat))
  | [] => .ok l
  | e :: es =>
    match holdStep l e.2 with
    | .ok l => holdRun l es
    | .error c => .error c

/-- The fault an effect would raise on the hold set, with the block's other effects of this kind in slot order. -/
def Cx.holdFault (c : Cx) (e : Effect) : Option Cls :=
  match holdRun c.f.holds (insertEff (c.slot, e) c.b.ordered) with
  | .ok _ => none
  | .error k => some k

/-- SPAWN (R332); a handler frame may not spawn (R436). -/
def execSpawn (h : Hd) (extra : BitVec 8) (s : State) : Out :=
  s.runWord h fun c =>
    let spawned := (c.b.effs.filter fun e => match e.2 with | .spawn _ _ _ _ => true | _ => false).length
    if c.f.handler then s.faultAt c { cls := .illegalOperand }
    else if bits c.l.toNat 63 56 != 0 || bits c.l.toNat 3 0 != 0 then s.faultAt c { cls := .address, va := some (c.l.toNat % 2 ^ 56) }
    else if c.f.det && (c.f.depth == 8 || decide (127 ≤ c.f.spawns + spawned)) then s.faultAt c { cls := .depth }
    else
      let e := fun cell => Effect.spawn cell c.l.toNat c.r extra.toNat
      match c.holdFault (e (2 ^ 56)) with
      | some k => s.faultAt c { cls := k }
      | none =>
        match s.ctx? c.f.ctx with
        | none => s
        | some x =>
          match s.choose ((x.pool.filter (·.1 == c.f.ctxHall)).map (·.2)) with
          | (none, s) => s.faultAt c { cls := .futurePoolEmpty }
          | (some cell, s) =>
            let s := s.modCtx c.f.ctx fun x => { x with pool := x.pool.filter (·.2 != cell) }
            (s.effect c (e cell)).sendToken c.b.bid c.slot h (BitVec.ofNat 64 cell) (c.f.prevArrival 0)

/-- FREF: HOLD, LEND or ADOPT (R333). -/
def execFref (h : Hd) (s : State) : Out :=
  s.runWord h fun c =>
    let n := bits c.r.toNat 15 0
    let kind := bits c.r.toNat 17 16
    if n = 0 || kind = 3 then s.faultAt c { cls := .illegalOperand }
    else
      s.syncChecked c true true c.l 0 fun a =>
        match c.holdFault (.fref a.va n kind a) with
        | some k => s.faultAt c { cls := k, va := a.va }
        | none => (s.effect c (.fref a.va n kind a)).sees c a true true true

/-- FDROP (R333). -/
def execFdrop (h : Hd) (s : State) : Out :=
  s.runWord h fun c =>
    s.syncChecked c true true c.l 0 fun a =>
      match c.holdFault (.fdrop a.va a) with
      | some k => s.faultAt c { cls := k, va := a.va }
      | none => (s.effect c (.fdrop a.va a)).sees c a true true true

/-! Launches (R336, R337) -/

/-- The free launch slots of a context. -/
def State.freeSlots (s : State) (ctx : Nat) : List Nat := (List.range 256).filter fun k => (s.launch? ctx k).isNone

/-- A launch slot as it is taken. -/
def Launch.taken (ctx slot : Nat) : Launch :=
  { ctx := ctx, slot := slot, count := 0, gate := 0, gated := false, det := false, cancelled := false, complete := false, pending := 0,
    by_ := none, packet := none, posted := false, fnCtr := 1, live := false, inst := none, job := none, node := false }

/-- LAUNCH (R336). -/
def execLaunch (h : Hd) (s : State) : Out :=
  s.runWord h fun c =>
    if bits c.l.toNat 1 0 != 0 then s.faultAt c { cls := .illegalOperand }
    else if c.f.det && decide (127 < bits c.l.toNat 63 56 + 1) then s.faultAt c { cls := .depth }
    else
      match s.choose (s.freeSlots c.f.ctx) with
      | (none, s) => s.faultAt c { cls := .launchFull }
      | (some k, s) =>
        let s := { s with launches := s.launches ++ [{ Launch.taken c.f.ctx k with by_ := some c.f.fid }] }
        (s.effect c (.launch k c.l c.r)).sendToken c.b.bid c.slot h (BitVec.ofNat 64 k) (c.f.prevArrival 0)

/-- LWAIT (R337). -/
def execLwait (h : Hd) (s : State) : Out :=
  s.runWord h fun c =>
    let k := c.l.toNat % 256
    match s.launch? c.f.ctx k with
    | none => s.faultAt c { cls := .launchState }
    | some l =>
      if l.node then s.faultAt c { cls := .launchState }
      else if l.complete then s.deliver c h (if l.cancelled then 1 else 0)
      else s.waitOn c (.launch k)

/-! Cancelling (R338) -/

/-- CANCEL's object: the error is the class it faults. -/
def cancelObject (f : Frame) (lvl : Nat) (r : Nat) : Except Cls (Option Nat) :=
  match lvl with
  | 2 => .ok (some (r % 256))
  | 3 => if r % 65536 = 0 || r % 65536 = f.ht then .error .heatState else .ok (some (r % 65536))
  | 4 => if r != 0 then .error .illegalOperand else .ok f.inst
  | 5 => if r != 0 then .error .illegalOperand else .ok f.job
  | _ => .error .illegalOperand

/-- CANCEL is admitted when it executes and cancels at commit; while another cancel is pending it waits (R338). -/
def execCancel (h : Hd) (s : State) : Out :=
  s.runWord h fun c =>
    let lvl := bits c.l.toNat 2 0
    match cancelObject c.f lvl c.r.toNat with
    | .error k => s.faultAt c { cls := k }
    | .ok none => s.deliver c h 2
    | .ok (some obj) =>
      match s.cancelAdmit c.f.ctx lvl obj with
      | none => s.waitOn c (.cancel lvl obj)
      | some (st, s) =>
        (s.effect c (.cancel lvl obj st)).sendToken c.b.bid c.slot h (BitVec.ofNat 64 st) (c.f.prevArrival 0)

/-! Tokens (R339, R340) -/

/-- What the word of a SEND or of a `.snd` completion names. -/
inductive SendTo where
  | node (inst node input : Nat) (tag : W16)
  | ingress (idx : Nat)
  | bad (c : Cls)
  deriving DecidableEq, Repr, Inhabited

/-- The checks of R340, in their order. -/
def State.sendTarget (s : State) (ctx : Nat) (inst : Option Nat) (ht : Nat) (keep : Bool) (w : Nat) : SendTo :=
  let node := bits w 31 20
  let input := bits w 18 16
  let tag := BitVec.ofNat 16 (if w.testBit 35 then bits w 15 0 else ht)
  if bits w 63 36 != 0 || bits w 33 32 != 0 || w.testBit 19 then .bad .illegalOperand
  else if w.testBit 34 then
    (if !((s.ctx? ctx).map fun c => c.grants.any (·.1 == node)).getD false then .bad .nodeRange
     else if !keep then .bad .keepRequired
     else .ingress node)
  else
    match inst.bind s.inst? with
    | none => .bad .nodeRange
    | some n =>
      match n.nodes[node]? with
      | none => .bad .nodeRange
      | some nd => if nd.nin ≤ input then .bad .nodeRange else .node n.iid node input tag

/-- The context a grant entry names. -/
def State.grantOf (s : State) (ctx idx : Nat) : Nat :=
  ((s.ctx? ctx).bind fun c => (c.grants.find? (·.1 == idx)).map (·.2)).getD 0

/-- SEND (R340). -/
def execSend (h : Hd) (s : State) : Out :=
  s.runWord h fun c =>
    match s.sendTarget c.f.ctx c.f.inst c.f.ht c.b.keep c.l.toNat with
    | .bad k => s.faultAt c { cls := k }
    | .ingress idx => s.effect c (.sendIngress (s.grantOf c.f.ctx idx) c.l c.r)
    | .node i n k tag => s.effect c (.send i n k tag c.r)

/-! Tokens on their way (R347) -/

/-- No token of the same edge was sent before (R320). -/
def State.tokenFirst (s : State) (w : Flight) : Bool :=
  match w.cargo with
  | .token i n k _ _ => !s.flight.any fun e => decide (e.id < w.id) &&
      (match e.cargo with | .token i' n' k' _ _ => i' == i && n' == n && k' == k | _ => false)
  | _ => true

/-- TOKEN_ARRIVAL (R347): tokens of one edge arrive in the order sent, whichever frames sent them, so that senders ordered by hb stay in
that order (R320, R340, R349; log 119). The token joins its key, which may complete a firing. A token of an instance that has ended is
dropped; before its sources are released an instance fires nothing (R321). -/
def execTokenArrival (k : Nat) (s : State) : Out :=
  .next <|
    match s.flight[k]? with
    | none => s
    | some w =>
      match w.cargo with
      | .token i n input tag v =>
        if !s.tokenFirst w || !s.behind w.org.fid w.id then s
        else
          let s := s.land k
          match s.inst? i with
          | none => s
          | some x =>
            if !x.live then
              (s.modInst i fun x => { x with count := x.count - 1 }).instSettle i
            else
              let arr : Arrival := ⟨if w.org.fid = 0 && w.org.stall != 2048 then 7 else 5, w.org.fn, w.org.bsq, w.org.stall, w.org.stall == 2048⟩
              let full := (x.takes n tag).isSome
              let s := s.joinKey i ⟨n, input, tag, v, w.org.capt, arr, w.org⟩
              if full || !x.released then s else s.fireNode i n tag arr
      | _ => s

/-! Counters, requests (R19, R338, R342) -/

/-- Cancel requests of one stall arrive in the order sent (R372, R377). -/
def State.cancelFirst (s : State) (w : Flight) (kind : Nat) : Bool :=
  kind == 0 || !s.flight.any fun e => decide (e.id < w.id) && e.org.stall == w.org.stall && (match e.cargo with | .level _ _ k => k != 0 | _ => false)

/-- LEVEL_COUNTER_UPDATE (R19): a decrement or a cancel is ordered at its level's counter, behind its frame's writes. -/
def execLevelCounterUpdate (k : Nat) (s : State) : Out :=
  .next <|
    match s.flight[k]? with
    | none => s
    | some w =>
      match w.cargo with
      | .level lvl obj kind =>
        if !s.behind w.org.fid w.id || !s.endTurn w || !s.cancelFirst w kind then s
        else
          let c := w.org.ctx
          let s := s.land k
          if kind = 0 then (s.levelDown c lvl obj).levelSettle c lvl obj
          else if kind = 1 then ((s.cancelDone c lvl obj).cancelLevel c lvl obj).levelSettle c lvl obj
          else s.cancelLevel c 3 obj
      | _ => s

/-- Control frames of one kind to one stall arrive in the order sent, those of each source therefore too (R377). -/
def State.controlFirst (s : State) (w : Flight) : Bool :=
  !s.flight.any fun e => decide (e.id < w.id) && e.org.stall == w.org.stall &&
    (match e.cargo, w.cargo with
     | .reclaim _ _, .reclaim _ _ | .walkStep _ _ _ _, .walkStep _ _ _ _ => true
     | _, _ => false)

/-- RECLAIM_REQUEST (R341, R342). -/
def execReclaimRequest (k : Nat) (s : State) : Out :=
  .next <|
    match s.flight[k]? with
    | none => s
    | some w =>
      match w.cargo with
      | .reclaim fid cause => if s.controlFirst w then (s.land k).reclaimFrame fid cause else s
      | _ => s

end Sys2Proof.Machine
end

