-- ==== Sys2Proof/Machine/System.lean ====
section
/-! DEFINITION. System and debug instructions (R26-R29, R127, R419, R443-R450) and the creation of handler frames (R436). -/
namespace Sys2Proof.Machine

/-- SVC takes effect when its block commits (R447). -/
def execSvc (h : Hd) (imm : W32) (s : State) : Out := s.runWord h fun c => s.effect c (.svc imm c.l)

/-- TRAP faults its block (R448). -/
def execTrap (h : Hd) (imm : W32) (s : State) : Out :=
  s.runWord h fun c => s.faultAt c { cls := .trap, extra := imm.setWidth 64 }

/-- BKPT acts at the mapping of its block (R417, R419); in a block mapped past that check it is a NOP (R422). -/
def execBkpt (h : Hd) (_code : BitVec 8) (s : State) : Out := s.runWord h fun c => s.done c

/-- An ERET form is an exit that only a handler frame may take (R450). -/
def State.eretBy (s : State) (c : Cx) (form l : Nat) (r : W64) : State :=
  if !c.f.handler then s.faultAt c { cls := .csrAccess } else s.fireExit c (.eret form l r)

/-- ERET resumes at the resume point. -/
def execEret (h : Hd) (s : State) : Out := s.runWord h fun c => s.eretBy c 0 0 0
/-- ERET.end ends the held frame. -/
def execEretEnd (h : Hd) (s : State) : Out := s.runWord h fun c => s.eretBy c 1 0 0
/-- ERET.redir sends the held frame to block L with g0 := R. -/
def execEretRedir (h : Hd) (s : State) : Out :=
  s.runWord h fun c =>
    if !c.f.handler then s.faultAt c { cls := .csrAccess }
    else
      match successorFault c.l with
      | some i => s.faultAt c i
      | none => s.eretBy c 2 c.l.toNat c.r

/-! Control registers (R26-R29, R445) -/

/-- MODE of a frame (R28). -/
def State.modeOf (s : State) (f : Frame) : Nat :=
  let p := (s.ctx? f.ctx).map (·.params)
  f.prio % 4 * 16 + (if f.handler then 8 else 0) + (if (p.map (·.confid)).getD false then 4 else 0) +
    (if (p.map (·.debuggable)).getD false then 2 else 0) + (if f.det then 1 else 0)

/-- The value of a control register, none where the number is outside the tables of R26 and R445. -/
def State.csrValue (s : State) (f : Frame) (n : Nat) : Option W64 :=
  match n with
  | 0 => some f.fn
  | 1 => some (f.bsq.setWidth 64)
  | 2 => some (BitVec.ofNat 64 f.ht)
  | 3 => some (f.pp.setWidth 64)
  | 4 => some (f.fcsr.setWidth 64)
  | 5 => some (f.af.setWidth 64)
  | 6 => some (f.spc.setWidth 64)
  | 7 => some (f.spf.setWidth 64)
  | 8 => some (BitVec.ofNat 64 (s.modeOf f))
  | 9 => some (BitVec.ofNat 64 (s.stallD f.stall).cyc)
  | 0x40 => some (BitVec.ofNat 64 ((s.recordOf f).elim 0 s.recordVa))
  | 0x41 | 0x42 | 0x43 | 0x44 => (s.handlerRegs f)[n - 0x41]?
  | _ => none

/-- CSRR: block-entry values, which a block mapped ahead has once it is the frame's own (R370); AF waits for the folds and SPF for the SPE messages of earlier blocks (R27, R106, R200, R444). -/
def execCsrr (h : Hd) (n : BitVec 12) (s : State) : Out :=
  s.runWord h fun c =>
    if 0x40 ≤ n.toNat && !c.f.handler then s.faultAt c { cls := .csrAccess }
    else
      match s.csrValue c.f n.toNat with
      | none => s.faultAt c { cls := .csrAccess }
      | some v =>
        if n.toNat = 5 && c.f.folds != 0 then s.waitOn c .folds
        else if n.toNat = 7 && s.speBusy c.f then s.waitOn c .spe
        else if 0x41 ≤ n.toNat && c.b.spec then s.waitOn c .order
        else s.deliver c h (if 0x41 ≤ n.toNat then c.b.entry.getD (n.toNat - 0x41) v else v)

/-- A value a CSRW accepts (R26, R28, R445). -/
def csrwOk (f : Frame) (hentry n : Nat) (v : W64) : Bool :=
  let prec := fun (x : Nat) => decide (1 ≤ x) && decide (x ≤ 16)
  match n with
  | 3 => prec (bits v.toNat 4 0) && prec (bits v.toNat 12 8)
  | 4 => decide (bits v.toNat 2 0 ≤ 4)
  | 5 => true
  | 6 => bits v.toNat 17 16 != 3
  | 7 => true
  | 0x41 => (f.handler || hentry == 0) && bits v.toNat 3 0 == 0
  | _ => false

/-- CSRW takes effect at commit (R27, R444); AF and SPF wait as CSRR does. -/
def execCsrw (h : Hd) (n : BitVec 12) (s : State) : Out :=
  s.runWord h fun c =>
    let hentry := ((s.ctx? c.f.ctx).map (·.hentry)).getD 0
    if !csrwOk c.f hentry n.toNat c.l then s.faultAt c { cls := .csrAccess }
    else if n.toNat = 5 && c.f.folds != 0 then s.waitOn c .folds
    else if n.toNat = 7 && s.speBusy c.f then s.waitOn c .spe
    else s.effect c (.csrw n.toNat c.l)

/-- PPSET counts as a CSRW of PP (R127). -/
def execPpset (h : Hd) (pa pb : BitVec 5) (s : State) : Out := s.runWord h fun c => s.effect c (.ppset pa pb)

/-- MARK (R419). -/
def execMark (h : Hd) (imm : W32) (s : State) : Out := s.runWord h fun c => s.effect c (.mark imm 0)
/-- MARK.v (R419). -/
def execMarkV (h : Hd) (imm : W32) (s : State) : Out := s.runWord h fun c => s.effect c (.mark imm c.l)

/-- FLTRD: a word of the record at FRP, as written (R446). -/
def execFltrd (h : Hd) (s : State) : Out :=
  s.runWord h fun c =>
    if !c.f.handler then s.faultAt c { cls := .csrAccess }
    else
      match s.recordOf c.f with
      | some r => s.deliver c h (r.words.getD (c.l.toNat % 8) 0)
      | none => s.deliver c h 0

/-! Handler frames (R435-R437) -/

/-- The stall a record's handler frame runs on (R436). -/
def Ctx.handlerStall (c : Ctx) (r : Rec) : Nat :=
  if r.eng != 7 && c.params.pitch.contains r.org.stall then r.org.stall
  else
    match c.pitchIn r.hall with
    | st :: _ => st
    | [] => c.params.pitch.headD 0

/-- The record a hall's next handler frame is for: of those that wait in a log, the one first in FSQ order (R435). The numbers wrap, so
they are compared by their distance from the hall's next one. -/
def State.nextLogged (s : State) (hall : Nat) : Option Rec :=
  leastBy (fun r => (r.fsq - (s.hallD hall).fsq).toNat) (s.recs.filter fun r => r.hall == hall && r.status == 1)

/-- HANDLER_FRAME_CREATE (R435, R436): the next record of the hall that waits in a log, once a handler frame record is free. -/
def execHandlerFrameCreate (hall : Nat) (s : State) : Out :=
  .next <|
    match s.nextLogged hall with
    | none => s
    | some r =>
      match s.ctx? r.ctx with
      | none => s
      | some c =>
        if c.hentry = 0 then s.handlerless r
        else if (s.hallD (hallOfStall (c.handlerStall r))).hfree = 0 then s
        else
          let st := c.handlerStall r
          let f : Frame :=
            { Frame.blank c.num 0 st c.hentry ⟨0, r.org.fn, r.org.bsq, r.stall, false⟩ with
              regs := setRegs (Vector.replicate 32 0) 0 [BitVec.ofNat 64 (s.recordVa r), BitVec.ofNat 64 (s.heldRef r)],
              handler := true, record := some r.rid }
          let s := (s.addFrame f).modHall (hallOfStall st) fun h => { h with hfree := h.hfree - 1 }
          s.modRec r.rid fun x => { x with status := 2 }

end Sys2Proof.Machine
end

