-- ==== Sys2Proof/Machine/Quant.lean ====
section
/-! DEFINITION. Quantisation into the planar formats: bsi_quantise (R95), codebooks (R97), rounding to integers (R173), and planes
from integers (R88). -/
namespace Sys2Proof.Machine

/-- The floating-point format of a WORD format code (R31, R98). -/
def fmtOf : Nat → Option Fmt
  | 4 | 13 => some fp32
  | 5 => some bf16
  | 6 => some fp16
  | 7 => some e4m3
  | 8 => some e5m2
  | 9 => some e2m1
  | _ => none

/-- rne_int of a signed magnitude, and whether it was inexact (R95). -/
def rneInt (neg : Bool) (a : Mag) : Int × Bool :=
  let sp := a.split 0
  let n := roundInt .rne neg sp.1 sp.2
  (if neg then -(n : Int) else n, sp.2 != 0)

/-- floor(log2(m·2^k / (qmax + 1/2))) with qmax + 1/2 = q2 / 2, for m > 0. -/
def log2Ratio (m : Nat) (k : Int) (q2 : Nat) : Int :=
  let e : Int := (Nat.log2 m : Int) - Nat.log2 q2
  let ge := if 0 ≤ e then decide (q2 * pow2 e ≤ m) else decide (q2 ≤ m * pow2 (-e))
  k + 1 + (if ge then e else e - 1)

/-- The larger of two magnitudes by value. -/
def magMax (a b : Nat × Int) : Nat × Int := if (dyOf false a.1 a.2).lt (dyOf false b.1 b.2) then b else a

/-- The E8 code of 32 values with NaNs already 0 (R95): 255 when all are zero. -/
def bsiCode (w : Nat) (xs : List FpVal) : Nat × FlagSet :=
  let m := xs.foldl (fun a x => match x with | .fin _ m k => if m = 0 then a else if a.1 = 0 then (m, k) else magMax a (m, k) | _ => a) (0, 0)
  if xs.any fun x => match x with | .inf _ => true | _ => false then (254, {})
  else if m.1 = 0 then (255, {})
  else
    let c := 128 + log2Ratio m.1 m.2 (2 ^ w - 1)
    if c < 0 then (0, { uf := true }) else (min c.toNat 254, {})

/-- Saturation to a range. -/
def clampTo (lo hi v : Int) : Int × Bool := if hi < v then (hi, true) else if v < lo then (lo, true) else (v, false)

/-- One integer of a group row of code `c` (R95). -/
def bsiInt (w c : Nat) (x : FpVal) : Int × FlagSet :=
  let hi : Int := 2 ^ (w - 1) - 1
  let lo : Int := -(2 ^ (w - 1))
  match x with
  | .nan _ => (0, {})
  | .inf n => (if n then lo else hi, { sat := true })
  | .fin n m k =>
    let r := rneInt n ⟨m, k - ((c : Int) - 127), false⟩
    let q := clampTo lo hi r.1
    (q.1, { nx := r.2, sat := q.2 })

/-- bsi_quantise of one group row (R95). -/
def bsiQuantise (w : Nat) (xs : List FpVal) : Nat × List Int × FlagSet :=
  let nan := xs.any (·.isNan)
  let xs := xs.map fun x => if x.isNan then .fin false 0 0 else x
  let c := bsiCode w xs
  if c.1 = 255 then (255, xs.map fun _ => 0, { nv := nan })
  else
    let r := xs.map (bsiInt w c.1)
    (c.1, r.map (·.1), (FlagSet.joinAll (r.map (·.2))).join { c.2 with nv := nan })

/-- An unscaled integer of a range (R173). -/
def intQuantise (lo hi : Int) (x : FpVal) : Int × FlagSet :=
  match x with
  | .nan _ => (0, { nv := true })
  | .inf n => (if n then lo else hi, { sat := true })
  | .fin n m k =>
    let r := rneInt n ⟨m, k, false⟩
    let q := clampTo lo hi r.1
    (q.1, { nx := r.2, sat := q.2 })

/-- Bits to bytes, least significant first. -/
def packBits : List Nat → List Byte
  | b0 :: b1 :: b2 :: b3 :: b4 :: b5 :: b6 :: b7 :: l =>
    BitVec.ofNat 8 (b0 + 2 * b1 + 4 * b2 + 8 * b3 + 16 * b4 + 32 * b5 + 64 * b6 + 128 * b7) :: packBits l
  | _ => []

/-- The planes of a group of integers (R88). -/
def toPlanes (w : Nat) (vals : List Int) : List (List Byte) :=
  (List.range w).map fun p => packBits (vals.map fun v => wrap w v / 2 ^ p % 2)

/-- A C4 codebook at width `w` (R97): the code of every row, the sixteen integers, and the flags, among which no underflow (R100). -/
def c4Table (w : Nat) (table : List Byte) : Nat × List Int × FlagSet :=
  let q := bsiQuantise w ((splitElems 16 table).map bf16.decode)
  (q.1, q.2.1, { q.2.2 with uf := false })

end Sys2Proof.Machine
end

