-- ==== Sys2Proof/Machine/Scalar.lean ====
section
/-! DEFINITION. Control, frame registers, constants, selection and integer arithmetic (05_scalar.md R134-R144). -/
namespace Sys2Proof.Machine

/-- W of R141. -/
def widthOf (w : Bool) : Nat := if w then 32 else 64
/-- u(x) and s(x) at W (R134). -/
def uArg (w : Bool) (x : W64) : Nat := x.toNat % 2 ^ widthOf w
def sArg (w : Bool) (x : W64) : Int := sext x.toNat (widthOf w)
/-- A value wrapped to W bits and, at W = 32, sign-extended (R57, R134). -/
def intResult (w : Bool) (v : Int) : W64 := BitVec.ofInt 64 (sext (wrap (widthOf w) v) (widthOf w))

/-- Division of R142, truncating toward zero. -/
def divS (w : Bool) (l r : W64) : Int :=
  let a := sArg w l
  let b := sArg w r
  if uArg w r = 0 then 2 ^ widthOf w - 1
  else if a = -(2 ^ (widthOf w - 1)) ∧ b = -1 then -(2 ^ (widthOf w - 1))
  else Int.tdiv a b
def divU (w : Bool) (l r : W64) : Int :=
  if uArg w r = 0 then 2 ^ widthOf w - 1 else ((uArg w l / uArg w r : Nat) : Int)
def remS (w : Bool) (l r : W64) : Int :=
  let a := sArg w l
  let b := sArg w r
  if uArg w r = 0 then a
  else if a = -(2 ^ (widthOf w - 1)) ∧ b = -1 then 0
  else a - b * Int.tdiv a b
def remU (w : Bool) (l r : W64) : Int :=
  if uArg w r = 0 then (uArg w l : Int) else ((uArg w l % uArg w r : Nat) : Int)

/-- Leading zeros of `x` in `n` bits. -/
def clzBits : Nat → Nat → Nat
  | 0, _ => 0
  | n + 1, x => if x.testBit n then 0 else clzBits n x + 1
/-- Trailing zeros of `x` in `n` bits. -/
def ctzBits : Nat → Nat → Nat
  | 0, _ => 0
  | n + 1, x => if x.testBit 0 then 0 else ctzBits n (x / 2) + 1
/-- One bits of `x` in its low `n` bits (R81 popc). -/
def popcBits : Nat → Nat → Nat
  | 0, _ => 0
  | n + 1, x => x % 2 + popcBits n (x / 2)
/-- Rotation left within `n` bits. -/
def rotlBits (n x k : Nat) : Nat := (x * 2 ^ k + x / 2 ^ (n - k)) % 2 ^ n

/-- BFX and BFI of R144. -/
def bfxVal (l : W64) (pos wd : Nat) (sx : Bool) : W64 :=
  let f := l.toNat / 2 ^ pos % 2 ^ wd
  if sx then BitVec.ofInt 64 (sext f wd) else BitVec.ofNat 64 f
def bfiVal (l r : W64) (pos wd : Nat) : W64 :=
  let m : W64 := BitVec.ofNat 64 ((2 ^ wd - 1) * 2 ^ pos)
  (l &&& ~~~m) ||| (BitVec.ofNat 64 (r.toNat % 2 ^ wd * 2 ^ pos) &&& m)

end Sys2Proof.Machine
namespace Sys2Proof

/-- TST conditions (R139). -/
def Tcc.holds (cc : Tcc) (l r : W64) : Bool :=
  match cc with
  | .eq => l == r
  | .ne => l != r
  | .lt => l.slt r
  | .ge => !l.slt r
  | .ltu => l.ult r
  | .geu => !l.ult r

end Sys2Proof
namespace Sys2Proof.Machine

def boolToken (b : Bool) : W64 := if b then 1 else 0

/-- A block address plus a signed number of 16-byte units (R136); a target outside the 56-bit addresses of R36 is taken modulo 2^56
(DESIGN CHOICE, log 126). -/
def blockTarget (a : Nat) (ofs : BitVec 33) : Nat := (((a : Int) + ofs.toInt * 16) % (2 : Int) ^ 56).toNat

/-- A frame register as a block sees it at its entry (R23); in a speculative block the value that the blocks before it will
commit, none while that does not exist (R370). -/
def State.entryReg (s : State) (f : Frame) (reg : BitVec 5) : Nat → Block → Option W64
  | 0, _ => none
  | n + 1, b =>
    match b.pred with
    | none => some (f.regs.get ⟨reg.toNat, reg.isLt⟩)
    | some q =>
      match s.block? q with
      | none => none
      | some p =>
        if p.isLoop || (reg.toNat = 30 && p.exits.isEmpty) then none
        else
          match p.exits.find? (fun e => match e.2 with | .call _ _ => reg.toNat = 30 | _ => false) with
          | some (_, .call _ ret) => some (BitVec.ofNat 64 ret)
          | _ =>
            match p.gws.find? (·.1 == reg.toNat) with
            | some (_, _, some v) => some v
            | some (_, _, none) => s.entryReg f reg n p
            | none => if p.wmask.testBit reg.toNat then none else s.entryReg f reg n p

def State.regAt (s : State) (c : Cx) (reg : BitVec 5) : Option W64 := s.entryReg c.f reg 8 c.b

/-! Control (R136-R140) -/

/-- BRO (R136). -/
def execBro (h : Hd) (_eid : BitVec 3) (ofs : BitVec 33) (s : State) : Out :=
  s.runWord h fun c => s.fireExit c (.to (blockTarget c.b.addr ofs))

/-- BRI: the successor is checked when the exit executes (R136, R137); in a speculative block a breach waits (R66). -/
def execBri (h : Hd) (_eid : BitVec 3) (s : State) : Out :=
  s.runWord h fun c =>
    match successorFault c.l with
    | some i => s.faultAt c i
    | none => s.fireExit c (.to c.l.toNat)

/-- CALL: an offset successor and g30 := F, both at commit (R136). -/
def execCall (h : Hd) (_eid : BitVec 3) (ofs : BitVec 33) (s : State) : Out :=
  s.runWord h fun c => s.fireExit c (.call (blockTarget c.b.addr ofs) c.b.fallThrough)

/-- RET: g30 as at block entry, checked as BRI (R136, R137). -/
def execRet (h : Hd) (_eid : BitVec 3) (s : State) : Out :=
  s.runWord h fun c =>
    match s.regAt c 30 with
    | none => s.waitOn c .order
    | some a =>
      match successorFault a with
      | some i => s.faultAt c i
      | none => s.fireExit c (.to a.toNat)

/-- FEND (R136, R138). -/
def execFend (h : Hd) (s : State) : Out := s.runWord h fun c => s.fireExit c .fend

/-- ITER (R49, R139). -/
def execIter (h : Hd) (s : State) : Out :=
  s.runWord h fun c => s.deliver c h (BitVec.ofNat 64 (if c.b.isLoop then c.b.iter else 0))

/-- NULL (R139). -/
def execNull (h : Hd) (reg : BitVec 5) (s : State) : Out := s.runWord h fun c => s.satisfyReg c reg none

/-- MNULL (R139, R212): one memory operation of its LSID with no access. -/
def execMnull (h : Hd) (lsid : BitVec 5) (s : State) : Out :=
  s.runWord h fun c => s.satisfyLsid c lsid fun s => s.done c

/-- GRD (R23, R139). -/
def execGrd (h : Hd) (reg : BitVec 5) (s : State) : Out :=
  s.runWord h fun c =>
    match s.regAt c reg with
    | some v => s.deliver c h v
    | none => s.waitOn c .order

/-- GWR (R23, R139). -/
def execGwr (h : Hd) (reg : BitVec 5) (s : State) : Out := s.runWord h fun c => s.satisfyReg c reg (some c.l)

/-- MOVI (R139). -/
def execMovi (h : Hd) (imm : W32) (s : State) : Out := s.runWord h fun c => s.deliver c h (imm.signExtend 64)

/-- MOVHI: IMM·2^32 + zext(L, 32) (R139). -/
def execMovhi (h : Hd) (imm : W32) (s : State) : Out :=
  s.runWord h fun c => s.deliver c h (imm ++ c.l.extractLsb' 0 32)

/-- MOV (R139). -/
def execMov (h : Hd) (s : State) : Out := s.runWord h fun c => s.deliver c h c.l

/-- SEL (R45, R139). -/
def execSel (h : Hd) (s : State) : Out := s.runWord h fun c => s.deliver c h (if c.p.getLsbD 0 then c.l else c.r)

/-- TST (R139). -/
def execTst (h : Hd) (cc : Tcc) (s : State) : Out := s.runWord h fun c => s.deliver c h (boolToken (cc.holds c.l c.r))

/-- NOP (R140). -/
def execNop (h : Hd) (s : State) : Out := s.runWord h fun c => s.done c

/-- YIELD takes effect after its block's commit (R140). -/
def execYld (h : Hd) (s : State) : Out := s.runWord h fun c => s.effect c .yld

/-- A hint does nothing (R62). -/
def execHint (_opc : BitVec 3) (s : State) : Out := s.runBare fun c => s.done c

/-! Integer arithmetic (R141-R144) -/

/-- ADD (R141). -/
def execAdd (h : Hd) (w : Bool) (s : State) : Out :=
  s.runWord h fun c => s.deliver c h (intResult w (sArg w c.l + sArg w c.r))

/-- SUB (R141). -/
def execSub (h : Hd) (w : Bool) (s : State) : Out :=
  s.runWord h fun c => s.deliver c h (intResult w (sArg w c.l - sArg w c.r))

/-- MUL (R141). -/
def execMul (h : Hd) (w : Bool) (s : State) : Out :=
  s.runWord h fun c => s.deliver c h (intResult w (sArg w c.l * sArg w c.r))

/-- MULH: floor(s(L)·s(R) / 2^W) (R141). -/
def execMulh (h : Hd) (w : Bool) (s : State) : Out :=
  s.runWord h fun c => s.deliver c h (intResult w (sArg w c.l * sArg w c.r / 2 ^ widthOf w))

/-- MULHU: floor(u(L)·u(R) / 2^W) (R141). -/
def execMulhu (h : Hd) (w : Bool) (s : State) : Out :=
  s.runWord h fun c => s.deliver c h (intResult w (((uArg w c.l * uArg w c.r / 2 ^ widthOf w : Nat) : Int)))

/-- DIV (R142). -/
def execDiv (h : Hd) (w : Bool) (s : State) : Out :=
  s.runWord h fun c => s.deliver c h (intResult w (divS w c.l c.r))

/-- DIVU (R142). -/
def execDivu (h : Hd) (w : Bool) (s : State) : Out :=
  s.runWord h fun c => s.deliver c h (intResult w (divU w c.l c.r))

/-- REM (R142). -/
def execRem (h : Hd) (w : Bool) (s : State) : Out :=
  s.runWord h fun c => s.deliver c h (intResult w (remS w c.l c.r))

/-- REMU (R142). -/
def execRemu (h : Hd) (w : Bool) (s : State) : Out :=
  s.runWord h fun c => s.deliver c h (intResult w (remU w c.l c.r))

/-- AND (R141). -/
def execAnd (h : Hd) (w : Bool) (s : State) : Out :=
  s.runWord h fun c => s.deliver c h (intResult w (((c.l &&& c.r).toNat : Int)))

/-- OR (R141). -/
def execOr (h : Hd) (w : Bool) (s : State) : Out :=
  s.runWord h fun c => s.deliver c h (intResult w (((c.l ||| c.r).toNat : Int)))

/-- XOR (R141). -/
def execXor (h : Hd) (w : Bool) (s : State) : Out :=
  s.runWord h fun c => s.deliver c h (intResult w (((c.l ^^^ c.r).toNat : Int)))

/-- ANDN (R141). -/
def execAndn (h : Hd) (w : Bool) (s : State) : Out :=
  s.runWord h fun c => s.deliver c h (intResult w (((c.l &&& ~~~c.r).toNat : Int)))

/-- SHL (R141). -/
def execShl (h : Hd) (w : Bool) (s : State) : Out :=
  s.runWord h fun c => s.deliver c h (intResult w (((uArg w c.l * 2 ^ (uArg w c.r % widthOf w) : Nat) : Int)))

/-- SHR (R141). -/
def execShr (h : Hd) (w : Bool) (s : State) : Out :=
  s.runWord h fun c => s.deliver c h (intResult w (((uArg w c.l / 2 ^ (uArg w c.r % widthOf w) : Nat) : Int)))

/-- SAR: floor(s(L) / 2^(u(R) mod W)) (R141). -/
def execSar (h : Hd) (w : Bool) (s : State) : Out :=
  s.runWord h fun c => s.deliver c h (intResult w (sArg w c.l / 2 ^ (uArg w c.r % widthOf w)))

/-- ROTL (R141). -/
def execRotl (h : Hd) (w : Bool) (s : State) : Out :=
  s.runWord h fun c => s.deliver c h (intResult w ((rotlBits (widthOf w) (uArg w c.l) (uArg w c.r % widthOf w) : Int)))

/-- CLZ (R141). -/
def execClz (h : Hd) (w : Bool) (s : State) : Out :=
  s.runWord h fun c => s.deliver c h (intResult w ((clzBits (widthOf w) (uArg w c.l) : Int)))

/-- CTZ (R141). -/
def execCtz (h : Hd) (w : Bool) (s : State) : Out :=
  s.runWord h fun c => s.deliver c h (intResult w ((ctzBits (widthOf w) (uArg w c.l) : Int)))

/-- POPC (R141). -/
def execPopc (h : Hd) (w : Bool) (s : State) : Out :=
  s.runWord h fun c => s.deliver c h (intResult w ((popcBits (widthOf w) (uArg w c.l) : Int)))

/-- MIN (R141). -/
def execMin (h : Hd) (w : Bool) (s : State) : Out :=
  s.runWord h fun c => s.deliver c h (intResult w (if sArg w c.l ≤ sArg w c.r then sArg w c.l else sArg w c.r))

/-- MAX (R141). -/
def execMax (h : Hd) (w : Bool) (s : State) : Out :=
  s.runWord h fun c => s.deliver c h (intResult w (if sArg w c.l ≥ sArg w c.r then sArg w c.l else sArg w c.r))

/-- MINU (R141). -/
def execMinu (h : Hd) (w : Bool) (s : State) : Out :=
  s.runWord h fun c => s.deliver c h (intResult w (if uArg w c.l ≤ uArg w c.r then (uArg w c.l : Int) else uArg w c.r))

/-- MAXU (R141). -/
def execMaxu (h : Hd) (w : Bool) (s : State) : Out :=
  s.runWord h fun c => s.deliver c h (intResult w (if uArg w c.l ≥ uArg w c.r then (uArg w c.l : Int) else uArg w c.r))

/-- ABS: the most negative value gives itself (R141). -/
def execAbs (h : Hd) (w : Bool) (s : State) : Out :=
  s.runWord h fun c => s.deliver c h (intResult w (if sArg w c.l < 0 then -sArg w c.l else sArg w c.l))

/-- ADDSH: L + R·2^k (R141). -/
def execAddsh (h : Hd) (w : Bool) (k : BitVec 3) (s : State) : Out :=
  s.runWord h fun c => s.deliver c h (intResult w (sArg w c.l + sArg w c.r * 2 ^ k.toNat))

/-- ADDI (R143). -/
def execAddi (h : Hd) (w : Bool) (imm : W32) (s : State) : Out :=
  s.runWord h fun c => s.deliver c h (intResult w (sArg w c.l + imm.toInt))

/-- ANDI (R143). -/
def execAndi (h : Hd) (imm : W32) (s : State) : Out :=
  s.runWord h fun c => s.deliver c h (c.l &&& imm.signExtend 64)

/-- ORI (R143). -/
def execOri (h : Hd) (imm : W32) (s : State) : Out :=
  s.runWord h fun c => s.deliver c h (c.l ||| imm.signExtend 64)

/-- XORI (R143). -/
def execXori (h : Hd) (imm : W32) (s : State) : Out :=
  s.runWord h fun c => s.deliver c h (c.l ^^^ imm.signExtend 64)

/-- SHLI (R143). -/
def execShli (h : Hd) (w : Bool) (n : BitVec 6) (s : State) : Out :=
  s.runWord h fun c => s.deliver c h (intResult w (((uArg w c.l * 2 ^ n.toNat : Nat) : Int)))

/-- SHRI (R143). -/
def execShri (h : Hd) (w : Bool) (n : BitVec 6) (s : State) : Out :=
  s.runWord h fun c => s.deliver c h (intResult w (((uArg w c.l / 2 ^ n.toNat : Nat) : Int)))

/-- SARI (R143). -/
def execSari (h : Hd) (w : Bool) (n : BitVec 6) (s : State) : Out :=
  s.runWord h fun c => s.deliver c h (intResult w (sArg w c.l / 2 ^ n.toNat))

/-- SEXT (R143). -/
def execSext (h : Hd) (n : BitVec 7) (s : State) : Out :=
  s.runWord h fun c => s.deliver c h (BitVec.ofInt 64 (sext c.l.toNat n.toNat))

/-- ZEXT (R143). -/
def execZext (h : Hd) (n : BitVec 7) (s : State) : Out :=
  s.runWord h fun c => s.deliver c h (BitVec.ofNat 64 (c.l.toNat % 2 ^ n.toNat))

/-- BFX (R144). -/
def execBfx (h : Hd) (pos wd1 : BitVec 6) (sx : Bool) (s : State) : Out :=
  s.runWord h fun c => s.deliver c h (bfxVal c.l pos.toNat (wd1.toNat + 1) sx)

/-- BFI (R144). -/
def execBfi (h : Hd) (pos wd1 : BitVec 6) (s : State) : Out :=
  s.runWord h fun c => s.deliver c h (bfiVal c.l c.r pos.toNat (wd1.toNat + 1))

end Sys2Proof.Machine
end

