-- ==== Sys2Proof/Machine/Lane.lean ====
section
/-! DEFINITION. The arithmetic of one lane of the vector unit: round_fmt (R158), reciprocals, roots, powers and logarithms (R170),
elementwise operations (R169, R179), conversions (R171, R173, R174), scales (R175), trees and scans (R176-R178), bitmaps (R180-R185). -/
namespace Sys2Proof.Machine

/-! Formats (R156) -/

/-- Class F as a source; as a destination the narrow ones are out (R99). -/
def isFSrc (f : Nat) : Bool := [4, 5, 6, 7, 8, 9, 13].contains f
def isF (f : Nat) : Bool := [4, 5, 6, 13].contains f
def isI (f : Nat) : Bool := f == 11
def isW (f : Nat) : Bool := [4, 10, 11, 13].contains f
def isM (f : Nat) : Bool := [4, 5, 6, 10, 11, 12, 13].contains f
def fmtD (f : Nat) : Fmt := (fmtOf f).getD fp32

abbrev Lane := Nat × FlagSet

/-- A value as an element of a format: round_fmt, canonical NaN (R99, R158). -/
def Fmt.ofVal (x : Fmt) (rm : Rm) : FpVal → Lane
  | .nan s => (x.nan, { nv := s })
  | .inf n => (x.infBits n, {})
  | .fin n m k => if m = 0 then (x.zero n, {}) else x.round rm n ⟨m, k, false⟩

/-! Exact functions (R170) -/

/-- 1/√(m·2^k): floor(2^s/√m') with its sticky mark. -/
def rsqrtMag (m : Nat) (k : Int) : Mag :=
  let o := (k % 2).toNat
  let m' := m * 2 ^ o
  let s := 128 + Nat.log2 m'
  let q := natSqrt (2 ^ (2 * s) / m')
  ⟨q, -(s : Int) - (k - o) / 2, q * q * m' != 2 ^ (2 * s)⟩

/-- floor(ln 2 · 2^256). -/
def ln2Fix : Nat := 80260960185991308862233904206310070533990667611589946606122867505419956976171

/-- Terms of a power series from the `n`-th on, in units of 2^-256, each rounded down. -/
def expTerms (y : Nat) : Nat → Nat → Nat → Nat
  | 0, _, _ => 0
  | fuel + 1, n, t => t + expTerms y fuel (n + 1) (t * y / 2 ^ 256 / (n + 1))

/-- 2^(r/2^256) for 0 < r < 2^256, in units of 2^-256, less at most 256 of them. -/
def exp2Frac (r : Nat) : Nat := expTerms (r * ln2Fix / 2 ^ 256) 70 0 (2 ^ 256)

/-- 2^a for a number of at most 256 fraction bits: exact for an integer, else its unit of 2^-192, which the error of the series
leaves certain for every operand of the formats of R98 (R170; PRESUMED, log 60). -/
def exp2Mag (a : Dy) : Mag :=
  let fl : Int := a.i * pow2 (a.k + 256) / (pow2 (-a.k - 256) : Int)
  let n := fl / (2 ^ 256 : Nat)
  let r := (fl % (2 ^ 256 : Nat)).toNat
  if 1024 ≤ n then ⟨1, 2000, false⟩
  else if n < -1024 then ⟨1, -2000, false⟩
  else if r = 0 then ⟨1, n, false⟩
  else ⟨exp2Frac r / 2 ^ 64, n - 192, true⟩

/-- Terms z^(2n+1)/(2n+1) of atanh, in units of 2^-256. -/
def atanhTerms (z2 : Nat) : Nat → Nat → Nat → Nat
  | 0, _, _ => 0
  | fuel + 1, n, p => p / (2 * n + 1) + atanhTerms z2 fuel (n + 1) (p * z2 / 2 ^ 256)

/-- log2(m/2^lg) for 2^lg < m < 2^(lg+1), in units of 2^-256, less at most 2^10 of them. -/
def log2Frac (m lg : Nat) : Nat :=
  let z := (m - 2 ^ lg) * 2 ^ 256 / (m + 2 ^ lg)
  2 * atanhTerms (z * z / 2 ^ 256) 90 0 z * 2 ^ 256 / ln2Fix

/-- log2 of a positive number m·2^k: its sign and magnitude; none for 0 (R170). -/
def log2Mag (m : Nat) (k : Int) : Option (Bool × Mag) :=
  let lg := Nat.log2 m
  let e : Int := k + lg
  if m = 2 ^ lg then (if e = 0 then none else some (decide (e < 0), ⟨e.natAbs, 0, false⟩))
  else
    let v : Int := e * (2 ^ 256 : Nat) + log2Frac m lg
    if 0 ≤ e then some (false, ⟨v.toNat / 2 ^ 64, -192, true⟩) else some (true, ⟨((-v).toNat - 2 ^ 10) / 2 ^ 64, -192, true⟩)

/-- VRCP (R170). -/
def laneRcp (x : Fmt) (rm : Rm) (a : FpVal) : Lane := fpDiv x rm (.fin false 1 0) a
/-- VRSQ (R170). -/
def laneRsq (x : Fmt) (rm : Rm) (a : FpVal) : Lane :=
  match a with
  | .nan s => (x.nan, { nv := s })
  | .inf n => if n then (x.nan, { nv := true }) else (x.zero false, {})
  | .fin n m k => if m = 0 then (x.infBits n, { dz := true }) else if n then (x.nan, { nv := true }) else x.round rm false (rsqrtMag m k)
/-- VEXP2 (R170). -/
def laneExp2 (x : Fmt) (rm : Rm) (a : FpVal) : Lane :=
  match a with
  | .nan s => (x.nan, { nv := s })
  | .inf n => if n then (x.zero false, {}) else (x.infBits false, {})
  | .fin n m k => x.round rm false (if m = 0 then ⟨1, 0, false⟩ else exp2Mag (dyOf n m k))
/-- VLOG2 (R170). -/
def laneLog2 (x : Fmt) (rm : Rm) (a : FpVal) : Lane :=
  match a with
  | .nan s => (x.nan, { nv := s })
  | .inf n => if n then (x.nan, { nv := true }) else (x.infBits false, {})
  | .fin n m k =>
    if m = 0 then (x.infBits true, { dz := true })
    else if n then (x.nan, { nv := true })
    else match log2Mag m k with
      | none => (0, {})
      | some r => x.round rm r.1 r.2

/-! Elementwise (R169) -/

/-- VMIN and VMAX on values (R148, R169). -/
def laneMinMax (x : Fmt) (rm : Rm) (max : Bool) (a b : FpVal) : Lane :=
  let fl : FlagSet := { nv := a.isSnan || b.isSnan }
  if a.isNan && b.isNan then (x.nan, fl)
  else
    let v := if a.isNan then b else if b.isNan then a
      else if (fpLt a b || (fpEq a b && a.neg? && !b.neg?)) != max then a else b
    let r := x.ofVal rm v
    (r.1, r.2.join fl)

def FpVal.absVal : FpVal → FpVal
  | .nan s => .nan s
  | .inf _ => .inf false
  | .fin _ m k => .fin false m k

/-- The two- and three-operand operations of R169. -/
inductive EOp where
  | add | sub | mul | fma | fms | min | max | abs | neg | div
  deriving DecidableEq, Repr, Inhabited

/-- Class F (R169). -/
def laneF (x : Fmt) (rm : Rm) (op : EOp) (a b c : FpVal) : Lane :=
  match op with
  | .add => fpAdd x rm a b
  | .sub => fpSub x rm a b
  | .mul => fpMul x rm a b
  | .fma => fpFma x rm a b c
  | .fms => fpFma x rm a.negate b c
  | .min => laneMinMax x rm false a b
  | .max => laneMinMax x rm true a b
  | .abs => x.ofVal rm a.absVal
  | .neg => x.ofVal rm a.negate
  | .div => fpDiv x rm a b

/-- Class I: 32-bit two's complement, without flags (R169, R142). -/
def laneI (op : EOp) (a b c : Nat) : Nat :=
  let sa := sext a 32
  let sb := sext b 32
  wrap 32 <| match op with
    | .add => sa + sb
    | .sub => sa - sb
    | .mul => sa * sb
    | .fma => sa * sb + sext c 32
    | .fms => sext c 32 - sa * sb
    | .min => if sb < sa then sb else sa
    | .max => if sa < sb then sb else sa
    | .abs => if sa < 0 then -sa else sa
    | .neg => -sa
    | .div => divS true (BitVec.ofNat 64 a) (BitVec.ofNat 64 b)

/-- An element of either class from raw elements in their formats. -/
def laneE (op : EOp) (rm : Rm) (fa fb fc a b c : Nat) : Lane :=
  if isI fc then (laneI op a b c, {})
  else laneF (fmtD fc) rm op ((fmtD fa).decode a) ((fmtD fb).decode b) ((fmtD fc).decode c)

/-! Conversions (R171, R174) -/

/-- The conversion pairs of VCVT. -/
def cvtPair (src dst : Nat) : Bool :=
  (isFSrc src && (isF dst || isI dst)) || (isI src && (isF dst || dst == 12)) || (src == 12 && (isI dst || isF dst))

def laneCvt (rm : Rm) (src dst v : Nat) : Lane :=
  if isFSrc src then
    (if isI dst then let r := fcvtInt rm (-(2 ^ 31)) (2 ^ 31 - 1) ((fmtD src).decode v); (wrap 32 r.1, r.2)
     else (fmtD dst).ofVal rm ((fmtD src).decode v))
  else
    let i := sext v (elemBits src)
    if isF dst then intToFp (fmtD dst) rm i
    else if dst = 12 then (wrap 64 i, {})
    else let r := clampTo (-(2 ^ 31)) (2 ^ 31 - 1) i; (wrap 32 r.1, { sat := r.2 })

/-- The exact value of an element of class F, INT32 or ACC64 (R173). -/
def exactVal (f v : Nat) : FpVal :=
  match fmtOf f with
  | some x => x.decode v
  | none => let i := sext v (elemBits f); .fin (decide (i < 0)) i.natAbs 0

/-- VDQNT of one planar value, with its E8 code for BSI (R174). -/
def laneDeq (dst : Nat) (code : Option Nat) (q : Int) : Lane :=
  if isI dst then (wrap 32 q, {})
  else match code with
    | none => intToFp (fmtD dst) .rne q
    | some c => if c = 255 || q = 0 then (0, {}) else (fmtD dst).roundDy .rne ⟨q, (c : Int) - 127⟩

/-- VSCL (R175). -/
def laneScl (x : Fmt) (rm : Rm) (dv : Bool) (a : FpVal) (b : Nat) : Lane :=
  match a with
  | .nan s => (x.nan, { nv := s })
  | .inf n => if b = 255 then (0, {}) else (x.infBits n, {})
  | .fin n m k => if b = 255 then (0, {}) else x.ofVal rm (.fin n m (if dv then k + 127 - b else k + b - 127))

/-! Comparison, shifts and bits (R179) -/

def laneCmpF (cc : VCond) (a b : FpVal) : Lane :=
  let s : FlagSet := { nv := a.isSnan || b.isSnan }
  let q : FlagSet := { nv := a.isNan || b.isNan }
  let ord := !a.isNan && !b.isNan
  match cc with
  | .eq => (b2n (fpEq a b), s)
  | .ne => (b2n (!fpEq a b), s)
  | .lt | .ltu => (b2n (ord && fpLt a b), q)
  | .le | .leu => (b2n (ord && !fpLt b a), q)
  | .un => (b2n (!ord), s)
def laneCmpI (cc : VCond) (a b : Nat) : Nat :=
  match cc with
  | .eq | .un => b2n (a == b)
  | .ne => b2n (a != b)
  | .lt => b2n (decide (sext a 32 < sext b 32))
  | .le => b2n (decide (sext a 32 ≤ sext b 32))
  | .ltu => b2n (decide (a < b))
  | .leu => b2n (decide (a ≤ b))
/-- The condition suits the class of the sources (R179). -/
def condOk (cc : VCond) (int : Bool) : Bool :=
  match cc with
  | .ltu | .leu => int
  | .un => !int
  | _ => true

def laneShr (ar : Bool) (a k : Nat) : Nat := if ar then wrap 32 (sext a 32 / (2 ^ k : Nat)) else a / 2 ^ k

/-! Trees and scans (R176-R178): nodes carry the flags of everything below them -/

/-- The node function on FP32 or INT32 patterns. -/
def nodeOp (op : RedOp) (int : Bool) (rm : Rm) (a b : Lane) : Lane :=
  let r : Lane :=
    if int then (laneI (match op with | .add => .add | .max => .max | .min => .min) a.1 b.1 0, {})
    else match op with
      | .add => fpAdd fp32 rm (fp32.decode a.1) (fp32.decode b.1)
      | .max => fpMinMax fp32 true a.1 b.1
      | .min => fpMinMax fp32 false a.1 b.1
  (r.1, (a.2.join b.2).join r.2)

/-- One level of the tree: neighbours pair, an odd last one rises alone. -/
def treeLevel (f : Lane → Lane → Lane) : List Lane → List Lane
  | a :: b :: l => f a b :: treeLevel f l
  | l => l
/-- The root of the tree over a range (R176). -/
def treeRoot (f : Lane → Lane → Lane) : Nat → List Lane → Lane
  | 0, l => l.headD (0, {})
  | n + 1, l => if l.length ≤ 1 then l.headD (0, {}) else treeRoot f n (treeLevel f l)

/-- scan(j) for every element of an aligned block of 2^n, after the value of the blocks before it (R178). -/
def scanBlock (f : Lane → Lane → Lane) : Nat → Option Lane → List Lane → List Lane
  | 0, acc, l => l.map fun v => match acc with | some a => f a v | none => v
  | n + 1, acc, l =>
    let lo := l.take (2 ^ n)
    let hi := l.drop (2 ^ n)
    let put := fun (v : Lane) => match acc with | some a => f a v | none => v
    if hi.isEmpty then scanBlock f n acc lo
    else
      let left := put (treeRoot f n lo)
      let rest := scanBlock f n (some left) hi
      scanBlock f n acc lo ++ (if hi.length = 2 ^ n then rest.dropLast ++ [put (treeRoot f (n + 1) l)] else rest)

/-! Bitmaps (R180-R185) -/

def emptyIx : Nat := 0xFFFFFFFF

/-- The positions of ones among 32-bit words, from word `k` on. -/
def bitPositions (k : Nat) : List Nat → List Nat
  | [] => []
  | w :: ws => (if w = 0 then [] else ((List.range 32).filter fun b => w.testBit b).map (32 * k + ·)) ++ bitPositions (k + 1) ws

/-- Running sums of popcounts before each word. -/
def popPrefix (acc : Nat) : List Nat → List Nat
  | [] => []
  | w :: ws => acc % 2 ^ 32 :: popPrefix (acc + popcBits 32 w) ws

/-- A list cut or filled to a length. -/
def fitTo (n : Nat) (d : α) (l : List α) : List α := l.take n ++ List.replicate (n - l.length) d

end Sys2Proof.Machine
end

