-- ==== Sys2Proof/Machine/Plane.lean ====
section
/-! DEFINITION. The plane array (04_plane_array.md): planar values (R86, R88, R93, R113), products (R114-R117), cycle counts (R118),
sequence numbers (R120), and its messages from execution to completion (R119, R125, R128-R131). -/
namespace Sys2Proof

/-- The three product forms (R111). -/
inductive ProdForm where
  | i | s | x
  deriving DecidableEq, Repr, Inhabited

/-- A product instruction: its form, whether it is a matrix-vector one, and its fields. -/
def Instr.product? : Instr → Option (ProdForm × Bool × PF)
  | .pmmaI _ p => some (.i, false, p)
  | .pmmaS _ p => some (.s, false, p)
  | .pmmaX _ p => some (.x, false, p)
  | .pmvI _ p => some (.i, true, p)
  | .pmvS _ p => some (.s, true, p)
  | .pmvX _ p => some (.x, true, p)
  | _ => none

end Sys2Proof
namespace Sys2Proof.Machine

/-! Planar values -/

/-- The bits of a plane in element order (R88). -/
def planeBits (bs : List Byte) : List Nat := bs.flatMap fun b => (List.range 8).map fun i => b2n (b.getLsbD i)

/-- The 1,024 values of a group of declared width `w` read with width-map entry `m`, planes below `s` counting as 0
(elem_int of R93, opv of R113). -/
def groupVals (planes : List (List Byte)) (w m s : Nat) (signed : Bool) : List Int :=
  let v := min m w
  (planes.zipIdx).foldl (fun acc e =>
    if e.2 < s || v ≤ e.2 then acc
    else
      let wt : Int := if signed && v == w && e.2 + 1 == w then -((2 ^ e.2 : Nat) : Int) else (2 ^ e.2 : Nat)
      List.zipWith (fun a (b : Nat) => a + wt * b) acc (planeBits e.1)) (List.replicate 1024 0)

/-- The planes of each group of a planar tile (R90). -/
def Stall.groupPlanes (x : Stall) (t : Tile) : List (List (List Byte)) :=
  (pieces (128 * t.width) t.groups (x.image t)).map fun g => pieces 128 t.width g

/-- Width-map entries, one per group; the declared width without a map or for BIN (R91, R92). -/
def Stall.widths (x : Stall) (t : Tile) : List Nat :=
  if t.wmv && t.fmt != 2 then (x.tileBytes (x.tileD t.wml) 0 t.groups).map fun b => b.toNat % 32
  else List.replicate t.groups t.width

/-- The scale bytes of a BSI tile, 32 for each group (R89, R90). -/
def Stall.scales (x : Stall) (t : Tile) : List Nat := (x.tileBytes (x.tileD t.scl) 0 (32 * t.groups)).map (·.toNat)

/-- The effective width of a group (R92). -/
def effWidth (planes : List (List Byte)) : Nat :=
  (planes.zipIdx).foldl (fun n e => if e.1.any (· != 0) then e.2 + 1 else n) 0

/-- All groups of an operand at precision `q` (R112, R113, R116). -/
def Stall.operand (x : Stall) (t : Tile) (q : Nat) : List (List Int) :=
  let bin := t.fmt == 2
  (List.zip (x.groupPlanes t) (x.widths t)).map fun g =>
    let v := groupVals g.1 t.width g.2 (t.width - q) (t.fmt != 0 && !bin)
    if bin then v.map fun b => 2 * b - 1 else v

/-- Rows of 32. -/
def rows32 : Nat → List Int → List (List Int)
  | 0, _ => []
  | n + 1, l => l.take 32 :: rows32 n (l.drop 32)
def dot (a b : List Int) : Int := (List.zipWith (· * ·) a b).foldl (· + ·) 0

/-- The 1,024 run sums of one K block, row-major (R109, R117). -/
def blockRuns (vec : Bool) (a b : List Int) : List Int :=
  let bs := rows32 32 b
  (rows32 32 a).flatMap fun r => bs.zipIdx.map fun c => if vec && c.2 != 0 then 0 else dot r c.1

/-- Planes used of an operand (R112). -/
def planesUsed (form : ProdForm) (pp : Nat) (t : Tile) : Nat := if form = .x then 1 else min pp t.width

/-! Products -/

/-- Signed words of an accumulator image, or bit patterns. -/
def accWords (form : ProdForm) (img : List Byte) : List Int :=
  if form = .s then (splitElems 32 img).map (fun (v : Nat) => (v : Int)) else (splitElems 64 img).map fun v => sext v 64

/-- Saturation to 64 bits at a chunk boundary (R114). -/
def satAcc (v : Int) : Int × Bool :=
  if 2 ^ 63 - 1 < v then (2 ^ 63 - 1, true) else if v < -(2 ^ 63) then (-(2 ^ 63), true) else (v, false)

/-- Adds the chunk sums, chunk by chunk (R114, R116). -/
def addChunks (cur : List Int) (fl : FlagSet) : Nat → List (List Int) → List Int × FlagSet
  | 0, _ => (cur, fl)
  | n + 1, runs =>
    let sum := (runs.take 8).foldl (List.zipWith (· + ·)) (List.replicate 1024 0)
    let r := (List.zipWith (· + ·) cur sum).map satAcc
    addChunks (r.map (·.1)) { fl with sat := fl.sat || r.any (·.2) } n (runs.drop 8)

/-- Promotes one run into one element (R115). -/
def promote (cur run : Int) (ca cb : Nat) : Int × FlagSet :=
  if run = 0 || ca = 255 || cb = 255 then (cur, {})
  else
    match fp32.decode cur.toNat with
    | .fin n m k =>
      let r := (dyOf n m k).add ⟨run, (ca : Int) + cb - 254⟩
      if r.i = 0 then (0, {}) else let p := fp32.roundDy .rne r; ((p.1 : Int), p.2)
    | _ => (cur, {})

/-- Promotes one K block: element (m, k) has the scales of A's row m and of B's row k. -/
def promoteBlock (cur runs : List Int) (sa sb : List Nat) : List (Int × FlagSet) :=
  ((cur.zip runs).zipIdx).map fun e => promote e.1.1 e.1.2 (sa.getD (e.2 / 32) 255) (sb.getD (e.2 % 32) 255)

def promoteAll (cur : List Int) (fl : FlagSet) (sa sb : List Nat) : List (List Int) → List Int × FlagSet
  | [] => (cur, fl)
  | r :: rs =>
    let p := promoteBlock cur r (sa.take 32) (sb.take 32)
    promoteAll (p.map (·.1)) (fl.join (FlagSet.joinAll (p.map (·.2)))) (sa.drop 32) (sb.drop 32) rs

/-- NaNs already in a scaled accumulator become canonical; PMV touches column 0 only (R115, R117). -/
def cleanNans (vec : Bool) (cur : List Int) : List Int × FlagSet :=
  let r := cur.zipIdx.map fun e =>
    if vec && e.2 % 32 != 0 then (e.1, false)
    else match fp32.decode e.1.toNat with
      | .nan sg => ((fp32.nan : Int), sg)
      | _ => (e.1, false)
  (r.map (·.1), { nv := r.any (·.2) })

/-- The image and AFL of a product's destination (R114-R117). -/
def Stall.product (x : Stall) (form : ProdForm) (vec acc : Bool) (pp : BitVec 13) (ta tb tc : Tile) : List Byte × BitVec 5 :=
  let a := x.operand ta (planesUsed form (ppA pp) ta)
  let b := x.operand tb (planesUsed form (ppB pp) tb)
  let runs := List.zipWith (blockRuns vec) a b
  let cur := if acc then accWords form (x.image tc) else List.replicate 1024 0
  let old : BitVec 5 := if acc then tc.afl else 0
  if form = .s then
    let c := if acc then cleanNans vec cur else (cur, {})
    let r := promoteAll c.1 c.2 (x.scales ta) (x.scales tb) runs
    (joinElems 32 (r.1.map (·.toNat)), old ||| r.2.afl)
  else
    let r := addChunks cur {} ((runs.length + 7) / 8) runs
    (joinElems 64 (r.1.map (wrap 64)), old ||| r.2.afl)

/-- Plane pairs of each K chunk (R118). -/
def Stall.chunkCosts (x : Stall) (form : ProdForm) (pp : BitVec 13) (ta tb : Tile) : List Nat :=
  let n := (ta.groups + 7) / 8
  let side := fun (t : Tile) (p c : Nat) =>
    min t.width (((x.widths t).drop (8 * c)).take 8 |>.foldl max 0) - (t.width - min p t.width)
  (List.range n).map fun c => if form = .x then 1 else side ta (ppA pp) c * side tb (ppB pp) c

/-- What PWMAP writes: the effective width of each group, then zeros (R131). -/
def Stall.widthMap (x : Stall) (ta : Tile) (bytes : Nat) : List Byte :=
  ((x.groupPlanes ta).map (fun g => BitVec.ofNat 8 (effWidth g)) ++ List.replicate bytes 0).take bytes

/-! Checks (R109, R111, R130, R131) -/

/-- Formats of the operands of a form (R111). -/
def formTakes (form : ProdForm) (t : Tile) : Bool :=
  !t.lay && (match form with | .i => t.fmt == 0 || t.fmt == 1 | .s => t.fmt == 3 | .x => t.fmt == 2)

/-- Linked tiles a form reads, each with the bytes it must hold (R90, R111). -/
def Stall.prodLinks (x : Stall) (form : ProdForm) (t : Tile) : List (Tile × Nat) :=
  (if form != .x && t.wmv then [(x.tileD t.wml, t.groups)] else []) ++ (if form = .s then [(x.tileD t.scl, 32 * t.groups)] else [])

def Stall.prodCheck (x : Stall) (form : ProdForm) (p : PF) : Option Cls :=
  let ta := x.srcTile p.ta.toNat
  let tb := x.srcTile p.tb.toNat
  let tc := x.tileD p.tc.toNat
  let links := x.prodLinks form ta ++ x.prodLinks form tb
  let sc := decide (form = ProdForm.s)
  (firstBad
    [(!formTakes form ta || !formTakes form tb || !tc.lay || tc.fmt != (if sc then 13 else 12) || x.bound p.tc.toNat, .tileFormat),
     (ta.sc != sc || tb.sc != sc, .scaleMismatch),
     (tc.shape != 3 || ta.groups != tb.groups || decide (128 < ta.groups), .tileRange)]).orElse fun _ =>
  (x.placeFaults ([ta, tb] ++ links.map (·.1) ++ [tc])).orElse fun _ =>
  firstBad
    [((links.any fun l => decide (l.1.bytes < l.2)) || ([ta, tb] ++ links.map (·.1)).any (x.overlap tc), .tileRange)]

def Stall.zaccCheck (x : Stall) (t : Nat) : Option Cls :=
  let tc := x.dstTile t
  (firstBad [(!tc.lay || (tc.fmt != 12 && tc.fmt != 13) || tc.shape != 3, .tileFormat)]).orElse fun _ => x.placeFault tc

def Stall.wmapCheck (x : Stall) (a t : Nat) : Option Cls :=
  let ta := x.srcTile a
  let tc := x.dstTile t
  (firstBad [(ta.lay || ta.fmt == 2, .tileFormat)]).orElse fun _ =>
  (x.placeFaults [ta, tc]).orElse fun _ => firstBad [(decide (tc.bytes < ta.groups) || x.overlap tc ta, .tileRange)]

/-- The checks of a plane-array instruction (R128, R130, R131). -/
def Stall.planeCheck (x : Stall) (i : Instr) : Option Cls :=
  match i.product? with
  | some (form, _, p) => x.prodCheck form p
  | none =>
    match i with
    | .pzacc _ tc _ _ => x.zaccCheck tc.toNat
    | .pwmap _ ta tc _ => x.wmapCheck ta.toNat tc.toNat
    | _ => none

/-- A sequence number meets NSQ (R120). -/
def Stall.seqOk (x : Stall) (tc : Nat) (seq : Option Nat) : Bool := match seq with | some n => n == (x.dstTile tc).nsq | none => true

/-- The states of the tile rule and the sequence rule hold (R119, R120, R128, R130, R131). -/
def Stall.planeReady (x : Stall) (i : Instr) (seq : Option Nat) : Bool :=
  let tc := i.dstTiles.headD 0
  x.seqOk tc seq && x.srcsReady i.srcTiles &&
    (match i with
     | .pzacc _ _ _ _ => x.dstReady tc false || x.dstReady tc true
     | _ => x.dstReady tc i.merges)

/-- The sequence number a plane-array instruction takes from its left operand. -/
def seqOf (i : Instr) (l : W64) : Option Nat :=
  match i with
  | .pzacc _ _ sq _ => if sq then some (l.toNat % 4096) else none
  | i => match i.product? with | some (_, _, p) => if p.sq then some (l.toNat % 4096) else none | none => none

/-- A plane-array instruction executes (R128). -/
def State.planeExec (s : State) (c : Cx) (i : Instr) (nb : Bool) : State :=
  let x := s.stallD c.f.stall
  s.sendAt c i (x.planeCheck i) nb (x.planeReady i (seqOf i c.l))

/-- PMMA.I (R114, R128). -/
def execPmmaI (h : Hd) (p : PF) (s : State) : Out := s.runWord h fun c => s.planeExec c (.pmmaI h p) p.nb
/-- PMMA.S (R115, R128). -/
def execPmmaS (h : Hd) (p : PF) (s : State) : Out := s.runWord h fun c => s.planeExec c (.pmmaS h p) p.nb
/-- PMMA.X (R116, R128). -/
def execPmmaX (h : Hd) (p : PF) (s : State) : Out := s.runWord h fun c => s.planeExec c (.pmmaX h p) p.nb
/-- PMV.i (R117, R129). -/
def execPmvI (h : Hd) (p : PF) (s : State) : Out := s.runWord h fun c => s.planeExec c (.pmvI h p) p.nb
/-- PMV.s (R117, R129). -/
def execPmvS (h : Hd) (p : PF) (s : State) : Out := s.runWord h fun c => s.planeExec c (.pmvS h p) p.nb
/-- PMV.x (R117, R129). -/
def execPmvX (h : Hd) (p : PF) (s : State) : Out := s.runWord h fun c => s.planeExec c (.pmvX h p) p.nb
/-- PZACC (R130). -/
def execPzacc (h : Hd) (tc : BitVec 6) (sq nb : Bool) (s : State) : Out := s.runWord h fun c => s.planeExec c (.pzacc h tc sq nb) nb
/-- PWMAP (R131). -/
def execPwmap (h : Hd) (ta tc : BitVec 6) (nb : Bool) (s : State) : Out := s.runWord h fun c => s.planeExec c (.pwmap h ta tc nb) nb

/-! From inbox to completion -/

/-- The run of a message, from the tiles as they stand at its start. -/
def Stall.planeRun (x : Stall) (m : Msg) : PaRun :=
  let tc := m.i.dstTiles.headD 0
  let d := x.dstTile tc
  let run : PaRun :=
    { m := m, srcs := (m.i.srcTiles.map x.srcSlot).eraseDups, tc := x.dstSlot tc, start := x.cyc, cycles := 4, span := 4, costs := [], chunk := 0,
      out := List.replicate d.bytes 0, flags := 0, nsq := some 0, retried := 0, abandoned := false, redone := 0 }
  match m.i.product? with
  | some (form, vec, p) =>
    let ta := x.srcTile p.ta.toNat
    let tb := x.srcTile p.tb.toNat
    let r := x.product form vec p.acc m.pp ta tb d
    let cs := x.chunkCosts form m.pp ta tb
    { run with out := r.1, flags := r.2, costs := cs, cycles := 4 + cs.foldl (· + ·) 0, span := 4 + cs.foldl (· + ·) 0,
               nsq := if p.sq then some ((d.nsq + 1) % 4096) else none }
  | none =>
    match m.i with
    | .pwmap _ ta _ _ =>
      let t := x.srcTile ta.toNat
      { run with out := x.widthMap t d.bytes, cycles := 4 + (t.width * t.groups + 15) / 16, span := 4 + (t.width * t.groups + 15) / 16, nsq := none }
    | _ => run

/-- Tiles a message touches: sources, their linked maps and scales, and TC (R113). -/
def Stall.planeTiles (x : Stall) (i : Instr) : List Tile :=
  let srcs := i.srcTiles.map x.srcTile
  srcs ++ i.dstTiles.map x.dstTile ++
    (match i.product? with | some (form, _, _) => srcs.flatMap fun t => (x.prodLinks form t).map (·.1) | none => [])

/-- The oldest message that can start (R119): what its block and the blocks before it wrote has performed (R215). -/
def State.planePick (s : State) (x : Stall) : Option Msg :=
  x.inPa.find? fun m => x.topsClear m && x.planeReady m.i m.seq && m.i.dstTiles.all x.dstFree && !mergeFirst x.inPa m &&
    s.behindMsg m.org && x.pagesFor (x.planeTiles m.i)

/-- PA_MESSAGE_START (R119): checks that fail now drop the message (R128). -/
def execPaMessageStart (st : Nat) (s : State) : Out :=
  .next <|
    let x := s.stallD st
    if !s.stallRuns st || x.pa.isSome || decide (x.cyc < x.paNext) then s
    else
      match s.planePick x with
      | none => s
      | some m =>
        if s.traceHolds m.org 3 then s
        else
          let s := s.modStall st fun x => { x with inPa := x.inPa.erase m }
          match x.planeCheck m.i with
          | some cls => s.dropMsg m cls 1
          | none =>
            let r := x.planeRun m
            let s := s.takeFolds m
            (s.modStall st fun x => { ((x.planeTiles m.i).foldl (·.pin ·) x).take m.i.srcTiles.eraseDups m.i.dstTiles with pa := some r }).engBirty m 3 0 0

/-- The cycle in which the chunk now running ends, and the cycle the count ends in. -/
def PaRun.chunkEnd (r : PaRun) : Nat :=
  r.start + r.span - (r.costs.drop (r.chunk + 1)).foldl (· + ·) 0

/-- PA_CHUNK_END (R124, R125): `ok` says whether the residues match. -/
def execPaChunkEnd (st : Nat) (ok : Bool) (s : State) : Out :=
  .next <|
    let x := s.stallD st
    match x.pa with
    | none => s
    | some r =>
      if !s.stallRuns st || decide (r.costs.length ≤ r.chunk) || decide (x.cyc + 1 < r.chunkEnd) then s
      else if r.abandoned then s.paAbandon st r (r.chunk + 1)
      else if ok then s.modStall st fun x => { x with pa := some { r with chunk := r.chunk + 1, retried := 0 } }
      else if 2 ≤ r.retried then (s.paAbandon st r (r.chunk + 1)).arithFail r.m 1
      else s.modStall st fun x => { x with pa := some { r with retried := r.retried + 1, redone := r.redone + r.costs.getD r.chunk 0, span := r.span + r.costs.getD r.chunk 0 } }

/-- The message completes: TC is READY with its content and AFL (R120, R128, R130). -/
def State.paFinish (s : State) (st : Nat) (r : PaRun) : State :=
  let n := r.spent + ((s.stallD st).cyc + 1 - r.start)
  let s := (s.fillPages st [(s.stallD st).tileD r.tc]).modStall st fun x =>
    let x := (x.putTile (x.tileD r.tc) 0 r.out).modTile r.tc fun t =>
      { t with st := .ready, afl := r.flags, rch := 0, nsq := r.nsq.getD t.nsq, origin := r.m.arrival }
    { x.release r.srcs with pa := none, paNext := x.cyc + 1 }
  let s := s.count st 4 (r.busy r.costs.length)
  s.engBirty r.m 4 0 n

/-- PA_MESSAGE_COMPLETE (R118, R128), once the pages TC lies in are resident (R455). A PZACC, a PWMAP or a product past its last
chunk has no K-chunk boundary before it: of a reclaimed frame it runs to its count's end and is abandoned there (R124; log 103). -/
def execPaMessageComplete (st : Nat) (s : State) : Out :=
  .next <|
    let x := s.stallD st
    match x.pa with
    | none => s
    | some r =>
      if !s.stallRuns st || decide (r.chunk < r.costs.length) || decide (x.cyc + 1 < r.start + r.span) || !x.pagesIn (x.tileD r.tc) || s.traceHolds r.m.org 4 then s
      else if r.abandoned then s.paAbandon st r r.costs.length
      else s.paFinish st r

end Sys2Proof.Machine
end

