-- ==== Sys2Proof/Machine/Vector.lean ====
section
/-! DEFINITION. The vector unit (06_vector.md): checks of formats and shapes (R156, R157, R168-R186), what each message computes from its
tiles, its cycle count (R168), and its way from execution to completion (R159-R166). -/
namespace Sys2Proof

/-- The two-operand elementwise operations of R169. -/
def Instr.elem3? : Instr → Option (Machine.EOp × VF3)
  | .vadd _ v => some (.add, v)
  | .vsub _ v => some (.sub, v)
  | .vmul _ v => some (.mul, v)
  | .vfma _ v => some (.fma, v)
  | .vfms _ v => some (.fms, v)
  | .vmin _ v => some (.min, v)
  | .vmax _ v => some (.max, v)
  | .vdiv _ v => some (.div, v)
  | _ => none

/-- The one-operand elementwise operations of R169 and R170; `true` marks class F alone. -/
def Instr.elem2? : Instr → Option (Bool × VF2)
  | .vabs _ v | .vneg _ v => some (false, v)
  | .vrcp _ v | .vrsq _ v | .vsqrt _ v | .vexp2 _ v | .vlog2 _ v => some (true, v)
  | _ => none

/-- The bitwise operations of R179. -/
def Instr.bitwise? : Instr → Option ((Nat → Nat → Nat) × VF3)
  | .vand _ v => some (Nat.land, v)
  | .vor _ v => some (Nat.lor, v)
  | .vxor _ v => some (Nat.xor, v)
  | _ => none

end Sys2Proof
namespace Sys2Proof.Machine

/-! Destinations and links -/

/-- The destinations of a vector instruction, TC first (R173). -/
def Stall.vecDsts (x : Stall) (i : Instr) : List Nat :=
  match i with
  | .vqnt _ v wm =>
    let d := x.dstTile v.tc.toNat
    v.tc.toNat :: (if d.fmt = 3 then [v.tb.toNat] else []) ++ (if wm then [d.wml] else [])
  | i => i.dstTiles

/-- Tiles linked from a planar source, with the bytes they must hold; a map linked to a BIN tile is ignored (R90, R92, R174). -/
def Stall.vecLinks (x : Stall) (i : Instr) : List (Tile × Nat) :=
  match i with
  | .vdqnt _ v =>
    let a := x.srcTile v.ta.toNat
    (if a.wmv && a.fmt != 2 then [(x.tileD a.wml, a.groups)] else []) ++ (if a.sc then [(x.tileD a.scl, 32 * a.groups)] else [])
  | _ => []

/-! Checks (R186) -/

/-- The format class of an element-wise group: all F, or all I (R169). -/
def oneClass (srcs : List Tile) (c : Tile) : Bool :=
  c.lay && srcs.all (·.lay) && ((isF c.fmt && srcs.all fun t => isFSrc t.fmt) || (isI c.fmt && srcs.all fun t => isI t.fmt))
/-- The row counts of an elementwise instruction (R157). -/
def rowsBad (a c : Tile) : Bool := a.rows != c.rows
def castBad (b c : Tile) : Bool := b.rows != c.rows && b.rows != 1
/-- A raw move: class M and one format (R179). -/
def rawMove (a c : Tile) : Bool := a.lay && c.lay && isM a.fmt && a.fmt == c.fmt
def intTile (t : Tile) : Bool := t.lay && isI t.fmt
def wTile (t : Tile) : Bool := t.lay && isW t.fmt

/-- Breaches of format and shape, in order: TILE_FORMAT, SCALE_MISMATCH, TILE_RANGE. -/
def Stall.vecForm (x : Stall) (i : Instr) : List (Bool × Cls) :=
  let F := fun (b : Bool) => (!b, Cls.tileFormat)
  let R := fun (b : Bool) => (b, Cls.tileRange)
  let S := fun (n : BitVec 6) => x.srcTile n.toNat
  let D := fun (n : BitVec 6) => x.dstTile n.toNat
  match i with
  | .vcvt _ v => [F ((S v.ta).lay && (D v.tc).lay && cvtPair (S v.ta).fmt (D v.tc).fmt), R (rowsBad (S v.ta) (D v.tc))]
  | .vqnt _ v wm =>
    let a := S v.ta
    let c := D v.tc
    [F (a.lay && (isFSrc a.fmt || isI a.fmt || a.fmt == 12) && !c.lay && c.fmt != 2 && (!wm || c.wmv)),
     (if c.fmt = 3 then !c.sc || c.scl != v.tb.toNat else c.sc, .scaleMismatch),
     R (a.rows != 4 * c.groups || (c.fmt == 3 && decide ((x.tileD v.tb.toNat).bytes < 32 * c.groups)) ||
        (wm && decide ((x.tileD c.wml).bytes < c.groups)))]
  | .vdqnt _ v =>
    let a := S v.ta
    let c := D v.tc
    [F (!a.lay && c.lay && (isF c.fmt || (isI c.fmt && a.fmt != 3))), (a.fmt == 3 && !a.sc, .scaleMismatch),
     R (c.rows != 4 * a.groups || (x.vecLinks i).any fun l => decide (l.1.bytes < l.2))]
  | .vscl _ v _ =>
    let a := S v.ta
    let c := D v.tc
    [F (a.lay && isFSrc a.fmt && c.lay && isF c.fmt), R (rowsBad a c || decide ((S v.tb).bytes < 8 * c.rows))]
  | .vred _ v _ all =>
    let a := S v.ta
    let c := D v.tc
    [F (oneClass [a] c && a.fmt == c.fmt), R (c.rows != if all then 1 else (a.rows + 255) / 256)]
  | .vscan _ v _ _ => [F (oneClass [S v.ta] (D v.tc) && (S v.ta).fmt == (D v.tc).fmt), R (rowsBad (S v.ta) (D v.tc))]
  | .vbcast _ src tc _ =>
    (match src with
     | none => [F ((D tc).lay && isM (D tc).fmt)]
     | some ta => [F (rawMove (S ta) (D tc)), R ((S ta).rows != 1)])
  | .vperm _ v | .vsel _ v =>
    [F (rawMove (S v.ta) (D v.tc) && intTile (S v.tb)), R (rowsBad (S v.ta) (D v.tc) || castBad (S v.tb) (D v.tc))]
  | .vcmp _ v cc =>
    let a := S v.ta
    let b := S v.tb
    let int := isI a.fmt && isI b.fmt
    [F (a.lay && b.lay && intTile (D v.tc) && (int || (isFSrc a.fmt && isFSrc b.fmt)) && condOk cc int),
     R (rowsBad a (D v.tc) || castBad b (D v.tc))]
  | .vshl _ v cnt | .vshr _ v cnt _ =>
    let c := D v.tc
    (match cnt with
     | .imm _ => [F (wTile (S v.ta) && wTile c), R (rowsBad (S v.ta) c)]
     | .tile tb => [F (wTile (S v.ta) && wTile c && intTile (S tb)), R (rowsBad (S v.ta) c || castBad (S tb) c)])
  | .vpopc _ v => [F (wTile (S v.ta) && intTile (D v.tc)), R (rowsBad (S v.ta) (D v.tc))]
  | .viota _ tc _ => [F (intTile (D tc))]
  | .visect _ v => [F (intTile (S v.ta) && intTile (S v.tb) && intTile (D v.tc)), R (rowsBad (S v.ta) (S v.tb))]
  | .vpfx _ v rank =>
    (match rank with
     | none => [F (intTile (S v.ta) && intTile (D v.tc)), R (rowsBad (S v.ta) (D v.tc))]
     | some tb => [F (intTile (S v.ta) && intTile (D v.tc) && intTile (S tb)), R (rowsBad (S tb) (D v.tc))])
  | .vgat _ v bytes =>
    if bytes then [F (intTile (S v.ta) && intTile (S v.tb) && intTile (D v.tc)), R ((S v.tb).rows != 4 * (D v.tc).rows)]
    else [F (rawMove (S v.ta) (D v.tc) && intTile (S v.tb)), R (rowsBad (S v.tb) (D v.tc))]
  | .vsct _ v => [F (rawMove (S v.ta) (D v.tc) && intTile (S v.tb)), R (rowsBad (S v.ta) (S v.tb))]
  | .vdot8 _ v =>
    [F (intTile (S v.ta) && intTile (S v.tb) && intTile (D v.tc)),
     R (rowsBad (S v.ta) (S v.tb) || (D v.tc).rows != ((S v.ta).rows + 255) / 256)]
  | i =>
    match i.elem3?, i.elem2?, i.bitwise? with
    | some (_, v), _, _ => [F (oneClass [S v.ta, S v.tb] (D v.tc)), R (rowsBad (S v.ta) (D v.tc) || castBad (S v.tb) (D v.tc))]
    | _, some (f, v), _ => [F (oneClass [S v.ta] (D v.tc) && (!f || isF (D v.tc).fmt)), R (rowsBad (S v.ta) (D v.tc))]
    | _, _, some (_, v) =>
      [F (wTile (S v.ta) && wTile (S v.tb) && wTile (D v.tc)), R (rowsBad (S v.ta) (D v.tc) || castBad (S v.tb) (D v.tc))]
    | none, none, none => []

/-- The checks of a vector instruction, made when it executes and again at its start (R159, R186). Of several breaches the first is
reported in this order: format, scale, shape, placement, overlap (log 106). -/
def Stall.vecCheck (x : Stall) (i : Instr) : Option Cls :=
  let dsts := x.vecDsts i
  let srcs := (i.srcTiles.map x.srcTile) ++ (x.vecLinks i).map (·.1)
  let ds := dsts.map x.dstTile
  (firstBad (((dsts.any x.bound && (i.merges || decide (1 < dsts.length))), .tileFormat) :: x.vecForm i)).orElse fun _ =>
  (x.placeFaults (srcs ++ ds)).orElse fun _ =>
  firstBad [((ds.any fun d => srcs.any (x.overlap d)) || (match ds with
    | [a, b] => x.overlap a b
    | [a, b, c] => x.overlap a b || x.overlap a c || x.overlap b c
    | _ => false), .tileRange)]

/-- The states of the tile rule (R159, R264). -/
def Stall.vecReady (x : Stall) (i : Instr) : Bool :=
  x.srcsReady i.srcTiles && (x.vecDsts i).all fun d => x.dstReady d i.merges

/-- A vector instruction executes (R159). -/
def State.vecExec (s : State) (c : Cx) (i : Instr) (nb : Bool) : State :=
  let x := s.stallD c.f.stall
  s.sendAt c i (x.vecCheck i) nb (x.vecReady i)

/-- VADD (R169). -/
def execVadd (h : Hd) (v : VF3) (s : State) : Out := s.runWord h fun c => s.vecExec c (.vadd h v) v.nb
/-- VSUB (R169). -/
def execVsub (h : Hd) (v : VF3) (s : State) : Out := s.runWord h fun c => s.vecExec c (.vsub h v) v.nb
/-- VMUL (R169). -/
def execVmul (h : Hd) (v : VF3) (s : State) : Out := s.runWord h fun c => s.vecExec c (.vmul h v) v.nb
/-- VFMA (R169). -/
def execVfma (h : Hd) (v : VF3) (s : State) : Out := s.runWord h fun c => s.vecExec c (.vfma h v) v.nb
/-- VFMS (R169). -/
def execVfms (h : Hd) (v : VF3) (s : State) : Out := s.runWord h fun c => s.vecExec c (.vfms h v) v.nb
/-- VMIN (R169). -/
def execVmin (h : Hd) (v : VF3) (s : State) : Out := s.runWord h fun c => s.vecExec c (.vmin h v) v.nb
/-- VMAX (R169). -/
def execVmax (h : Hd) (v : VF3) (s : State) : Out := s.runWord h fun c => s.vecExec c (.vmax h v) v.nb
/-- VABS (R169). -/
def execVabs (h : Hd) (v : VF2) (s : State) : Out := s.runWord h fun c => s.vecExec c (.vabs h v) v.nb
/-- VNEG (R169). -/
def execVneg (h : Hd) (v : VF2) (s : State) : Out := s.runWord h fun c => s.vecExec c (.vneg h v) v.nb
/-- VRCP (R170). -/
def execVrcp (h : Hd) (v : VF2) (s : State) : Out := s.runWord h fun c => s.vecExec c (.vrcp h v) v.nb
/-- VRSQ (R170). -/
def execVrsq (h : Hd) (v : VF2) (s : State) : Out := s.runWord h fun c => s.vecExec c (.vrsq h v) v.nb
/-- VDIV (R169). -/
def execVdiv (h : Hd) (v : VF3) (s : State) : Out := s.runWord h fun c => s.vecExec c (.vdiv h v) v.nb
/-- VSQRT (R170). -/
def execVsqrt (h : Hd) (v : VF2) (s : State) : Out := s.runWord h fun c => s.vecExec c (.vsqrt h v) v.nb
/-- VEXP2 (R170). -/
def execVexp2 (h : Hd) (v : VF2) (s : State) : Out := s.runWord h fun c => s.vecExec c (.vexp2 h v) v.nb
/-- VLOG2 (R170). -/
def execVlog2 (h : Hd) (v : VF2) (s : State) : Out := s.runWord h fun c => s.vecExec c (.vlog2 h v) v.nb
/-- VCVT (R171). -/
def execVcvt (h : Hd) (v : VF2) (s : State) : Out := s.runWord h fun c => s.vecExec c (.vcvt h v) v.nb
/-- VQNT (R173). -/
def execVqnt (h : Hd) (v : VF3) (wm : Bool) (s : State) : Out := s.runWord h fun c => s.vecExec c (.vqnt h v wm) v.nb
/-- VDQNT (R174). -/
def execVdqnt (h : Hd) (v : VF2) (s : State) : Out := s.runWord h fun c => s.vecExec c (.vdqnt h v) v.nb
/-- VSCL (R175). -/
def execVscl (h : Hd) (v : VF3) (dv : Bool) (s : State) : Out := s.runWord h fun c => s.vecExec c (.vscl h v dv) v.nb
/-- VRED (R177). -/
def execVred (h : Hd) (v : VF2) (op : RedOp) (all : Bool) (s : State) : Out := s.runWord h fun c => s.vecExec c (.vred h v op all) v.nb
/-- VSCAN (R178). -/
def execVscan (h : Hd) (v : VF2) (op : RedOp) (all : Bool) (s : State) : Out := s.runWord h fun c => s.vecExec c (.vscan h v op all) v.nb
/-- VBCAST (R179). -/
def execVbcast (h : Hd) (src : Option (BitVec 6)) (tc : BitVec 6) (nb : Bool) (s : State) : Out :=
  s.runWord h fun c => s.vecExec c (.vbcast h src tc nb) nb
/-- VPERM (R179). -/
def execVperm (h : Hd) (v : VF3) (s : State) : Out := s.runWord h fun c => s.vecExec c (.vperm h v) v.nb
/-- VSEL (R179). -/
def execVsel (h : Hd) (v : VF3) (s : State) : Out := s.runWord h fun c => s.vecExec c (.vsel h v) v.nb
/-- VCMP (R179). -/
def execVcmp (h : Hd) (v : VF3) (cc : VCond) (s : State) : Out := s.runWord h fun c => s.vecExec c (.vcmp h v cc) v.nb
/-- VAND (R179). -/
def execVand (h : Hd) (v : VF3) (s : State) : Out := s.runWord h fun c => s.vecExec c (.vand h v) v.nb
/-- VOR (R179). -/
def execVor (h : Hd) (v : VF3) (s : State) : Out := s.runWord h fun c => s.vecExec c (.vor h v) v.nb
/-- VXOR (R179). -/
def execVxor (h : Hd) (v : VF3) (s : State) : Out := s.runWord h fun c => s.vecExec c (.vxor h v) v.nb
/-- VSHL (R179). -/
def execVshl (h : Hd) (v : VF2) (cnt : ShCount) (s : State) : Out := s.runWord h fun c => s.vecExec c (.vshl h v cnt) v.nb
/-- VSHR (R179). -/
def execVshr (h : Hd) (v : VF2) (cnt : ShCount) (ar : Bool) (s : State) : Out := s.runWord h fun c => s.vecExec c (.vshr h v cnt ar) v.nb
/-- VPOPC (R179). -/
def execVpopc (h : Hd) (v : VF2) (s : State) : Out := s.runWord h fun c => s.vecExec c (.vpopc h v) v.nb
/-- VIOTA (R179). -/
def execViota (h : Hd) (tc : BitVec 6) (nb : Bool) (s : State) : Out := s.runWord h fun c => s.vecExec c (.viota h tc nb) nb
/-- VISECT (R181). -/
def execVisect (h : Hd) (v : VF3) (s : State) : Out := s.runWord h fun c => s.vecExec c (.visect h v) v.nb
/-- VPFX (R182). -/
def execVpfx (h : Hd) (v : VF2) (rank : Option (BitVec 6)) (s : State) : Out := s.runWord h fun c => s.vecExec c (.vpfx h v rank) v.nb
/-- VGAT (R183). -/
def execVgat (h : Hd) (v : VF3) (bytes : Bool) (s : State) : Out := s.runWord h fun c => s.vecExec c (.vgat h v bytes) v.nb
/-- VSCT (R184). -/
def execVsct (h : Hd) (v : VF3) (s : State) : Out := s.runWord h fun c => s.vecExec c (.vsct h v) v.nb
/-- VDOT8 (R185). -/
def execVdot8 (h : Hd) (v : VF3) (s : State) : Out := s.runWord h fun c => s.vecExec c (.vdot8 h v) v.nb

/-! Results -/

/-- TB's elements as its elementwise use reads them: one row serves every row (R157). -/
def Stall.cast (x : Stall) (b c : Tile) : List Nat :=
  let l := x.elems b
  if b.rows = c.rows then l else (List.replicate c.rows l).flatten

def zip3 (f : Nat → Nat → Nat → Lane) : List Nat → List Nat → List Nat → List Lane
  | a :: as, b :: bs, c :: cs => f a b c :: zip3 f as bs cs
  | _, _, _ => []

/-- Group rows of 32 elements. -/
def chunks32 : Nat → List α → List (List α)
  | 0, _ => []
  | n + 1, l => l.take 32 :: chunks32 n (l.drop 32)

/-- VQNT of one group: its scale bytes, planes and flags (R173). -/
def quantGroup (bsi : Bool) (lo hi : Int) (w : Nat) (vals : List FpVal) : List Byte × List (List Byte) × FlagSet :=
  if bsi then
    let rs := (chunks32 32 vals).map (bsiQuantise w)
    (rs.map fun r => BitVec.ofNat 8 r.1, toPlanes w (rs.flatMap fun r => r.2.1), .joinAll (rs.map (·.2.2)))
  else
    let rs := vals.map (intQuantise lo hi)
    ([], toPlanes w (rs.map (·.1)), .joinAll (rs.map (·.2)))

/-- Elements of a list in groups of 1,024. -/
def groups1k : Nat → List α → List (List α)
  | 0, _ => []
  | n + 1, l => l.take 1024 :: groups1k n (l.drop 1024)

/-- The destinations' bytes and TC's flags of VQNT (R173); the scale tile's bytes past 32·G are written as 0 (log 104). -/
def Stall.quantOut (x : Stall) (v : VF3) (wm : Bool) : List (List Byte) × FlagSet :=
  let a := x.srcTile v.ta.toNat
  let c := x.dstTile v.tc.toNat
  let w := c.width
  let lo : Int := if c.fmt = 1 then -(2 ^ (w - 1)) else 0
  let hi : Int := if c.fmt = 1 then 2 ^ (w - 1) - 1 else 2 ^ w - 1
  let gs := (groups1k c.groups ((x.elems a).map (exactVal a.fmt))).map (quantGroup (c.fmt = 3) lo hi w)
  ([gs.flatMap fun g => g.2.1.flatten] ++
     (if c.fmt = 3 then [fitTo (x.tileD v.tb.toNat).bytes 0 (gs.flatMap (·.1))] else []) ++
     (if wm then [fitTo (x.tileD c.wml).bytes 0 (gs.map fun g => BitVec.ofNat 8 (effWidth g.2.1))] else []),
   .joinAll (gs.map (·.2.2)))

/-- VDQNT (R174). -/
def Stall.deqOut (x : Stall) (a c : Tile) : List Lane :=
  let vals := x.operand a a.width
  let codes := if a.fmt = 3 then (x.scales a).map some else List.replicate (32 * a.groups) none
  ((vals.flatMap fun g => chunks32 32 g).zip codes).flatMap fun r => r.1.map (laneDeq c.fmt r.2)

/-- The ranges of VRED and VSCAN as FP32 or INT32 nodes (R176). -/
def Stall.redRanges (x : Stall) (a : Tile) (all : Bool) : List (List Lane) :=
  let l := (x.elems a).map fun v => if isI a.fmt then ((v, {}) : Lane) else fp32.ofVal .rne ((fmtD a.fmt).decode v)
  if all then [l] else (List.range a.rows).map fun r => (l.drop (256 * r)).take 256

/-- The final rounding of a node to TC's format (R176). -/
def nodeOut (fmt : Nat) (rm : Rm) (v : Lane) : Lane :=
  if isI fmt || fmt = 4 || fmt = 13 then v
  else let r := fpConvert fp32 (fmtD fmt) rm v.1; (r.1, v.2.join r.2)

/-- The elements of TC that a message without side destinations computes, with their flags (R169-R185). -/
def Stall.vecLanes (x : Stall) (m : Msg) : List Lane :=
  let rm := Rm.ofCode m.rm
  let S := fun (n : BitVec 6) => x.srcTile n.toNat
  let D := fun (n : BitVec 6) => x.dstTile n.toNat
  let E := fun (n : BitVec 6) => x.elems (x.srcTile n.toNat)
  let pure_ := fun (l : List Nat) => l.map fun v => ((v, {}) : Lane)
  match m.i with
  | .vrcp _ v => (E v.ta).map fun a => laneRcp (fmtD (D v.tc).fmt) rm ((fmtD (S v.ta).fmt).decode a)
  | .vrsq _ v => (E v.ta).map fun a => laneRsq (fmtD (D v.tc).fmt) rm ((fmtD (S v.ta).fmt).decode a)
  | .vsqrt _ v => (E v.ta).map fun a => fpSqrt (fmtD (D v.tc).fmt) rm ((fmtD (S v.ta).fmt).decode a)
  | .vexp2 _ v => (E v.ta).map fun a => laneExp2 (fmtD (D v.tc).fmt) rm ((fmtD (S v.ta).fmt).decode a)
  | .vlog2 _ v => (E v.ta).map fun a => laneLog2 (fmtD (D v.tc).fmt) rm ((fmtD (S v.ta).fmt).decode a)
  | .vabs _ v => (E v.ta).map fun a => laneE .abs rm (S v.ta).fmt 4 (D v.tc).fmt a 0 0
  | .vneg _ v => (E v.ta).map fun a => laneE .neg rm (S v.ta).fmt 4 (D v.tc).fmt a 0 0
  | .vcvt _ v => (E v.ta).map fun a => laneCvt rm (S v.ta).fmt (D v.tc).fmt a
  | .vdqnt _ v => x.deqOut (S v.ta) (D v.tc)
  | .vscl _ v dv =>
    let bs := x.image (S v.tb)
    (E v.ta).zipIdx.map fun e =>
      laneScl (fmtD (D v.tc).fmt) rm dv ((fmtD (S v.ta).fmt).decode e.1) ((bs.getD (e.2 / 32) 0).toNat)
  | .vred _ v op all =>
    let f := nodeOp op (isI (S v.ta).fmt) rm
    let rs := (x.redRanges (S v.ta) all).map fun l => nodeOut (D v.tc).fmt rm (treeRoot f l.length l)
    fitTo (D v.tc).elems (0, {}) rs
  | .vscan _ v op all =>
    let f := nodeOp op (isI (S v.ta).fmt) rm
    (x.redRanges (S v.ta) all).flatMap fun l => (scanBlock f (clog2 l.length) none l).map (nodeOut (D v.tc).fmt rm)
  | .vbcast _ none tc _ => List.replicate (D tc).elems (m.l.toNat % 2 ^ elemBits (D tc).fmt, {})
  | .vbcast _ (some ta) tc _ => pure_ (x.cast (S ta) (D tc))
  | .vperm _ v =>
    let a := E v.ta
    pure_ ((x.cast (S v.tb) (D v.tc)).zipIdx.map fun e => a.getD (e.2 / 256 * 256 + e.1 % 256) 0)
  | .vsel _ v => zip3 (fun a b c => (if b % 2 = 1 then a else c, {})) (E v.ta) (x.cast (S v.tb) (D v.tc)) (x.elems (D v.tc))
  | .vcmp _ v cc =>
    List.zipWith (fun a b =>
      if isI (S v.ta).fmt then ((laneCmpI cc a b, {}) : Lane)
      else laneCmpF cc ((fmtD (S v.ta).fmt).decode a) ((fmtD (S v.tb).fmt).decode b)) (E v.ta) (x.cast (S v.tb) (D v.tc))
  | .vshl _ v cnt =>
    let ks := match cnt with | .imm n => List.replicate (D v.tc).elems n.toNat | .tile tb => (x.cast (S tb) (D v.tc)).map (· % 32)
    pure_ (List.zipWith (fun a k => a * 2 ^ k % 2 ^ 32) (E v.ta) ks)
  | .vshr _ v cnt ar =>
    let ks := match cnt with | .imm n => List.replicate (D v.tc).elems n.toNat | .tile tb => (x.cast (S tb) (D v.tc)).map (· % 32)
    pure_ (List.zipWith (laneShr ar) (E v.ta) ks)
  | .vpopc _ v => pure_ ((E v.ta).map (popcBits 32))
  | .viota _ tc _ => pure_ (List.range (D tc).elems)
  | .visect _ v =>
    let ps := bitPositions 0 (List.zipWith Nat.land (E v.ta) (E v.tb))
    let n := (D v.tc).elems
    ((fitTo n emptyIx ps).map fun p => ((p, { sat := decide (n < ps.length) }) : Lane))
  | .vpfx _ v rank =>
    let a := E v.ta
    (match rank with
     | none => pure_ (popPrefix 0 a)
     | some tb => (E tb).map fun p =>
         if p = emptyIx then (emptyIx, {})
         else if 32 * a.length ≤ p then (emptyIx, { nv := true })
         else ((popPrefix 0 a).getD (p / 32) 0 + popcBits 32 (a.getD (p / 32) 0 % 2 ^ (p % 32)), {}))
  | .vgat _ v bytes =>
    let pick := fun (l : List Nat) (k : Nat) => if k = emptyIx then ((0, {}) : Lane) else if l.length ≤ k then (0, { nv := true }) else (l.getD k 0, {})
    if bytes then
      let src := (x.image (S v.ta)).map (·.toNat)
      let got := (E v.tb).map (pick src)
      let fl := FlagSet.joinAll (got.map (·.2))
      (splitElems 32 (got.map fun g => BitVec.ofNat 8 g.1)).map fun e => (e, fl)
    else (E v.tb).map (pick (E v.ta))
  | .vsct _ v =>
    let c := x.elems (D v.tc)
    let ix := (E v.ta).zip (E v.tb)
    let fl : FlagSet := { nv := ix.any fun e => e.2 != emptyIx && decide (c.length ≤ e.2) }
    (ix.foldl (fun l e => if e.2 = emptyIx then l else l.set e.2 e.1) c).map fun v => (v, fl)
  | .vdot8 _ v =>
    let row := fun (l : List Byte) (r : Nat) => ((l.drop (1024 * r)).take 1024).map fun b => sext b.toNat 8
    let a := x.image (S v.ta)
    let b := x.image (S v.tb)
    fitTo (D v.tc).elems (0, {}) ((List.range (S v.ta).rows).map fun r => ((wrap 32 (dot (row a r) (row b r)), {}) : Lane))
  | i =>
    match i.elem3?, i.bitwise? with
    | some (op, v), _ => zip3 (fun a b c => laneE op rm (S v.ta).fmt (S v.tb).fmt (D v.tc).fmt a b c) (E v.ta) (x.cast (S v.tb) (D v.tc))
        (if i.merges then x.elems (D v.tc) else List.replicate (D v.tc).elems 0)
    | _, some (f, v) => pure_ (List.zipWith f (E v.ta) (x.cast (S v.tb) (D v.tc)))
    | none, none => []

/-- What each destination will hold, and TC's flags. -/
def Stall.vecOut (x : Stall) (m : Msg) : List (List Byte) × FlagSet :=
  match m.i with
  | .vqnt _ v wm => x.quantOut v wm
  | i =>
    let l := x.vecLanes m
    ([joinElems (elemBits (x.dstTile (i.dstTiles.headD 0)).fmt) (l.map (·.1))], .joinAll (l.map (·.2)))

/-- The cycle count and the cost of each row or group (R168, R173, R174). Where R168 gives a count only for the whole message, its rows
share it evenly (log 105). -/
def Stall.vecCost (x : Stall) (i : Instr) : Nat × List Nat :=
  let n := (x.dstTile (i.dstTiles.headD 0)).rows
  let na := (x.srcTile (i.srcTiles.headD 0)).rows
  let per := fun (k : Nat) => (6 + k * n, List.replicate n k)
  let all := fun (c : Nat) => (6 + c, (List.range n).map fun r => c * (r + 1) / n - c * r / n)
  match i with
  | .vrcp _ _ | .vrsq _ _ | .vdiv _ _ | .vsqrt _ _ | .vexp2 _ _ | .vlog2 _ _ => per 4
  | .vqnt _ v _ =>
    let c := x.dstTile v.tc.toNat
    let g := c.groups
    if c.width ≤ 8 then (6 + 4 * g, List.replicate g 4)
    else (6 + (c.width * g + 1) / 2, (List.range g).map fun k => (c.width * (k + 1) + 1) / 2 - (c.width * k + 1) / 2)
  | .vdqnt _ v =>
    let a := x.srcTile v.ta.toNat
    let cs := (x.widths a).map fun e => max 4 ((min e a.width + 1) / 2)
    (6 + cs.foldl (· + ·) 0, cs)
  | .vred _ _ _ _ => all (na + clog2 (256 * na))
  | .vscan _ _ _ _ => let r := all (2 * n); (r.1 + 8, r.2)
  | .visect _ _ | .vpfx _ _ _ => let r := all (na + n); r
  | .vgat _ v _ => all (4 * (x.srcTile v.tb.toNat).rows)
  | .vsct _ _ => all (4 * na)
  | .vdot8 _ _ => all na
  | _ => per 1

/-! From inbox to completion (R159-R166) -/

/-- The run of a message, from the tiles as they stand at its start (R161). -/
def Stall.vecRun (x : Stall) (m : Msg) : VecRun :=
  let ds := x.vecDsts m.i
  let r := x.vecOut m
  let c := x.vecCost m.i
  { m := m, srcs := (m.i.srcTiles.map x.srcSlot).eraseDups, outs := (ds.map x.dstSlot).zip r.1, start := x.cyc, cycles := c.1, span := c.1,
    costs := c.2, rowsDone := 0,
    flags := (if m.i.merges then (x.dstTile (ds.headD 0)).afl else 0) ||| r.2.afl, retried := 0, abandoned := false }

/-- The oldest message that can start (R160): what its block and the blocks before it wrote has performed (R215). -/
def State.vecPick (s : State) (x : Stall) : Option Msg :=
  x.inVec.find? fun m => x.topsClear m && x.vecReady m.i && (x.vecDsts m.i).all x.dstFree && !mergeFirst x.inVec m && s.behindMsg m.org &&
    x.pagesFor (m.i.srcTiles.map x.srcTile ++ (x.vecLinks m.i).map (·.1) ++ (x.vecDsts m.i).map x.dstTile)

/-- VEC_MESSAGE_START (R159, R160). One bound port named as TA and as TB takes one slot for both (log 107). -/
def execVecMessageStart (st : Nat) (s : State) : Out :=
  .next <|
    let x := s.stallD st
    if !s.stallRuns st || x.vec.isSome || decide (x.cyc < x.vecNext) then s
    else
      match s.vecPick x with
      | none => s
      | some m =>
        if s.traceHolds m.org 3 then s
        else
          let s := s.modStall st fun x => { x with inVec := x.inVec.erase m }
          match x.vecCheck m.i with
          | some cls => s.dropMsg m cls 2
          | none =>
            let r := x.vecRun m
            let s := s.takeFolds m
            (s.modStall st fun x =>
              { (((x.vecLinks m.i).map (·.1)).foldl (·.pin ·) x).take m.i.srcTiles.eraseDups (x.vecDsts m.i) with vec := some r }).engBirty m 3 1 0

/-- The cycle after the one in which the row now running ends. -/
def VecRun.rowEnd (r : VecRun) : Nat := r.start + r.span - (r.costs.drop (r.rowsDone + 1)).foldl (· + ·) 0

/-- VEC_ROW_END (R165, R166): `ok` says whether the residues match. -/
def execVecRowEnd (st : Nat) (ok : Bool) (s : State) : Out :=
  .next <|
    let x := s.stallD st
    match x.vec with
    | none => s
    | some r =>
      if !s.stallRuns st || decide (r.costs.length ≤ r.rowsDone) || decide (x.cyc + 1 < r.rowEnd) then s
      else if r.abandoned then s.vecAbandon st r
      else if ok then (s.modStall st fun x => { x with vec := some { r with rowsDone := r.rowsDone + 1, retried := 0 } }).count st 5
        (match r.m.i with | .vqnt _ _ _ | .vdqnt _ _ => 4 | _ => 1)
      else if 2 ≤ r.retried then (s.vecAbandon st r).arithFail r.m 2
      else s.modStall st fun x => { x with vec := some { r with retried := r.retried + 1, span := r.span + r.costs.getD r.rowsDone 0 } }

/-- A destination is READY with its content (R158, R159). -/
def Stall.vecPut (x : Stall) (r : VecRun) (tc : Nat) (e : Nat × List Byte) : Stall :=
  (x.putTile (x.tileD e.1) 0 e.2).modTile e.1 fun t =>
    { t with st := .ready, afl := if e.1 = tc then r.flags else 0, origin := r.m.arrival }

/-- The message completes: its destinations are READY (R158, R159). -/
def State.vecFinish (s : State) (st : Nat) (r : VecRun) : State :=
  let tc := (r.outs.headD (0, [])).1
  let n := r.spent + ((s.stallD st).cyc + 1 - r.start)
  let s := (s.fillPages st (r.outs.map fun e => (s.stallD st).tileD e.1)).modStall st fun x =>
    let x := r.outs.foldl (fun (x : Stall) e => x.vecPut r tc e) x
    { x.release r.srcs with vec := none, vecNext := x.cyc + 1 }
  s.engBirty r.m 4 1 n

/-- VEC_MESSAGE_COMPLETE (R159, R160), once the pages of its destinations are resident (R455). -/
def execVecMessageComplete (st : Nat) (s : State) : Out :=
  .next <|
    let x := s.stallD st
    match x.vec with
    | none => s
    | some r =>
      if !s.stallRuns st || decide (r.rowsDone < r.costs.length) || decide (x.cyc + 1 < r.start + r.span) ||
          !(r.outs.all fun e => x.pagesIn (x.tileD e.1)) || s.traceHolds r.m.org 4 then s
      else if r.abandoned then s.vecAbandon st r
      else s.vecFinish st r

end Sys2Proof.Machine
end

