-- ==== Sys2Proof/Machine/Card.lean ====
section
/-! DEFINITION. Job cards (R268-R272, R276): their fields, patterns and extents, what each job uses of them, and the checks made of
a card and of the tile it names. -/
namespace Sys2Proof.Machine

def cardWord (c : List W64) (k : Nat) : Nat := (c.getD k 0).toNat
def cRb0 (c : List W64) : Nat := bits (cardWord c 0) 55 0
def cRb1 (c : List W64) : Nat := bits (cardWord c 1) 55 0
def cWb (c : List W64) : Nat := bits (cardWord c 2) 55 0
def cRl0 (c : List W64) : Nat := bits (cardWord c 3) 31 0
def cRl1 (c : List W64) : Nat := bits (cardWord c 3) 63 32
def cWl (c : List W64) : Nat := bits (cardWord c 4) 31 0
def cN0 (c : List W64) : Nat := bits (cardWord c 4) 63 32
def cN1 (c : List W64) : Nat := bits (cardWord c 5) 15 0
def cN2 (c : List W64) : Nat := bits (cardWord c 5) 31 16
def cN3 (c : List W64) : Nat := bits (cardWord c 5) 47 32
def cAcnt (c : List W64) : Nat := bits (cardWord c 5) 63 48
def cS1 (c : List W64) : Int := sext (bits (cardWord c 6) 31 0) 32
def cS2 (c : List W64) : Int := sext (bits (cardWord c 6) 63 32) 32
def cS3 (c : List W64) : Int := sext (bits (cardWord c 7) 31 0) 32
/-- SB of a PLD from a planar source into BSI. -/
def cSb (c : List W64) : Nat := bits (cardWord c 6) 55 0
def cXop (c : List W64) : Nat := bits (cardWord c 7) 39 32
def cXarg (c : List W64) : Nat := bits (cardWord c 7) 44 40
def cTofs (c : List W64) : Nat := bits (cardWord c 7) 63 45

/-! Patterns (R271) -/

def patCount (c : List W64) : Nat := cN0 c * cN1 c * cN2 c * cN3 c

/-- Address of the `k`-th byte of the pattern. -/
def patAddr (c : List W64) (b k : Nat) : Int :=
  let r := k / cN0 c
  (b : Int) + (k % cN0 c : Nat) + (r % cN1 c : Nat) * cS1 c + (r / cN1 c % cN2 c : Nat) * cS2 c +
    (r / (cN1 c * cN2 c) : Nat) * cS3 c

/-- The extent of a pattern: least address, and one above the greatest. -/
def patExtent (c : List W64) (b : Nat) : Int × Int :=
  let d := fun (n : Nat) (st : Int) => ((n : Int) - 1) * st
  let ds := [d (cN1 c) (cS1 c), d (cN2 c) (cS2 c), d (cN3 c) (cS3 c)]
  if patCount c = 0 then (b, b)
  else (ds.foldl (fun a x => a + min x 0) (b : Int), ds.foldl (fun a x => a + max x 0) ((b : Int) + cN0 c))

/-- Runs of contiguous bytes of a pattern between two of its bytes: (address, index of the first byte, length). -/
def patRuns (c : List W64) (b : Nat) : Nat → Nat → Nat → List (Nat × Nat × Nat)
  | 0, _, _ => []
  | fuel + 1, lo, hi =>
    if hi ≤ lo then []
    else
      let take := min (cN0 c - lo % cN0 c) (hi - lo)
      ((patAddr c b lo).toNat, lo, take) :: patRuns c b fuel (lo + take) hi

/-! What each job uses (R270) -/

/-- The jobs that take a card; PLD by its source kind (R288). -/
inductive JobKind where
  | planar (map : Bool)
  | c4 | raw | pst | pcpy | pgat | psct | prdc | pxpd | pcmp | strmIn | strmOut
  deriving DecidableEq, Repr, Inhabited

def jobKind (i : Instr) (c : List W64) : JobKind :=
  match i with
  | .pst _ _ _ _ => .pst
  | .pcpy _ _ => .pcpy
  | .pgat _ _ _ _ => .pgat
  | .psct _ _ _ _ => .psct
  | .prdc _ _ _ _ => .prdc
  | .pxpd _ _ _ _ => .pxpd
  | .pcmp _ _ _ _ => .pcmp
  | .pstrmIn _ _ _ => .strmIn
  | .pstrmOut _ _ _ => .strmOut
  | _ => match cXop c % 4 with | 0 => .planar false | 1 => .planar true | 2 => .c4 | _ => .raw

/-- Card fields beside XOP[7] and ACNT. -/
inductive CardField where
  | rb0 | rl0 | rb1 | rl1 | wb | wl | n0 | n1 | n2 | n3 | s1 | s2 | s3 | tofs | xarg
  deriving DecidableEq, Repr, Inhabited

def fieldValues (c : List W64) : List (CardField × Nat) :=
  [(.rb0, cRb0 c), (.rl0, cRl0 c), (.rb1, cRb1 c), (.rl1, cRl1 c), (.wb, cWb c), (.wl, cWl c), (.n0, cN0 c), (.n1, cN1 c),
   (.n2, cN2 c), (.n3, cN3 c), (.s1, bits (cardWord c 6) 31 0), (.s2, bits (cardWord c 6) 63 32),
   (.s3, bits (cardWord c 7) 31 0), (.tofs, cTofs c), (.xarg, cXarg c)]

def patFields : List CardField := [.n0, .n1, .n2, .n3, .s1, .s2, .s3]

/-- Fields a job uses; `bsi` says that a planar source feeds a BSI tile, whose SB covers S1 and S2. -/
def JobKind.uses (bsi : Bool) : JobKind → List CardField
  | .planar map => [.rb0, .rl0, .n1, .xarg] ++ (if map || bsi then [.rb1, .rl1] else []) ++ (if bsi then [.s1, .s2] else [])
  | .c4 => [.rb0, .rl0, .rb1, .rl1, .n1]
  | .raw => [.rb0, .rl0, .tofs] ++ patFields
  | .pst | .prdc => [.wb, .wl, .tofs] ++ patFields
  | .pcpy => [.rb0, .rl0, .wb, .wl] ++ patFields
  | .pgat => [.rb0, .rl0, .rb1, .rl1, .n0, .n1, .s1, .tofs]
  | .psct => [.wb, .wl, .rb1, .rl1, .n0, .n1, .s1, .tofs]
  | .pxpd => [.rb0, .rl0, .rb1, .rl1, .n1, .tofs]
  | .pcmp => [.wb, .wl, .n1, .tofs]
  | .strmIn => [.rb0, .rl0] ++ patFields
  | .strmOut => [.wb, .wl] ++ patFields

/-- Bits of XOP[6:0] a job uses. -/
def JobKind.xopMask : JobKind → Nat
  | .planar _ | .c4 | .raw => 3
  | .pst => 1
  | .prdc => 7
  | _ => 0

/-- Jobs driven by a pattern (R277). -/
def JobKind.patterned : JobKind → Bool
  | .raw | .pst | .pcpy | .prdc | .strmIn | .strmOut => true
  | _ => false

/-! Checks (R272, R276, R288-R294) -/

/-- The tile a job reads or writes, as it resolves now. -/
def Stall.jobTile (x : Stall) (i : Instr) : Tile :=
  match i.srcTiles, i.dstTiles with
  | t :: _, _ => x.srcTile t
  | [], t :: _ => x.dstTile t
  | [], [] => .reset

/-- Bytes of an element. -/
def Tile.elemBytes (t : Tile) : Nat := elemBits t.fmt / 8

/-- A planar source feeding a BSI tile. -/
def JobKind.bsi (k : JobKind) (t : Tile) : Bool := match k with | .planar _ => !t.lay && t.fmt == 3 | _ => false

def inRegion (lo hi : Int) (r : Nat × Nat) : Bool :=
  decide (hi ≤ lo) || (r.2 != 0 && decide ((r.1 : Int) ≤ lo) && decide (hi ≤ (r.1 : Int) + r.2))

def span (b n : Nat) : Int × Int := (b, (b : Int) + n)

/-- The extents a card fixes, each with its region (R272). -/
def JobKind.extents (k : JobKind) (t : Tile) (c : List W64) : List ((Int × Int) × Nat) :=
  let es := t.elemBytes
  match k with
  | .planar map => [(span (cRb0 c) (128 * t.width * cN1 c), 0)] ++ (if map then [(span (cRb1 c) (cN1 c), 1)] else []) ++
      (if k.bsi t then [(span (cSb c) (32 * cN1 c), 1)] else [])
  | .c4 => [(span (cRb0 c) (512 * cN1 c), 0), (span (cRb1 c) 32, 1)]
  | .raw | .strmIn => [(patExtent c (cRb0 c), 0)]
  | .pcpy => [(patExtent c (cRb0 c), 0), (span (cWb c) (patCount c), 2)]
  | .pst => (patExtent c (cWb c), 2) ::
      (if (cXop c).testBit 0 then [(((cWb c + cWl c : Nat) - 8, (cWb c + cWl c : Nat)), 2)] else [])
  | .prdc => (patExtent c (cWb c), 2) ::
      (if (cXop c).testBit 2 then [(((cWb c + cWl c : Nat) - 8, (cWb c + cWl c : Nat)), 2)] else [])
  | .strmOut => [(patExtent c (cWb c), 2)]
  | .pgat | .psct => [(span (cRb1 c) (4 * cN1 c), 1)]
  | .pxpd => [(span (cRb0 c) (2 * es * cN1 c), 0), (span (cRb1 c) (cN1 c), 1)]
  | .pcmp => [(span (cWb c) (2 * es * cN1 c + cN1 c), 2)]

/-- The extents checked at acceptance: all of them, or those that the card fixes whatever the tile is (R272). -/
def JobKind.extentsAt (k : JobKind) (known : Bool) (t : Tile) (c : List W64) : List ((Int × Int) × Nat) :=
  if known then k.extents t c
  else match k with
    | .planar map => if map then [(span (cRb1 c) (cN1 c), 1)] else []
    | .pxpd => [(span (cRb1 c) (cN1 c), 1)]
    | .pcmp => []
    | _ => k.extents t c

/-- The tile suits the kind of the card (R288). -/
def JobKind.suits (k : JobKind) (t : Tile) : Bool :=
  match k with
  | .planar _ => !t.lay && t.fmt != 2
  | .c4 => !t.lay && t.fmt == 3 && t.sc
  | .raw => t.lay
  | _ => true

/-- Bytes of the primary stream (R274, R277). -/
def JobKind.total (k : JobKind) (t : Tile) (c : List W64) : Nat :=
  match k with
  | .planar _ => 128 * t.width * cN1 c
  | .c4 => 512 * cN1 c
  | .pgat | .psct => cN0 c * cN1 c
  | .pxpd | .pcmp => 4 * t.elemBytes * cN1 c
  | _ => patCount c

/-- Side tiles of a PLD: the map tile and the scale tile, each with the bytes it receives (R288). -/
def JobKind.sides (k : JobKind) (t : Tile) : List (Nat × Nat) :=
  match k with
  | .planar map => (if map && t.wmv then [(t.wml, t.groups)] else []) ++ (if k.bsi t then [(t.scl, 32 * t.groups)] else [])
  | .c4 => [(t.scl, 32 * t.groups)]
  | _ => []

/-- The counts of the card disagree with the tile (subcode 5). -/
def Stall.countsBad (x : Stall) (k : JobKind) (t : Tile) (c : List W64) : Bool :=
  match k with
  | .planar _ | .c4 => cN1 c != t.groups ||
      (k.sides t).any fun d => decide ((x.tileD d.1).bytes < d.2)
  | .pcpy | .strmIn | .strmOut => false
  | _ => decide (t.bytes < cTofs c + k.total t c)

def firstSub (l : List (Bool × Nat)) : Option Nat := (l.find? (·.1)).map (·.2)

/-- A region passes 2^56. -/
def regionsPast (c : List W64) : Bool := [0, 1, 2].any fun k => decide (2 ^ 56 < (cardRegion c k).1 + (cardRegion c k).2)

/-- The checks before the pages are looked at (subcodes 4, 3, 5), in the order of log 43. `known` says that the tile is looked at; without
it only what the card alone fixes is checked (R272, R287). -/
def Stall.cardForm (x : Stall) (known : Bool) (i : Instr) (c : List W64) : Option Nat :=
  let k := jobKind i c
  let t := x.jobTile i
  let used := k.uses (!known || k.bsi t)
  firstSub
    [([0, 1, 2].any (fun n => bits (cardWord c n) 63 56 != 0) || (known && k.bsi t && bits (cardWord c 6) 63 56 != 0) ||
        (cXop c % 128 / (k.xopMask + 1) != 0) || (k == .prdc && 2 ≤ cXop c % 4) ||
        (fieldValues c).any (fun f => f.2 != 0 && !used.contains f.1), 4),
     (regionsPast c, 3),
     (known && !k.suits t, 5),
     ((match k with | .planar _ => cRb0 c % 128 != 0 || (known && decide (t.width ≤ cXarg c)) | _ => false) ||
        (k == .prdc && [cN0 c, cRb0 c, cRb1 c, cWb c, (cS1 c).toNat, (cS2 c).toNat, (cS3 c).toNat,
          (-cS1 c).toNat, (-cS2 c).toNat, (-cS3 c).toNat].any (· % 4 != 0)), 4),
     ((k.extentsAt known t c).any fun e => !inRegion e.1.1 e.1.2 (cardRegion c e.2), 3)]

/-- The checks after the pages: what the card says against the tile (subcode 5). -/
def Stall.cardTile (x : Stall) (i : Instr) (c : List W64) : Option Nat :=
  firstSub [(x.countsBad (jobKind i c) (x.jobTile i) c, 5)]

/-! Pages of a region -/

/-- The first byte of a declared region that lies on a SYNC page (R246, R272). -/
def State.syncAt (s : State) (st ctx : Nat) (c : List W64) : Option Nat :=
  [0, 1, 2].findSome? fun k => ((pagePieces (cardRegion c k).1 (cardRegion c k).2).find? fun p =>
    match s.pagePa st ctx p.1 with | .ok (_, a) => a.sync | .error _ => false).map (·.1)
/-- A declared region touches a SYNC page (R246, R272). -/
def State.syncRegion (s : State) (st ctx : Nat) (c : List W64) : Bool := (s.syncAt st ctx c).isSome

/-- The scratch footprint of a card's regions (R403). -/
def State.scratchOf (s : State) (st ctx : Nat) (c : List W64) : List (Nat × Nat × Nat × Nat) :=
  [0, 1, 2].flatMap fun k => (pagePieces (cardRegion c k).1 (cardRegion c k).2).filterMap fun p =>
    match s.pagePa st ctx p.1 with
    | .ok (pa, a) => if a.scratch then some (bits pa 47 44, bits pa 43 38, bits pa 23 0, bits pa 23 0 + p.2) else none
    | .error _ => none

/-- A footprint meets the range that a pair is removing (R403). -/
def Pair.removing (p : Pair) (f : Nat × Nat × Nat × Nat) : Bool :=
  p.stt != 0 && decide (p.target < p.cur) && f.1 == p.hall && f.2.1 == p.pair &&
    decide (f.2.2.1 < p.cur * 2 ^ 20) && decide (p.target * 2 ^ 20 < f.2.2.2)

end Sys2Proof.Machine
end

