-- ==== Sys2Proof/Machine/TileOps.lean ====
section
/-! DEFINITION. Tile instructions (10_tiles_porter.md R280-R286): their checks when they execute, tile-table operations as they apply
in stall order (R262, R265-R267), and the refill of tile pages (R455). -/
namespace Sys2Proof.Machine

/-- A bound port, or a slot of a bound ring (R280, R285). -/
def Stall.ringTile (x : Stall) (t : Nat) : Bool := x.bound t || x.inRing t

/-- Elements of a WORD tile, bytes of a PLANAR one (R284, R285). -/
def Tile.count (t : Tile) : Nat := if t.lay then t.elems else t.bytes

/-- TDEF (R280). -/
def execTdef (h : Hd) (tc : BitVec 6) (s : State) : Out :=
  s.runWord h fun c =>
    let x := s.stallD c.f.stall
    let bad := (Tile.ofDef c.l.toNat (bits c.r.toNat 19 0)).defFault x.roles
    s.sendAt c (.tdef h tc) (bad.orElse fun _ => firstBad [(x.ringTile tc.toNat, .tileFormat)]) false true

/-- TSTATE: the descriptor once the frame's earlier work on the tile is complete (R281). -/
def execTstate (h : Hd) (ta : BitVec 6) (hi : Bool) (s : State) : Out :=
  s.runWord h fun c =>
    let x := s.stallD c.f.stall
    if x.frameWork c.f.fid ta.toNat then s.waitOn c (.tileDone ta.toNat)
    else
      let d := (x.tileD ta.toNat).pack
      s.deliver c h (BitVec.ofNat 64 (if hi then d / 2 ^ 64 else d))

/-- TTEST: in a DET launch it waits for READY (R281). -/
def execTtest (h : Hd) (ta : BitVec 6) (s : State) : Out :=
  s.runWord h fun c =>
    let x := s.stallD c.f.stall
    if x.frameTops c.f.fid ta.toNat then s.waitOn c (.tops ta.toNat)
    else
      let t := x.srcTile ta.toNat
      if t.st == .ready then s.deliverFrom c h 1 t.origin
      else if c.f.det then s.waitOn c (.tile ta.toNat)
      else s.deliver c h 0

/-- TFREE (R282). -/
def execTfree (h : Hd) (ta : BitVec 6) (s : State) : Out := s.runWord h fun c => s.sendAt c (.tfree h ta) none false true

/-- TGET (R284): its read of the tile folds AFL as it executes. -/
def execTget (h : Hd) (ta : BitVec 6) (nb : Bool) (s : State) : Out :=
  s.runWord h fun c =>
    let x := s.stallD c.f.stall
    if x.frameTops c.f.fid ta.toNat then s.waitOn c (.tops ta.toNat)
    else if x.bound ta.toNat then s.faultAt c { cls := .tileFormat }
    else
      let t := x.tileD ta.toNat
      if t.st != .ready then (if nb then s.faultAt c { cls := .tileNotReady } else s.waitOn c (.tile ta.toNat))
      else
        match x.placeFault t with
        | some k => s.faultAt c { cls := k }
        | none =>
          if t.count ≤ c.l.toNat then s.faultAt c { cls := .tileRange }
          else if !x.pagesIn t then s.waitOn c (.page ta.toNat)
          else
            let v := if t.lay then x.elem t c.l.toNat else ofBytes (x.tileBytes t c.l.toNat 1)
            let s := s.modStall c.f.stall fun x => x.pin t
            (s.modBlock c.b.bid fun b => { b with effs := b.effs ++ [(c.slot, .tgetFold t.afl)] }).deliverFrom c h
              (BitVec.ofNat 64 v) t.origin

/-- TSET.e (R285). -/
def execTsetE (h : Hd) (tc : BitVec 6) (s : State) : Out :=
  s.runWord h fun c =>
    let x := s.stallD c.f.stall
    let t := x.tileD tc.toNat
    s.sendAt c (.tsetE h tc)
      ((firstBad [(x.ringTile tc.toNat, .tileFormat)]).orElse fun _ => (x.placeFault t).orElse fun _ =>
        firstBad [(decide (t.count ≤ c.l.toNat), .tileRange)]) false true

/-- TSET.lnk (R285). -/
def execTsetLnk (h : Hd) (tc : BitVec 6) (s : State) : Out :=
  s.runWord h fun c => s.sendAt c (.tsetLnk h tc) (firstBad [((s.stallD c.f.stall).ringTile tc.toNat, .tileFormat)]) false true

/-- TSET.exp (R285). -/
def execTsetExp (h : Hd) (tc : BitVec 6) (s : State) : Out :=
  s.runWord h fun c => s.sendAt c (.tsetExp h tc) (firstBad [((s.stallD c.f.stall).ringTile tc.toNat, .tileFormat)]) false true

/-- What the slots of one ring must share (R265). -/
def Tile.ringForm (t : Tile) : Bool × Nat × Nat × Nat × Bool × Nat × Bool × Nat :=
  (t.lay, t.fmt, t.wid, t.shape, t.sc, t.scl, t.wmv, t.wml)

/-- A binding breaks R265, or the port is none (R286). -/
def Stall.ringBad (x : Stall) (first port n : Nat) : Bool :=
  if port < 56 then true
  else if n = 0 then false
  else
    let slots := (List.range (n + 1)).map (first + ·)
    x.bound port || slots.any fun t => decide (56 ≤ t) || (x.tileD t).st != .empty || x.inRing t ||
      (x.tileD t).ringForm != (x.tileD first).ringForm

/-- TRING (R286): `n` is the count less 1, 0 to unbind. -/
def execTring (h : Hd) (ta tc : BitVec 6) (n : BitVec 4) (s : State) : Out :=
  s.runWord h fun c =>
    s.sendAt c (.tring h ta tc n)
      (firstBad [((s.stallD c.f.stall).ringBad ta.toNat tc.toNat n.toNat, .tileFormat)]) false true

/-! Application (R262) -/

/-- Every message, job and operation before this one that shares a tile with it is complete (R262). -/
def Stall.opClear (x : Stall) (m : Msg) : Bool := !x.allWork.any fun w => w.before m && x.meets w m

/-- A job bound to a port streams through it (R294). -/
def Stall.streaming (x : Stall) (p : Nat) : Bool := x.jobs.any fun (j : Job) => j.port == some p

/-- The state the operation waits for (R267, R282, R285). -/
def Stall.opState (x : Stall) (i : Instr) : Bool :=
  match i with
  | .tfree _ ta => !x.bound ta.toNat || (x.srcTile ta.toNat).st == .ready
  | .tsetE _ tc => (x.tileD tc.toNat).st == .ready && !x.held tc.toNat && x.pagesIn (x.tileD tc.toNat)
  | .tsetExp _ tc => (x.tileD tc.toNat).st == .empty
  | .tring _ _ tc n => n != 0 || (((x.slotsOf tc.toNat).all fun t => (x.tileD t).st == .empty) && !x.streaming tc.toNat)
  | _ => true

/-- Writes an element of a WORD tile, or a byte of a PLANAR one. -/
def Stall.putElem (x : Stall) (t : Tile) (i v : Nat) : Stall :=
  let x := x.pin t
  if !t.lay then x.putTile t i [BitVec.ofNat 8 v]
  else if elemBits t.fmt = 4 then
    let b := ((x.tileBytes t (i / 2) 1).headD 0).toNat
    x.putTile t (i / 2) [BitVec.ofNat 8 (if i % 2 = 1 then b % 16 + v % 16 * 16 else b / 16 * 16 + v % 16)]
  else x.putTile t (i * (elemBits t.fmt / 8)) (bytesLE v (elemBits t.fmt / 8))

/-- Applies TDEF: every field anew, the rows as they are (R280). -/
def applyTdef (m : Msg) (x : Stall) (tc : Nat) : Stall := x.modTile tc fun _ => Tile.ofDef m.l.toNat (bits m.r.toNat 19 0)

/-- Applies TFREE: a tile is emptied, or one ring slot is drained unread (R282). -/
def applyTfree (x : Stall) (ta : Nat) : Stall :=
  if x.bound ta then
    (x.modTile (x.srcSlot ta) Tile.emptied).modTile ta fun p => { p with rdrain := ringNext p.rdrain p.rcnt }
  else x.modTile ta fun t => { t with st := .empty, arr := 0, afl := 0, sides := [] }

/-- Binds or unbinds a ring (R265, R267). -/
def applyTring (x : Stall) (ta tc n : Nat) : Stall :=
  x.modTile tc fun p => { p with rslot := if n = 0 then 0 else ta, rcnt := n, rfill := 0, rdrain := 0 }

/-- What an operation does to the tile table; the class of a breach met as it applies drops it (R265, R285). -/
def Stall.applyOp (x : Stall) (m : Msg) : Except Cls Stall :=
  match m.i with
  | .tdef _ tc => .ok (applyTdef m x tc.toNat)
  | .tfree _ ta => .ok (applyTfree x ta.toNat)
  | .tsetE _ tc =>
    let t := x.tileD tc.toNat
    (match x.placeFault t with
     | some k => .error k
     | none => if t.count ≤ m.l.toNat then .error .tileRange else .ok (x.putElem t m.l.toNat m.r.toNat))
  | .tsetLnk _ tc => .ok (x.modTile tc.toNat fun t =>
      { t with wml := bits m.l.toNat 5 0, wmv := m.l.getLsbD 6, scl := bits m.l.toNat 13 8, sc := m.l.getLsbD 14 })
  | .tsetExp _ tc => .ok (x.modTile tc.toNat fun t => { t with exp := bits m.l.toNat 19 0 })
  | .tring _ ta tc n => if x.ringBad ta.toNat tc.toNat n.toNat then .error .tileFormat else .ok (applyTring x ta.toNat tc.toNat n.toNat)
  | _ => .ok x

/-- TILE_TABLE_OP_APPLY (R215, R262): the `k`-th waiting operation of a stall; its folds take the old AFL first (R280, R282). -/
def execTileTableOpApply (st k : Nat) (s : State) : Out :=
  .next <|
    let x := s.stallD st
    match x.tops[k]? with
    | none => s
    | some m =>
      if !s.stallRuns st || !x.opClear m || !x.opState m.i || !s.behindMsg m.org then s
      else
        let s := s.takeFolds m
        match x.applyOp m with
        | .ok y => s.modStall st fun _ => { y with tops := y.tops.eraseIdx k }
        | .error cls => (s.modStall st fun x => { x with tops := x.tops.eraseIdx k }).engReport m cls 0

/-! Tile pages (R455) -/

/-- Work that reads or writes a tile page: its message goes, and its destinations with it (R456). -/
def Stall.touches (x : Stall) (page : Nat) (m : Msg) : Bool :=
  ((m.i.srcTiles.map x.srcTile) ++ (m.i.dstTiles.map x.dstTile) ++ (x.linksOf m.i).map x.tileD).any fun t => (x.pagesOf t).contains page

/-- A sector of a backing's page is lost (R455, R456). -/
def State.backingLost (s : State) (st page : Nat) : Bool :=
  match (s.stallD st).owner.bind s.ctx? with
  | some c => (List.range 33).any fun k =>
    match s.walkVa c.num (c.backingVa st + page * 4096 + min (128 * k) 4095) with | .ok l => s.readLost l.pa | .error _ => false
  | none => false

/-- TILE_PAGE_REFILL (R455): the page is read from its backing and pinned. With `err`, or over a lost sector, the backing held
uncorrectable data: the messages and jobs that would read it are abandoned as by reclamation, each with a report, a kept message whose result waits for it
too; an instruction that waits for it faults its block (R456). -/
def execTilePageRefill (st page : Nat) (err : Bool) (s : State) : Out :=
  .next <|
    let x := s.stallD st
    if !s.stallRuns st || decide (128 ≤ page) || x.resident.getD page true then s
    else
      if !err && !s.backingLost st page then s.fillPage st page
      else
        let p := fun (m : Msg) => x.touches page m
        let s := s.modStall st fun x =>
          { x with inPa := x.inPa.filter fun m => !p m, inVec := x.inVec.filter fun m => !p m, inSpe := x.inSpe.filter fun m => !p m }
        let s := (x.inPa.filter p).foldl (fun s m => s.dropMsg m .dataError 1) s
        let s := (x.inVec.filter p).foldl (fun s m => s.dropMsg m .dataError 2) s
        let s := (x.inSpe.filter p).foldl (fun s m => s.dropMsg m .dataError 3) s
        let s := match x.pa with
          | some r => if (x.pagesOf (x.tileD r.tc)).contains page then (s.paAbandon st r r.chunk).engReport r.m .dataError 1 else s
          | none => s
        let s := match x.vec with
          | some r => if r.outs.any fun e => (x.pagesOf (x.tileD e.1)).contains page then (s.vecAbandon st r).engReport r.m .dataError 2 else s
          | none => s
        let s := s.abandonPorter st p
        let s := ((x.inPor ++ x.jobs.map (·.m)).filter p).foldl (fun s m => s.engReport m .dataError 4) s
        let hit := fun (b : Block) => b.waits.find? fun w => match w.2 with | .page t => (x.pagesOf (x.tileD t)).contains page | _ => false
        (s.mappedOn st).foldl (fun s b => match hit b with | some w => s.blockFault b.bid w.1 { cls := .dataError } | none => s) s

end Sys2Proof.Machine
end

