-- ==== Sys2Proof/Machine/Porter.lean ====
section
/-! DEFINITION. Porter jobs outside their rounds (10_tiles_porter.md): execution (R268, R283, R287-R295), acceptance (R229, R268-R276),
barriers (R295), start (R229, R262, R264, R273, R274), rejection and abandonment (R275, R276), and completion with its action (R274,
R277); the starts and ends of XSEND and XRECV too (R316, R318). -/
namespace Sys2Proof

/-- CPL of a porter job (R279). -/
def Instr.cpl : Instr → Nat
  | .pld _ _ _ c | .pst _ _ _ c | .pgat _ _ _ c | .psct _ _ _ c | .prdc _ _ _ c | .pxpd _ _ _ c | .pcmp _ _ _ c => c.toNat
  | .pcpy _ c | .pstrmIn _ _ c | .pstrmOut _ _ c => c.toNat
  | _ => 0

/-- The port of a PSTRM (R294). -/
def Instr.port? : Instr → Option Nat
  | .pstrmIn _ tc _ | .pstrmOut _ tc _ => some tc.toNat
  | _ => none

/-- Fill jobs that join other fills of a FILLING tile (R274, R283, R318). -/
def Instr.joins : Instr → Bool
  | .pld _ _ _ _ | .pgat _ _ _ _ | .pxpd _ _ _ _ => true
  | _ => false

def Instr.isXrecv : Instr → Bool
  | .xrecv _ _ _ => true
  | _ => false

end Sys2Proof
namespace Sys2Proof.Machine

/-! Execution (R268, R287) -/

/-- The card address is a multiple of 64 below 2^56 (R268); the tile checks follow, and the states under NB. -/
def State.cardAt (s : State) (c : Cx) (i : Instr) (bad : Option Cls) (nb ready : Bool) : State :=
  if c.l.toNat % 64 != 0 || decide (2 ^ 56 ≤ c.l.toNat) then s.faultAt c { cls := .address, va := some (c.l.toNat % 2 ^ 56) }
  else s.sendAt c i bad nb ready

/-- A fill may begin on a destination: EMPTY, or FILLING by fill jobs and multicasts only (R274). -/
def Stall.fillReady (x : Stall) (t : Nat) : Bool :=
  let d := x.dstSlot t
  (x.tileD d).st == .empty ||
    (!x.bound t && (x.tileD d).st == .filling && !x.engineWrites d)

def execTzero (h : Hd) (tc : BitVec 6) (nb : Bool) (s : State) : Out :=
  s.runWord h fun c =>
    let x := s.stallD c.f.stall
    s.sendAt c (.tzero h tc nb) ((firstBad [(x.bound tc.toNat, .tileFormat)]).orElse fun _ => x.placeFault (x.tileD tc.toNat)) nb
      (x.dstReady tc.toNat false)

/-- What TCOPY's tiles must share (R283), and XRECV's with its message (R318). -/
def Tile.copyForm (t : Tile) : Bool × Nat × Nat × Nat × Bool := (t.lay, t.fmt, t.wid, t.shape, t.sc)

/-- TCOPY's checks; its tiles may not overlap without being one (R34 leaves overlapping tiles to the program). -/
def execTcopy (h : Hd) (ta tc : BitVec 6) (nb : Bool) (s : State) : Out :=
  s.runWord h fun c =>
    let x := s.stallD c.f.stall
    s.sendAt c (.tcopy h ta tc nb)
      ((firstBad [(x.bound ta.toNat || x.bound tc.toNat || (x.tileD ta.toNat).copyForm != (x.tileD tc.toNat).copyForm, .tileFormat)]).orElse
        fun _ => x.placeFaults [x.tileD ta.toNat, x.tileD tc.toNat]) nb (x.srcsReady [ta.toNat] && x.dstReady tc.toNat false)

/-- PLD (R288). -/
def execPld (h : Hd) (tc : BitVec 6) (nb : Bool) (cpl : BitVec 2) (s : State) : Out :=
  s.runWord h fun c =>
    let x := s.stallD c.f.stall
    let t := x.dstTile tc.toNat
    s.cardAt c (.pld h tc nb cpl)
      ((firstBad [(!t.lay && t.fmt == 2, .tileFormat), (!t.lay && t.fmt == 3 && !t.sc, .scaleMismatch)]).orElse fun _ => x.placeFault t)
      nb (x.fillReady tc.toNat)

/-- PST (R289). -/
def execPst (h : Hd) (ta : BitVec 6) (nb : Bool) (cpl : BitVec 2) (s : State) : Out :=
  s.runWord h fun c =>
    let x := s.stallD c.f.stall
    s.cardAt c (.pst h ta nb cpl) (x.placeFault (x.srcTile ta.toNat)) nb (x.srcsReady [ta.toNat])

/-- PCPY (R290). -/
def execPcpy (h : Hd) (cpl : BitVec 2) (s : State) : Out := s.runWord h fun c => s.cardAt c (.pcpy h cpl) none false true

/-- PGAT (R291). -/
def execPgat (h : Hd) (tc : BitVec 6) (nb : Bool) (cpl : BitVec 2) (s : State) : Out :=
  s.runWord h fun c =>
    let x := s.stallD c.f.stall
    s.cardAt c (.pgat h tc nb cpl) (x.placeFault (x.dstTile tc.toNat)) nb (x.fillReady tc.toNat)

/-- PSCT (R291). -/
def execPsct (h : Hd) (ta : BitVec 6) (nb : Bool) (cpl : BitVec 2) (s : State) : Out :=
  s.runWord h fun c =>
    let x := s.stallD c.f.stall
    s.cardAt c (.psct h ta nb cpl) (x.placeFault (x.srcTile ta.toNat)) nb (x.srcsReady [ta.toNat])

/-- PRDC (R292). -/
def execPrdc (h : Hd) (ta : BitVec 6) (nb : Bool) (cpl : BitVec 2) (s : State) : Out :=
  s.runWord h fun c =>
    let x := s.stallD c.f.stall
    let t := x.srcTile ta.toNat
    s.cardAt c (.prdc h ta nb cpl)
      ((firstBad [(!t.lay || (t.fmt != 4 && t.fmt != 11), .tileFormat)]).orElse fun _ => x.placeFault t) nb (x.srcsReady [ta.toNat])

/-- Formats of PXPD and PCMP (R293). -/
def Tile.packs (t : Tile) : Bool := t.lay && t.fmt != 9 && t.fmt != 12

/-- PXPD (R293). -/
def execPxpd (h : Hd) (tc : BitVec 6) (nb : Bool) (cpl : BitVec 2) (s : State) : Out :=
  s.runWord h fun c =>
    let x := s.stallD c.f.stall
    s.cardAt c (.pxpd h tc nb cpl)
      ((firstBad [(!(x.dstTile tc.toNat).packs, .tileFormat)]).orElse fun _ => x.placeFault (x.dstTile tc.toNat)) nb (x.fillReady tc.toNat)

/-- PCMP (R293). -/
def execPcmp (h : Hd) (ta : BitVec 6) (nb : Bool) (cpl : BitVec 2) (s : State) : Out :=
  s.runWord h fun c =>
    let x := s.stallD c.f.stall
    s.cardAt c (.pcmp h ta nb cpl)
      ((firstBad [(!(x.srcTile ta.toNat).packs, .tileFormat)]).orElse fun _ => x.placeFault (x.srcTile ta.toNat)) nb
      (x.srcsReady [ta.toNat])

/-- A tile that can never be a stream port (R265, R294; log 109). -/
def noPort (tc : BitVec 6) : Option Cls := firstBad [(decide (tc.toNat < 56), .tileFormat)]

/-- PSTRM.in (R294): its job waits for a ring on the port. -/
def execPstrmIn (h : Hd) (tc : BitVec 6) (cpl : BitVec 2) (s : State) : Out :=
  s.runWord h fun c => s.cardAt c (.pstrmIn h tc cpl) (noPort tc) false true

/-- PSTRM.out (R294): its job waits for a ring on the port. -/
def execPstrmOut (h : Hd) (tc : BitVec 6) (cpl : BitVec 2) (s : State) : Out :=
  s.runWord h fun c => s.cardAt c (.pstrmOut h tc cpl) (noPort tc) false true

/-- PBAR (R295). -/
def execPbar (h : Hd) (tile : Option (BitVec 6)) (s : State) : Out :=
  s.runWord h fun c => s.sendAt c (.pbar h tile) none false true

/-! Rejection -/

/-- An entry that never starts is rejected: its folds contribute nothing, its levels count down (R106, R275, R276). -/
def State.rejectMsg (s : State) (m : Msg) (i : FaultInfo) : State :=
  (((s.dropFolds m).report m.org { i with eng := 4 }).jobBirty m 2 0).countDown m.org true

/-- JOB_FAULT with its subcode: the address is the card's, or for a region on a SYNC page the one refused (R246, R276). -/
def State.rejectCard (s : State) (m : Msg) (sub : Nat) (card : List W64) : State :=
  s.rejectMsg m { cls := .jobFault, extra := BitVec.ofNat 64 sub,
                  va := some (if sub = 2 then (s.syncAt m.org.stall m.org.ctx card).getD m.l.toNat else m.l.toNat) }

/-! Acceptance (R268, R273) -/

/-- The heat a job works by: heat 0 with XOP.BASE (R272). -/
def cardHeat (m : Msg) (c : List W64) : Nat := if (cXop c).testBit 7 then 0 else m.org.heat

/-- The card as one 64-byte read finds it (R268). -/
def State.readCard (s : State) (m : Msg) : Option (Acc × List W64) :=
  let va := m.l.toNat
  match s.pagePa m.org.stall m.org.ctx va with
  | .error _ => none
  | .ok (pa, a) =>
    let acc : Acc := ⟨m.org.ctx, m.org.heat, va, 64, locsFrom va pa 64 a.heatpriv⟩
    if (s.pageCheck ⟨true, false, false, false, false⟩ pa a).isSome || s.accLost acc true then none
    else some (acc, (pieces 8 8 (s.rdAcc acc)).map fun w => BitVec.ofNat 64 (ofBytes w))

/-- Footprint entries of a hall (R229). -/
def State.footprints (s : State) (hall : Nat) : Nat :=
  (s.stalls.filter fun e => hallOfStall e.1 == hall).foldl
    (fun n e => n + (e.2.jobs.filter fun (j : Job) => !j.card.isEmpty && j.st != .held && j.foot).length) 0

/-- The subcode that rejects a card, if any (R276); the tile is looked at once no tile-table operation before the job remains (log 48),
and what the card alone fixes at acceptance in any case (R272, R287). -/
def State.cardReject (s : State) (m : Msg) (card : List W64) : Option Nat :=
  let x := s.stallD m.org.stall
  let sync := firstSub [(s.syncRegion m.org.stall m.org.ctx card, 2)]
  (x.cardForm (x.topsClear m) m.i card).orElse fun _ => sync.orElse fun _ => if x.topsClear m then x.cardTile m.i card else none

/-- A job as acceptance makes it (R273). -/
def Job.made (id no : Nat) (m : Msg) (card : List W64) (st : JobSt) (scratch : List (Nat × Nat × Nat × Nat)) : Job :=
  { id := id, m := m, st := st, card := card, heat := if card.isEmpty then 0 else cardHeat m card, pos := 0, total := 0, aux := [],
    round := none, dests := [], srcs := [], port := none, rd := 0, wr := 0, start := 0, flags := 0, reclaimed := false, acceptNo := no,
    scratch := scratch, settled := false, remote := none, foot := true }

/-- A card has been read and found good: the job is accepted, or held where a pair removes scratch it would touch (R273, R403). -/
def State.acceptJob (s : State) (st : Nat) (m : Msg) (card : List W64) : State :=
  let sc := s.scratchOf st m.org.ctx card
  let held := s.pairs.any fun p => sc.any p.removing
  let no := s.pkg.acceptNo + 1
  let j := Job.made s.nextId no m card (if held then .held else .accepted) sc
  let s := { s with nextId := s.nextId + 1, pkg := { s.pkg with acceptNo := no } }
  let s := s.modStall st fun x => { x with jobs := x.jobs ++ [j] }
  s.jobBirty m 0 0

/-- PORTER_JOB_ACCEPT (R229, R268, R273, R295): the first entry with a card, or a barrier. -/
def execPorterJobAccept (st : Nat) (s : State) : Out :=
  .next <|
    let x := s.stallD st
    if !s.stallRuns st then s
    else
      match x.inPor.find? fun m => m.i.hasCard || m.i.isBar with
      | none => s
      | some m =>
        let out := fun (x : Stall) => { x with inPor := x.inPor.erase m }
        if m.i.isBar then s.modStall st fun x => { out x with bars := x.bars ++ [m] }.tidyBars
        else if !s.behindMsg m.org || decide (4096 ≤ s.footprints (hallOfStall st)) || s.traceHolds m.org 5 then s
        else
          let s := s.modStall st out
          match s.readCard m with
          | none => s.rejectCard m 1 []
          | some (a, card) =>
            let s := ((s.translated st m.org.ctx m.l.toNat).accessDone st a false).served st m.org.ctx [a.pa] false
            match s.cardReject m card with
            | some sub => s.rejectCard m sub card
            | none => s.acceptJob st m card

/-! Start -/

/-- Two regions share a sector (R229). -/
def regionsMeet (a b : Nat × Nat) : Bool :=
  a.2 != 0 && b.2 != 0 && decide (a.1 / 128 ≤ (b.1 + b.2 - 1) / 128) && decide (b.1 / 128 ≤ (a.1 + a.2 - 1) / 128)

/-- Two cards conflict: a shared sector with a write region among the two (R229). -/
def cardsConflict (a b : List W64) : Bool :=
  let r := cardRegion
  ([0, 1, 2].any fun k => regionsMeet (r a 2) (r b k)) || [0, 1].any fun k => regionsMeet (r b 2) (r a k)

/-- No earlier accepted job of the context in the hall conflicts (R229). -/
def State.footClear (s : State) (j : Job) : Bool :=
  !s.stalls.any fun e => hallOfStall e.1 == hallOfStall j.m.org.stall &&
    e.2.jobs.any fun (k : Job) => k.m.org.ctx == j.m.org.ctx && k.acceptNo < j.acceptNo && !k.card.isEmpty && k.st != .held && k.foot &&
      cardsConflict j.card k.card

/-- A barrier before a job, with work before the barrier that it covers (R295). -/
def Stall.barred (x : Stall) (m : Msg) : Bool :=
  let covers := fun (b w : Msg) => b.i.dstTiles.isEmpty || (b.i.dstTiles.any fun t => (x.names w).contains t)
  (x.bars ++ x.inPor.filter (·.i.isBar)).any fun b => b.before m && covers b m &&
    (x.jobs.map (·.m) ++ x.inPor.filter fun w => !w.i.isBar).any fun w => w.before b && covers b w

/-- The key of a message an XRECV of a part asks for (R315). -/
def Inst.part? (n : Inst) (hall : Nat) : Option Nat := if n.parts.contains hall then some (n.parts.idxOf hall) else none
def State.xrecvKey (s : State) (m : Msg) : Option (Nat × Nat × Nat × Nat × Nat) :=
  match m.org.inst.bind s.inst? with
  | none => none
  | some n => (n.part? (hallOfStall m.org.stall)).map fun b =>
      (n.iid, b, bits m.l.toNat 3 0, bits m.l.toNat 15 8, bits m.l.toNat 31 16)
/-- The message present for an XRECV (R317, R318). -/
def State.xrecvFind (s : State) (m : Msg) : Option RemoteTile :=
  (s.xrecvKey m).bind fun k => (s.hallD (hallOfStall m.org.stall)).xstore.find? fun t => t.key == k

/-- The states of the tile rule for a job's start (R264, R274, R283, R294, R316, R318). -/
def State.tilesReady (s : State) (x : Stall) (m : Msg) (sides : List Nat) : Bool :=
  match m.i with
  | .pstrmIn _ tc _ | .pstrmOut _ tc _ => x.bound tc.toNat && !x.streaming tc.toNat
  | .xrecv _ tc _ => x.dstReady tc.toNat false && (s.xrecvFind m).isSome
  | i => x.srcsReady i.srcTiles && (i.dstTiles.all fun t => if i.joins then x.fillReady t else x.dstReady t false) &&
      sides.all fun t => (x.tileD t).st == .empty

def State.jobSides (s : State) (st : Nat) (m : Msg) (card : List W64) : List Nat :=
  let x := s.stallD st
  if card.isEmpty then [] else ((jobKind m.i card).sides (x.jobTile m.i)).map (·.1)

/-- A job may start (R229, R262, R264, R273, R295); one without a card only once what its block and the blocks before it wrote has
performed (R215), as acceptance waits for with a card. -/
def State.mayStart (s : State) (st : Nat) (m : Msg) (j : Option Job) : Bool :=
  let x := s.stallD st
  let card := (j.map (·.card)).getD []
  x.topsClear m && !x.barred m && (match j with | some j => s.footClear j | none => true) &&
    (m.i.hasCard || s.behindMsg m.org) &&
    (s.tilesReady x m (s.jobSides st m card) || (match j with | some j => (s.cardReject m j.card).isSome | none => false)) &&
    x.pagesFor (m.i.srcTiles.map x.srcTile ++ m.i.dstTiles.map x.dstTile ++ (s.jobSides st m card).map x.tileD)

/-- Jobs and entries that have not started. -/
def Stall.startable (x : Stall) : List (Msg × Option Job) :=
  (x.jobs.filter fun (j : Job) => j.st == .accepted).map (fun (j : Job) => (j.m, some j)) ++
    (x.inPor.filter fun m => !m.i.hasCard && !m.i.isBar).map fun m => (m, none)

/-- The oldest that may start (R273). -/
def State.startPick (s : State) (st : Nat) : Option (Msg × Option Job) :=
  let l := (s.stallD st).startable.filter fun e => s.mayStart st e.1 e.2
  l.find? fun a => !l.any fun b => b.1.before a.1

/-- The job takes its tiles (R261, R264, R266, R288). -/
def State.startJob (s : State) (st : Nat) (j : Job) : State :=
  let x := s.stallD st
  let card := j.card
  let t := x.jobTile j.m.i
  let kind := jobKind j.m.i card
  let sides := s.jobSides st j.m card
  let stream := j.m.i.port?
  let srcs := if stream.isSome then [] else j.m.i.srcTiles
  let dsts := if stream.isSome then [] else j.m.i.dstTiles
  let j := { j with st := .running, start := x.cyc, port := stream, srcs := srcs.map x.srcSlot, dests := dsts.map x.dstSlot ++ sides,
                    total := if card.isEmpty then 0 else kind.total t card,
                    remote := if j.m.i.isXrecv then s.xrecvFind j.m else none }
  let s := s.takeFolds j.m
  let s := s.modStall st fun x =>
    let y := x.take srcs (dsts ++ sides)
    let y := (dsts.map x.dstSlot).foldl (fun (y : Stall) d => y.modTile d fun t => { t with sides := (t.sides ++ sides).eraseDups }) y
    { y with jobs := y.jobs.filter (·.id != j.id) ++ [j], inPor := y.inPor.erase j.m }
  match j.remote with
  | some r => s.modHall (hallOfStall st) fun h => { h with xstore := h.xstore.erase r, xtaken := r.key :: h.xtaken }
  | none => s

/-- XRECV's tile differs from its message (R318). -/
def State.xrecvBad (s : State) (x : Stall) (m : Msg) : Bool :=
  match m.i, s.xrecvFind m with
  | .xrecv _ tc _, some r => (x.tileD tc.toNat).copyForm != (r.lay, r.fmt, r.wid.toNat, r.shape.toNat, r.sc)
  | _, _ => false

/-- Every tile a card's job works on: its own, the slots of its ring, its side tiles. -/
def Stall.jobTiles (x : Stall) (i : Instr) (card : List W64) : List Tile :=
  i.dstTiles.map x.dstTile ++ i.srcTiles.map x.srcTile ++ (i.port?.toList.flatMap x.slotsOf).map x.tileD ++
    ((jobKind i card).sides (x.jobTile i)).map fun d => x.tileD d.1

/-- PORTER_JOB_START (R32, R273): what fails a check now is rejected (R276, R318). -/
def execPorterJobStart (st : Nat) (s : State) : Out :=
  .next <|
    let x := s.stallD st
    if !s.stallRuns st || decide (4 ≤ (x.jobs.filter fun (j : Job) => j.st == .running || j.st == .paused).length) then s
    else
      match s.startPick st with
      | none => s
      | some (m, none) =>
        if s.xrecvBad x m then (s.modStall st fun x => { x with inPor := x.inPor.erase m }.tidyBars).rejectMsg m { cls := .tileFormat }
        else if (x.placeFaults (m.i.dstTiles.map x.dstTile ++ m.i.srcTiles.map x.srcTile)).isSome then
          (s.modStall st fun x => { x with inPor := x.inPor.erase m }.tidyBars).rejectMsg m
            { cls := (x.placeFaults (m.i.dstTiles.map x.dstTile ++ m.i.srcTiles.map x.srcTile)).getD 0 }
        else ({ s with nextId := s.nextId + 1 }).startJob st (Job.made s.nextId 0 m [] .accepted [])
      | some (m, some j) =>
        match s.cardReject m j.card with
        | some sub => (s.dropJob st j).rejectCard m sub j.card
        | none =>
          match x.placeFaults (x.jobTiles m.i j.card) with
          | some cls => (s.dropJob st j).rejectMsg m { cls := cls }
          | none => s.startJob st j

/-! Abandonment by an error (R275) -/

/-- DATA_ERROR, SCRATCH_ABSENT, HEAT_ARENA_FULL and JOB_FAULT 6 abandon a job. -/
def State.failJob (s : State) (st : Nat) (j : Job) (i : FaultInfo) : State :=
  (s.abandonJob st j.id 3).report j.m.org { i with eng := 4, heat := some j.heat }

/-! Completion (R274, R277) -/

/-- A fill job other than `id` still works on a tile. -/
def Stall.filledBy (x : Stall) (id t : Nat) : Bool := x.jobs.any fun (j : Job) => j.id != id && !j.settled && j.dests.contains t

/-- A tile becomes READY with its side tiles (R274, R288). -/
def Stall.makeReady (x : Stall) (t : Nat) (a : Arrival) : Stall :=
  let sides := (x.tileD t).sides
  (t :: sides).foldl (fun (x : Stall) d => x.modTile d fun y => { y with st := .ready, sides := [], origin := a }) x

/-- The job's own tile after its last round (R274). -/
def Stall.settleFill (x : Stall) (j : Job) (t : Nat) : Stall :=
  let y := x.tileD t
  if y.st == .filling && !x.filledBy j.id t && (decide (y.exp ≤ y.arr) || decide (j.total = 0)) then x.makeReady t j.m.arrival else x

/-- What a job without rounds writes as it ends: zeros, a copy, a remote image (R283, R318). -/
def Stall.localWrite (x : Stall) (j : Job) : Stall :=
  let d := j.dests.headD 0
  let t := x.tileD d
  match j.m.i with
  | .tzero _ _ _ => (x.putTile t 0 (List.replicate t.bytes 0)).modTile d fun t => { t with arr := t.bytes }
  | .tcopy _ _ _ _ =>
    let a := x.tileD (j.srcs.headD 0)
    (x.putTile t 0 (x.image a)).modTile d fun t => { t with arr := t.bytes, afl := a.afl }
  | .xrecv _ _ _ =>
    (match j.remote with
     | some r => (x.putTile t 0 r.image).modTile d fun t => { t with arr := t.bytes, afl := r.afl }
     | none => x)
  | _ => x

/-- Destinations become READY where they may, sources are released, and the job holds no tile any more (R261, R266, R273, R274). -/
def Stall.settleJob (x : Stall) (j : Job) : Stall :=
  let x := { x with jobs := x.jobs.map fun (k : Job) => if k.id == j.id then { k with settled := true, dests := [], srcs := [] } else k }
  let x := x.localWrite j
  let x := match j.m.i with
    | .tzero _ _ _ | .tcopy _ _ _ _ | .xrecv _ _ _ =>
      (j.dests.take 1).foldl (fun (x : Stall) t => if x.filledBy j.id t then x else x.makeReady t j.m.arrival) x
    | _ => (j.dests.take 1).foldl (fun (x : Stall) t => x.settleFill j t) x
  x.release j.srcs

/-- An XSEND's message leaves for its part (R316, R323). -/
def State.sendRemote (s : State) (j : Job) : State :=
  match j.m.i, j.m.org.inst.bind s.inst? with
  | .xsend _ _ _, some n =>
    let x := s.stallD j.m.org.stall
    let t := x.tileD (j.srcs.headD 0)
    let k := j.m.l.toNat
    let dst := bits k 3 0
    let r : RemoteTile :=
      { inst := n.iid, dst := dst, src := (n.part? (hallOfStall j.m.org.stall)).getD 0, chan := bits k 15 8, sqn := bits k 31 16,
        lay := t.lay, fmt := t.fmt, wid := BitVec.ofNat 4 t.wid, shape := BitVec.ofNat 12 t.shape, sc := t.sc, afl := t.afl,
        image := x.image t }
    if 4 ≤ n.parts.getD dst 0 then s.ueSend (.tile r) else s.ship j.m.org 0 (.xmsg r)
  | _, _ => s

/-- An XSEND to another package: it leaves once some port carries traffic (R323). -/
def State.farXsend (s : State) (j : Job) : Bool :=
  match j.m.i, j.m.org.inst.bind s.inst? with
  | .xsend _ _ _, some n => decide (4 ≤ n.parts.getD (bits j.m.l.toNat 3 0) 0)
  | _, _ => false

/-- Lowers a launch's gate; at 0 its gated frames stand in the call room (R361). -/
def State.gateDown (s : State) (ctx slot : Nat) : State :=
  let s := s.modLaunch ctx slot fun l => { l with gate := l.gate - 1, gated := decide (1 < l.gate) }
  match s.launch? ctx slot with
  | some l =>
    if l.gate = 0 then
      { s with frames := s.frames.map fun (f : Frame) =>
          if f.ctx == ctx && f.launch == some slot && f.place == .gated then { f with place := .callroom, since := (s.stallD f.stall).cyc } else f }
    else s
  | none => s

/-- The arrival of a `.arr` completion: the checks of HD.ARR, reported by the porter (R256, R277). -/
def State.arriveFor (s : State) (j : Job) : State :=
  let o := j.m.org
  let va := j.m.r.toNat
  let bad := fun (c : Cls) => s.report o { cls := c, va := some (va % 2 ^ 56), heat := some j.heat, eng := 4, wr := true }
  if va % 16 != 0 || decide (2 ^ 56 ≤ va) then bad .address
  else
    match s.pagePa o.stall o.ctx va with
    | .error c => bad c
    | .ok (pa, a) =>
      match s.pageCheck (⟨true, true, true, false, false⟩ : Need) pa a with
      | some c => bad c
      | none =>
        let acc : Acc := ⟨o.ctx, o.heat, va, 16, locsFrom va pa 16 false⟩
        (((s.translated o.stall o.ctx va).ship o (msqOf o.bsq 31) (.hurdle acc 1 (BitVec.ofNat 32 (max (cAcnt j.card) 1)) true))).accessDone
          o.stall acc true

/-- The completion action (R277); none while a `.snd` waits for a credit. -/
def State.jobAction (s : State) (j : Job) : Option State :=
  let o := j.m.org
  match j.m.i.cpl with
  | 1 => some (s.arriveFor j)
  | 2 =>
    (match s.sendTarget o.ctx o.inst o.heat o.keep j.m.r.toNat with
     | .bad c => some (s.report o { cls := c, eng := 4 })
     | .ingress idx => some <| s.sendGrant o.ctx o.heat (s.grantOf o.ctx idx) [] j.m.r (BitVec.ofNat 64 j.wr)
     | .node i n k tag =>
       if s.credits i n k = 0 then none else some (s.sendTok o i n k tag (BitVec.ofNat 64 j.wr)))
  | 3 =>
    let slot := j.m.r.toNat % 256
    (match s.launch? o.ctx slot with
     | some l => if l.gate = 0 then some (s.report o { cls := .launchState, eng := 4 }) else some (s.gateDown o.ctx slot)
     | none => some (s.report o { cls := .launchState, eng := 4 }))
  | _ => some s

/-- The job has nothing left to do: its rounds are done, or its time has passed (R274, R277, R283). -/
def Stall.jobDone (x : Stall) (j : Job) : Bool :=
  j.st == .running && j.round.isNone && j.pos == j.total && x.pagesFor ((j.dests ++ j.srcs).map x.tileD) &&
    (j.settled || match j.m.i with
     | .tzero _ _ _ | .tcopy _ _ _ _ => decide (j.start + 4 + ((x.tileD (j.dests.headD 0)).bytes + 255) / 256 ≤ x.cyc + 1)
     | _ => true)

/-- PORTER_JOB_COMPLETE (R274, R277, R283, R316, R318). -/
def execPorterJobComplete (st id : Nat) (s : State) : Out :=
  .next <|
    let x := s.stallD st
    match x.jobs.find? fun (j : Job) => j.id == id with
    | none => s
    | some j =>
      if !s.stallRuns st || !x.jobDone j || s.traceHolds j.m.org 5 || (!j.settled && s.farXsend j && !s.ueUp) then s
      else
        let s := if j.settled then s else (s.sendRemote j).modStall st fun x => x.settleJob j
        match s.jobAction j with
        | none => s
        | some s => ((s.jobBirty j.m 1 (j.rd + j.wr)).dropJob st j).countDown j.m.org true

end Sys2Proof.Machine
end

