-- ==== Sys2Proof/Machine/Round.lean ====
section
/-! DEFINITION. Rounds of porter jobs (R274, R288-R294): what each reads and will write, the faults that pause or abandon a job (R275),
and the writes that a round performs when it completes (R231). -/
namespace Sys2Proof.Machine

/-- What stops a round. -/
structure Stop where
  cls : Cls
  va  : Nat
  wr  : Bool
  sub : Nat
  deriving DecidableEq, Repr, Inhabited

/-- Translation and permission faults pause the job; others abandon it (R275). -/
def Stop.pauses (e : Stop) : Bool := [Cls.pageAbsent, Cls.pteInvalid, Cls.permission, Cls.syncMisuse].contains e.cls

/-- A round as it is built. -/
structure Build where
  writes : List JobWrite := []
  rd : Nat := 0
  spans : List (Acc × Bool) := []
  aux : List Byte := []
  deriving Repr, Inhabited

abbrev RoundM := Except Stop

/-! Memory -/

/-- Checks and translates a run of bytes within a page. -/
def State.jobAcc (s : State) (j : Job) (r w : Bool) (p : Nat × Nat) : RoundM Acc :=
  match s.pagePa j.m.org.stall j.m.org.ctx p.1 with
  | .error c => .error ⟨c, p.1, w, 0⟩
  | .ok (pa, a) =>
    match s.pageCheck ⟨r, w, false, false, false⟩ pa a with
    | some c => .error ⟨c, p.1, w, 0⟩
    | none =>
      let acc : Acc := ⟨j.m.org.ctx, j.heat, p.1, p.2, locsFrom p.1 pa p.2 a.heatpriv⟩
      if s.accLost acc r then .error ⟨.dataError, p.1, w, 0⟩ else .ok acc

/-- Reads bytes from a VA on. -/
def State.jobRead (s : State) (j : Job) (b : Build) (va n : Nat) : RoundM (Build × List Byte) :=
  (pagePieces va n).foldlM (fun (e : Build × List Byte) p =>
    match s.jobAcc j true false p with
    | .error x => .error x
    | .ok a => .ok ({ e.1 with rd := e.1.rd + p.2, spans := e.1.spans ++ [(a, false)] }, e.2 ++ s.rdAcc a)) (b, [])

/-- Plans a write of bytes from a VA on. -/
def State.jobPut (s : State) (j : Job) (b : Build) (va : Nat) (bs : List Byte) : RoundM Build :=
  (pagePieces va bs.length).foldlM (fun (b : Build) p =>
    match s.jobAcc j false true p with
    | .error x => .error x
    | .ok a => .ok { b with writes := b.writes ++ [.mem a ((bs.drop (p.1 - va)).take p.2)], spans := b.spans ++ [(a, true)] }) b

/-- Reads the bytes of a pattern between two of its bytes, in order. -/
def State.patRead (s : State) (j : Job) (b : Build) (base lo hi : Nat) : RoundM (Build × List Byte) :=
  (patRuns j.card base (hi - lo + 1) lo hi).foldlM (fun (e : Build × List Byte) r =>
    match s.jobRead j e.1 r.1 r.2.2 with
    | .error x => .error x
    | .ok (b, bs) => .ok (b, e.2 ++ bs)) (b, [])

/-- Plans writes to the pattern between two of its bytes. -/
def State.patPut (s : State) (j : Job) (b : Build) (base lo hi : Nat) (bs : List Byte) : RoundM Build :=
  (patRuns j.card base (hi - lo + 1) lo hi).foldlM (fun (b : Build) r => s.jobPut j b r.1 ((bs.drop (r.2.1 - lo)).take r.2.2)) b

def Build.add (b : Build) (w : List JobWrite) : Build := { b with writes := b.writes ++ w }

/-! The rounds of each job, for the bytes `lo` to `hi` of the stream -/

/-- A plane row that PLD fetches: planes from XARG to the group's effective width (R288). -/
def planeFetched (c : List W64) (w : Nat) (map : Bool) (aux : List Byte) (r : Nat) : Bool :=
  let ew := if map then ((aux.getD (r / w) 0).toNat % 32) else w
  decide (cXarg c ≤ r % w) && decide (r % w < min ew w)

/-- PLD from a planar tensor (R288): plane rows of the tile, fetched or zero; the first round brings the map and the scale bytes. -/
def State.roundPlanar (s : State) (x : Stall) (j : Job) (map : Bool) (lo hi : Nat) : RoundM Build := do
  let c := j.card
  let d := j.dests.headD 0
  let t := x.tileD d
  let w := t.width
  let (b, aux) ← if lo = 0 && map then s.jobRead j {} (cRb1 c) t.groups else .ok ({}, j.aux)
  let b := if lo = 0 && map && t.wmv then b.add [.tile t.wml 0 aux] else b
  let b ← if lo = 0 && t.fmt = 3 then (do
      let (b, sc) ← s.jobRead j b (cSb c) (32 * t.groups)
      .ok (b.add [.tile t.scl 0 sc])) else .ok b
  let rows := (List.range ((hi - lo) / 128)).map (lo / 128 + ·)
  let b ← rows.foldlM (fun (b : Build) r => do
    if planeFetched c w map aux r then do
      let (b, bs) ← s.jobRead j b (cRb0 c + 128 * r) 128
      .ok (b.add [.tile d (128 * r) bs])
    else .ok (b.add [.tile d (128 * r) (List.replicate 128 0)])) b
  .ok { b with aux := aux }

/-- PLD from C4 (R97, R288): whole groups; the first round brings the table, the scale bytes and the flags. -/
def State.roundC4 (s : State) (x : Stall) (j : Job) (lo hi : Nat) : RoundM Build := do
  let c := j.card
  let d := j.dests.headD 0
  let t := x.tileD d
  let (b, aux) ← if lo = 0 then s.jobRead j {} (cRb1 c) 32 else .ok ({}, j.aux)
  let tab := c4Table t.width aux
  let b := if lo = 0 then
      b.add [.tile t.scl 0 (List.replicate (32 * t.groups) (BitVec.ofNat 8 tab.1)), .afl d tab.2.2.afl] else b
  let (b, codes) ← s.jobRead j b (cRb0 c + lo) (hi - lo)
  let groups := pieces 512 ((hi - lo) / 512) codes
  let ws := groups.zipIdx.map fun e =>
    JobWrite.tile d (128 * t.width * (lo / 512 + e.2))
      ((toPlanes t.width ((splitElems 4 e.1).map fun k => tab.2.1.getD k 0)).flatten)
  .ok { b.add ws with aux := aux }

/-- The elements that bytes `lo` to `hi` of PGAT's or PSCT's stream fall in: (element, first byte in it, stream byte, count). -/
def elemRuns (n0 : Nat) : Nat → Nat → Nat → List (Nat × Nat × Nat × Nat)
  | 0, _, _ => []
  | fuel + 1, lo, hi =>
    if hi ≤ lo then []
    else
      let take := min (n0 - lo % n0) (hi - lo)
      (lo / n0, lo % n0, lo, take) :: elemRuns n0 fuel (lo + take) hi

/-- The first byte that index `x` names, none outside its region (R291). -/
def indexBase (c : List W64) (base : Nat) (region x : Nat) : Option Nat :=
  let a : Int := (base : Int) + (x : Int) * cS1 c
  if inRegion a (a + cN0 c) (cardRegion c region) then some a.toNat else none

/-- PGAT (R291). -/
def State.roundGather (s : State) (j : Job) (lo hi : Nat) : RoundM Build :=
  let c := j.card
  let d := j.dests.headD 0
  (elemRuns (cN0 c) (hi - lo + 1) lo hi).foldlM (fun (b : Build) e => do
    let (b, ix) ← s.jobRead j b (cRb1 c + 4 * e.1) 4
    let v := ofBytes ix
    if v = 0xFFFFFFFF then .ok (b.add [.tile d (cTofs c + e.2.2.1) (List.replicate e.2.2.2 0)])
    else
      match indexBase c (cRb0 c) 0 v with
      | none => .error ⟨.jobFault, 0, false, 6⟩
      | some a => do
        let (b, bs) ← s.jobRead j b (a + e.2.1) e.2.2.2
        .ok (b.add [.tile d (cTofs c + e.2.2.1) bs])) {}

/-- PSCT (R291). -/
def State.roundScatter (s : State) (x : Stall) (j : Job) (lo hi : Nat) : RoundM Build :=
  let c := j.card
  let t := x.tileD (j.srcs.headD 0)
  (elemRuns (cN0 c) (hi - lo + 1) lo hi).foldlM (fun (b : Build) e => do
    let (b, ix) ← s.jobRead j b (cRb1 c + 4 * e.1) 4
    let v := ofBytes ix
    if v = 0xFFFFFFFF then .ok b
    else
      match indexBase c (cWb c) 2 v with
      | none => .error ⟨.jobFault, 0, true, 6⟩
      | some a => s.jobPut j b (a + e.2.1) (x.tileBytes t (cTofs c + e.2.2.1) e.2.2.2)) {}

/-- PRDC (R292): one update for each 4 bytes, and with XOP[2] the flags word last. -/
def State.roundReduce (s : State) (x : Stall) (j : Job) (lo hi : Nat) : RoundM Build := do
  let c := j.card
  let t := x.tileD (j.srcs.headD 0)
  let upd ← ((List.range ((hi - lo) / 4)).map (lo / 4 + ·)).foldlM (fun (b : Build) k =>
    let va := (patAddr c (cWb c) (4 * k)).toNat
    match s.jobAcc j true true (va, 4) with
    | .error e => .error e
    | .ok a =>
      .ok ({ b with spans := b.spans ++ [(a, true)] }.add
        [JobWrite.rmw a (cXop c % 4) (t.fmt = 4) (BitVec.ofNat 32 (ofBytes (x.tileBytes t (cTofs c + 4 * k) 4)))])) {}
  if hi = j.total && (cXop c).testBit 2 then
    (pagePieces (cWb c + cWl c - 8) 8).foldlM (fun (b : Build) p =>
      match s.jobAcc j false true p with
      | .error e => .error e
      | .ok a => .ok ({ b with spans := b.spans ++ [(a, true)] }.add [.word a t.afl])) upd
  else .ok upd

/-- One group of PXPD: its dense elements, none where the indices do not rise (R293). -/
def expandGroup (es : Nat) (packed : List Byte) (meta_ : Nat) : Option (List Byte) :=
  let i0 := meta_ % 4
  let i1 := meta_ / 4 % 4
  if i1 ≤ i0 then none
  else some ((List.range 4).flatMap fun k =>
    if k = i0 then packed.take es else if k = i1 then packed.drop es else List.replicate es 0)

/-- PXPD (R293). -/
def State.roundExpand (s : State) (x : Stall) (j : Job) (lo hi : Nat) : RoundM Build := do
  let c := j.card
  let d := j.dests.headD 0
  let es := (x.tileD d).elemBytes
  let g0 := lo / (4 * es)
  let n := (hi - lo) / (4 * es)
  let (b, packed) ← s.jobRead j {} (cRb0 c + 2 * es * g0) (2 * es * n)
  let (b, meta_) ← s.jobRead j b (cRb1 c + g0) n
  let outs := ((pieces (2 * es) n packed).zip meta_).map fun e => expandGroup es e.1 e.2.toNat
  let b := b.add [.tile d (cTofs c + lo) (outs.flatMap fun o => o.getD (List.replicate (4 * es) 0))]
  .ok (if outs.any (·.isNone) then b.add [.afl d ({ nv := true } : FlagSet).afl] else b)

/-- The magnitude that PCMP orders by: NaN above every number, −0 equal to +0, an SP32 pattern by its value (R101, R293); formats other
than these are integers. -/
def magKey (fmt v : Nat) : Dy × Bool :=
  match fmtOf fmt with
  | some f =>
    (match f.decode v with
     | .nan _ => (⟨2, 4096⟩, true)
     | .inf _ => (⟨1, 4096⟩, false)
     | .fin _ m k => (dyOf false m k, false))
  | none =>
    if fmt = 10 then let a := sp32Val v; (dyOf false a.1 a.2, false) else (⟨if fmt = 11 then (sext v 32).natAbs else v, 0⟩, false)

/-- The two elements a group keeps, lower index first (R293). -/
def keepTwo (fmt : Nat) (g : List Nat) : Nat × Nat :=
  let key := fun (k : Nat) => (magKey fmt (g.getD k 0)).1
  let best := fun (l : List Nat) => l.foldl (fun a k => if (key a).lt (key k) then k else a) (l.headD 0)
  let a := best [0, 1, 2, 3]
  let b := best ([0, 1, 2, 3].filter (· != a))
  (min a b, max a b)

/-- PCMP (R293): the kept elements, and in the last round the metadata bytes of every group. -/
def State.roundCompress (s : State) (x : Stall) (j : Job) (lo hi : Nat) : RoundM Build := do
  let c := j.card
  let t := x.tileD (j.srcs.headD 0)
  let es := t.elemBytes
  let groups := fun (lo hi : Nat) => pieces (4 * es) ((hi - lo) / (4 * es)) (x.tileBytes t (cTofs c + lo) (hi - lo))
  let kept := fun (g : List Byte) => keepTwo t.fmt (splitElems (8 * es) g)
  let out := (groups lo hi).flatMap fun g => ((g.drop (es * (kept g).1)).take es) ++ ((g.drop (es * (kept g).2)).take es)
  let b ← s.jobPut j {} (cWb c + lo / 2) out
  if hi = j.total then
    s.jobPut j b (cWb c + 2 * es * cN1 c) ((groups 0 hi).map fun g => BitVec.ofNat 8 ((kept g).1 + 4 * (kept g).2))
  else .ok b

/-! Ring slots of a PSTRM (R266, R294) -/

/-- Takes up to `n` slots of a port that stand ready for it: EMPTY ones to fill, READY ones to drain. -/
def Stall.openSlots (fill : Bool) (p : Nat) : Nat → Stall → List Nat × Stall
  | 0, x => ([], x)
  | n + 1, x =>
    let d := if fill then x.dstSlot p else x.srcSlot p
    let t := x.tileD d
    if t.st == (if fill then .empty else .ready) && x.pagesIn t then
      let r := Stall.openSlots fill p n (if fill then (x.pin t).takeDst p else (x.pin t).takeSrc p)
      (d :: r.1, r.2)
    else ([], x)

/-- Bytes of one slot. -/
def Stall.slotBytes (x : Stall) (p : Nat) : Nat := (x.fieldTile p).bytes

/-- The end of the next round of a PSTRM with its slots, in order, and the stall with the new ones taken; none while no slot stands
ready for the first byte. -/
def Stall.streamRound (x : Stall) (j : Job) (p : Nat) : Option (Nat × List Nat × Stall) :=
  let fill := match j.m.i with | .pstrmIn _ _ _ => true | _ => false
  let z := x.slotBytes p
  let open_ := if j.pos % z = 0 then [] else (if fill then j.dests else j.srcs).take 1
  let hi := min j.total (j.pos + 4096)
  let want := (hi + z - 1) / z - (j.pos + z - 1) / z
  let r := Stall.openSlots fill p want x
  let have_ := ((j.pos + z - 1) / z + r.1.length) * z
  let hi := min hi have_
  if hi ≤ j.pos then none else some (hi, open_ ++ r.1, r.2)

/-- The pieces of stream bytes `lo` to `hi` in slots of `z` bytes: (slot, offset in it, index of the first byte from `lo`, count). -/
def slotPieces (z lo hi : Nat) : List Nat → Nat → List (Nat × Nat × Nat × Nat)
  | [], _ => []
  | d :: ds, at_ =>
    if hi ≤ at_ then []
    else
      let take := min (z - at_ % z) (hi - at_)
      (d, at_ % z, at_ - lo, take) :: slotPieces z lo hi ds (at_ + take)

/-- PSTRM.in (R294). -/
def State.roundIn (s : State) (j : Job) (z lo hi : Nat) (slots : List Nat) : RoundM Build := do
  let (b, bs) ← s.patRead j {} (cRb0 j.card) lo hi
  let b := b.add ((slotPieces z lo hi slots lo).map fun p => .tile p.1 p.2.1 ((bs.drop p.2.2.1).take p.2.2.2))
  .ok (if hi = j.total && hi % z != 0 then
      b.add [.tile ((slots.getLast?).getD 0) (hi % z) (List.replicate (z - hi % z) 0)] else b)

/-- PSTRM.out (R294). -/
def State.roundOut (s : State) (x : Stall) (j : Job) (z lo hi : Nat) (slots : List Nat) : RoundM Build :=
  s.patPut j {} (cWb j.card) lo hi ((slotPieces z lo hi slots lo).flatMap fun p => x.tileBytes (x.tileD p.1) p.2.1 p.2.2.2)

/-! Starting a round -/

/-- PST (R289). -/
def State.roundStore (s : State) (x : Stall) (j : Job) (lo hi : Nat) : RoundM Build := do
  let c := j.card
  let t := x.tileD (j.srcs.headD 0)
  let b ← s.patPut j {} (cWb c) lo hi (x.tileBytes t (cTofs c + lo) (hi - lo))
  if hi = j.total && (cXop c).testBit 0 then s.jobPut j b (cWb c + cWl c - 8) (bytesLE t.afl.toNat 8) else .ok b

/-- A round of any job but a PSTRM. -/
def State.roundOf (s : State) (x : Stall) (j : Job) (lo hi : Nat) : RoundM Build :=
  let c := j.card
  match jobKind j.m.i c with
  | .planar map => s.roundPlanar x j map lo hi
  | .c4 => s.roundC4 x j lo hi
  | .raw => do
    let (b, bs) ← s.patRead j {} (cRb0 c) lo hi
    .ok (b.add [.tile (j.dests.headD 0) (cTofs c + lo) bs])
  | .pst => s.roundStore x j lo hi
  | .pcpy => do
    let (b, bs) ← s.patRead j {} (cRb0 c) lo hi
    s.jobPut j b (cWb c + lo) bs
  | .pgat => s.roundGather j lo hi
  | .psct => s.roundScatter x j lo hi
  | .prdc => s.roundReduce x j lo hi
  | .pxpd => s.roundExpand x j lo hi
  | .pcmp => s.roundCompress x j lo hi
  | .strmIn | .strmOut => .ok {}

def JobWrite.acc? : JobWrite → Option Acc
  | .mem a _ | .rmw a _ _ _ | .word a _ => some a
  | _ => none

/-- Takes the arena slots that a round's writes need; the VA of the first that finds none (R85, R272). -/
def State.reserveAll (s : State) (j : Job) : List Acc → Except Nat State
  | [] => .ok s
  | a :: l => if s.arenaFree a.ctx < (s.needSlots j.id a).length then .error a.va else (s.reserve j.id a).reserveAll j l

/-- Puts a changed job back. -/
def Stall.putJob (x : Stall) (j : Job) : Stall := { x with jobs := x.jobs.map fun (k : Job) => if k.id == j.id then j else k }

/-- A round that cannot run: the job is paused, with a record that the handler answers, or it is abandoned (R275). -/
def State.stopRound (s : State) (st : Nat) (j : Job) (e : Stop) : State :=
  if e.pauses then
    let s := s.modStall st fun x => x.putJob { j with st := .paused, round := none }
    let s := s.jobBirty j.m 4 (j.rd + j.wr)
    s.enterRec (.make j.m.org
      { cls := e.cls, va := e.va, heat := some j.heat, extra := (Config.jobHandle j.id).setWidth 64, eng := 4, wr := e.wr } none true
      (some (st, j.id)))
  else s.failJob st j { cls := e.cls, va := e.va, extra := BitVec.ofNat 64 e.sub, wr := e.wr }

/-- A round is in progress: its slots are the job's, its arena slots are taken. -/
def State.beginRound (s : State) (st : Nat) (j : Job) (hi : Nat) (slots : List Nat) (y : Stall) (r : RoundM Build) : State :=
  match r with
  | .error e => s.stopRound st j e
  | .ok b =>
    match s.reserveAll j (b.writes.filterMap (·.acc?)) with
    | .error va => s.failJob st j { cls := .heatArenaFull, va := va, wr := true }
    | .ok s =>
      let fill := match j.m.i with | .pstrmIn _ _ _ => true | _ => false
      let j := if j.port.isNone then j
        else if fill then { j with dests := (slots.filter fun d => !j.dests.contains d).reverse ++ j.dests }
        else { j with srcs := j.srcs ++ slots.filter fun d => !j.srcs.contains d }
      let s := s.modStall st fun _ => { y with turn := j.id }.putJob { j with round := some ⟨b.writes, b.rd, hi, b.spans, b.aux, slots⟩ }
      b.spans.foldl (fun s p => s.translated st j.m.org.ctx p.1.va) s

/-- Jobs that could begin a round now. -/
def Stall.roundable (x : Stall) (j : Job) : Bool :=
  j.st == .running && j.round.isNone && j.pos < j.total &&
    (match j.port with | some p => (x.streamRound j p).isSome | none => true)
/-- The job accepted first. -/
def firstJob : List Job → Option Job
  | [] => none
  | j :: l => match firstJob l with | some k => if k.id < j.id then some k else some j | none => some j
/-- The round-robin choice in the order of acceptance: the next after the job whose round began last, or the first (R273; log 111). -/
def Stall.roundPick (x : Stall) : Option Job :=
  let l := x.jobs.filter x.roundable
  (firstJob (l.filter fun (j : Job) => decide (x.turn < j.id))).orElse fun _ => firstJob l

/-- Where a round of plane rows ends: with 32 fetched rows, 4 KiB, and the rows written as zero among and after them (R274, R288). -/
def planesEnd (fetched : Nat → Bool) : Nat → Nat → Nat → Nat
  | 0, r, _ => r
  | n + 1, r, left =>
    if !fetched r then planesEnd fetched n (r + 1) left else if left = 0 then r else planesEnd fetched n (r + 1) (left - 1)

/-- The end of a job's next round (R274): the map that a planar job's first round brings is looked at for it. -/
def State.roundEnd (s : State) (x : Stall) (j : Job) : Nat :=
  match jobKind j.m.i j.card with
  | .planar map =>
    let t := x.tileD (j.dests.headD 0)
    let aux := if j.pos = 0 && map then (match s.jobRead j {} (cRb1 j.card) t.groups with | .ok b => b.2 | .error _ => []) else j.aux
    128 * planesEnd (planeFetched j.card t.width map aux) (j.total / 128 - j.pos / 128) (j.pos / 128) 32
  | _ => min j.total (j.pos + 4096)

/-- PORTER_ROUND_START (R273, R274), once the pages of the job's tiles are resident (R455). -/
def execPorterRoundStart (st id : Nat) (s : State) : Out :=
  .next <|
    let x := s.stallD st
    match x.roundPick with
    | none => s
    | some j =>
      if !s.stallRuns st || j.id != id || !x.pagesFor ((j.dests ++ j.srcs).map x.tileD) then s
      else
        match j.port with
        | none =>
          let hi := s.roundEnd x j
          s.beginRound st j hi [] x (s.roundOf x j j.pos hi)
        | some p =>
          match x.streamRound j p with
          | none => s
          | some (hi, slots, y) =>
            let z := x.slotBytes p
            s.beginRound st j hi slots y
              (match j.m.i with | .pstrmIn _ _ _ => s.roundIn j z j.pos hi slots | _ => s.roundOut x j z j.pos hi slots)

/-! The end of a round -/

/-- The new value and flags of a PRDC update (R292). -/
def reduceOp (op : Nat) (fp : Bool) (rm : Rm) (old x : Nat) : Nat × FlagSet :=
  if fp then (if op = 0 then fpAdd fp32 rm (fp32.decode old) (fp32.decode x) else fpMinMax fp32 true old x)
  else if op = 0 then ((old + x) % 2 ^ 32, {})
  else (if sext old 32 < sext x 32 then x else old, {})

/-- Performs one write of a round for its job. -/
def State.jobPerform (st : Nat) (s : State) (j : Job) (w : JobWrite) : State × Job :=
  match w with
  | .mem a bs => (s.performWrite j.id a bs, { j with wr := j.wr + bs.length })
  | .rmw a op fp x =>
    let r := reduceOp op fp (.ofCode j.m.rm) (ofBytes (s.rdAcc a)) x.toNat
    (s.performWrite j.id a (bytesLE r.1 4), { j with wr := j.wr + 4, flags := j.flags ||| r.2.afl })
  | .word a fl =>
    -- bytes of the flags word by their place in it
    let v := bytesLE (fl ||| j.flags).toNat 8
    let o := (a.va - (cWb j.card + cWl j.card - 8))
    (s.performWrite j.id a ((v.drop o).take a.size), { j with wr := j.wr + a.size })
  | .tile t o bs =>
    (s.modStall st fun x => (x.putTile (x.tileD t) o bs).modTile t fun y => { y with arr := (y.arr + bs.length) % 2 ^ 20 },
     { j with wr := j.wr + bs.length })
  | .afl t fl => (s.modStall st fun x => x.modTile t fun y => { y with afl := y.afl ||| fl }, j)

/-- Slots that a PSTRM's round finishes: filled ones are READY, drained ones EMPTY (R294). -/
def Stall.finishSlots (x : Stall) (j : Job) (r : Round) : Stall × Job :=
  match j.port with
  | none => (x, j)
  | some p =>
    let z := x.slotBytes p
    let whole := decide (r.next = j.total) || r.next % z == 0
    let fin := if whole then r.slots else r.slots.dropLast
    match j.m.i with
    | .pstrmIn _ _ _ =>
      (fin.foldl (fun (x : Stall) d => x.makeReady d j.m.arrival) x, { j with dests := j.dests.filter fun d => !fin.contains d })
    | _ => (x.release fin, { j with srcs := j.srcs.filter fun d => !fin.contains d })

/-- The round's writes are performed and its job goes on after it (R231, R274). -/
def State.endRound (s : State) (st : Nat) (j : Job) (r : Round) : State :=
  let wr0 := j.wr
  let (s, j) := r.writes.foldl (fun (e : State × Job) w => State.jobPerform st e.1 e.2 w) (s, j)
  let s := (s.count st 7 r.rd).count st 8 (j.wr - wr0)
  let s := r.spans.foldl (fun s p => (s.accessDone st p.1 p.2).served st j.m.org.ctx (p.1.locs.map (·.pa)) p.2) s
  let j := { j with rd := j.rd + r.rd, pos := r.next, round := none, aux := r.aux }
  let s := s.modStall st fun x => let y := x.finishSlots j r; y.1.putJob y.2
  s.modCtx j.m.org.ctx fun c => { c with reserved := c.reserved.filter fun e => e.1 != j.id }

/-- The first access of a round, as a location. -/
def Round.loc (r : Round) : BLoc := ((r.spans.head?).bind fun p => p.1.locs.head?).getD default

/-- A voided round of PSTRM.out gives back the slots it took: they are READY and RDRAIN is as before (R294). -/
def Stall.unround (x : Stall) (j : Job) (r : Round) : Stall :=
  match j.m.i with
  | .pstrmOut _ tc _ =>
    let z := x.slotBytes tc.toNat
    let new := if j.pos % z = 0 then r.slots else r.slots.drop 1
    let y := new.foldl (fun (y : Stall) d => y.modTile d fun t => { t with st := .ready }) x
    (match new with
     | d :: _ => y.modTile tc.toNat fun p => { p with rdrain := d - p.rslot }
     | [] => y)
  | _ => x

/-- A round ends: at its homes an access may have gone or be lost, and `err` is an uncorrectable error met there (R231, R275, R278,
R456). -/
def State.roundDone (s : State) (st : Nat) (j : Job) (r : Round) (err : Bool) : State :=
  let accs := r.writes.filterMap (·.acc?)
  if err && !r.spans.isEmpty then
    let l := r.loc
    ((s.loseSector j.m.org.ctx j.heat l).modStall st fun x => x.unround j r).failJob st j { cls := .dataError, va := l.va, pa := some l.pa }
  else
    match accs.find? s.accGone, accs.find? fun a => s.accLost a false with
    | some a, _ => (s.modStall st fun x => x.unround j r).failJob st j { cls := .scratchAbsent, va := a.va, pa := some a.pa, wr := true }
    | none, some a => (s.modStall st fun x => x.unround j r).failJob st j { cls := .dataError, va := a.va, pa := some a.pa, wr := true }
    | none, none =>
      let s := s.endRound st j r
      if j.reclaimed then s.abandonJob st j.id 3 else s

/-- A round's writes wait for an atomic pending on one of their words (R243). -/
def State.roundWaits (s : State) (r : Round) : Bool :=
  (r.writes.filterMap (·.acc?)).any fun a => s.wordPending a (fun _ => true) (fun _ => true)

/-- PORTER_ROUND_COMPLETE (R231, R274, R275, R278): `err` is an uncorrectable error met at a home (R456). -/
def execPorterRoundComplete (st id : Nat) (err : Bool) (s : State) : Out :=
  .next <|
    match (s.stallD st).jobs.find? fun (j : Job) => j.id == id with
    | none => s
    | some j =>
      match j.round with
      | none => s
      | some r =>
        if !s.stallRuns st || s.roundWaits r then s else s.roundDone st j r err

end Sys2Proof.Machine
end

