-- ==== Sys2Proof/Machine/Reduce.lean ====
section
/-! DEFINITION. Reduction objects (11_determinism.md R302-R313): their trees, parts and arithmetic, RED, RDINIT and RDWAIT, and what
arrives at an object; XSEND, XRECV and the remote store (R314-R319). -/
namespace Sys2Proof

/-- The key of a message as the destination part's XRECV gives it (R315). -/
def RemoteTile.recvKey (t : RemoteTile) : W64 := BitVec.ofNat 64 (t.sqn * 2 ^ 16 + t.chan * 2 ^ 8 + t.src)

end Sys2Proof
namespace Sys2Proof.Machine

/-! The descriptor and the tree (R301, R304, R310) -/

def redKey (d : Nat) : Nat := bits d 63 48
def redSplit (d : Nat) : Nat := bits d 34 32
def redNar (d : Nat) : Nat := bits d 29 28
def redArrival (d : Nat) : Bool := d.testBit 27
def redInt (d : Nat) : Bool := d.testBit 26
def redOp (d : Nat) : Nat := bits d 25 24
def redLeaves (d : Nat) : Nat := bits d 23 0
/-- D: the level of the root. -/
def redDepth (d : Nat) : Nat := clog2 (redLeaves d)
/-- L_p: the level of the node a part forms (R310). -/
def redPartLevel (d : Nat) : Nat := redDepth d - redSplit d
/-- Node (l, j) is absent. -/
def redAbsent (d l j : Nat) : Bool := decide (redLeaves d ≤ j * 2 ^ l)
/-- Leaves that node (l, j) covers. -/
def redCovers (d l j : Nat) : Nat := min (2 ^ l) (redLeaves d - j * 2 ^ l)
/-- The part that owns node (l, j) (R310). -/
def redOwner (d l j : Nat) : Nat := if l ≤ redPartLevel d then j * 2 ^ l / 2 ^ redPartLevel d else 0

/-- A reserved value or a breach of a limit in a descriptor (R304, R310); `halls` is the number of the instance's parts. -/
def redDescBad (d halls : Nat) : Bool :=
  bits d 47 35 != 0 || bits d 31 30 != 0 || redNar d == 3 || (redNar d != 0 && redInt d) || redOp d == 3 || redLeaves d == 0 ||
    decide (4 < redSplit d) || decide (redDepth d < redSplit d) || (redSplit d != 0 && decide (halls < 2 ^ redSplit d))

/-! Arithmetic (R309, R311) -/

abbrev RedVal := W64 × FlagSet

def fpVal32 (v : W64) : FpVal := fp32.decode (v.toNat % 2 ^ 32)
/-- A signed dyadic number as FP32, rounded to nearest even; a number past the range is an infinity (R83). -/
def redBack (a : Dy) (f : FlagSet) : RedVal :=
  if a.i = 0 then (0, f)
  else
    let r := fp32.roundDy .rne a
    (BitVec.ofNat 64 r.1, f.join r.2)

/-- The E4M3 value nearest a magnitude below 2^8, ties to even, as an integer and the exponent of its unit; whether inexact. The
scale of R309 keeps every magnitude below 2^8, so that none saturates. -/
def nearE4m3 (a : Mag) : Nat × Int × Bool :=
  let t := max a.log2 (-6) - 3
  let sp := a.split t
  (roundInt .rne false sp.1 sp.2, t, sp.2 != 0)

/-- nq (R309), with the flags that R309 names alone: a value past the FP32 range is an infinity (log 65). -/
def redNarrow (d : Nat) (v : W64) : RedVal :=
  match redNar d, fpVal32 v with
  | 1, x =>
    let q := bsiQuantise 8 (x :: List.replicate 31 (.fin false 0 0))
    if q.1 = 255 then (0, q.2.2) else ((redBack ⟨q.2.1.headD 0, (q.1 : Int) - 127⟩ {}).1, q.2.2)
  | 2, .nan _ => (BitVec.ofNat 64 fp32.nan, { nv := true })
  | 2, .fin n m k =>
    if m = 0 then (v, {})
    else
      let c0 := 120 + (⟨m, k, false⟩ : Mag).log2
      let c : Int := min 254 (max 0 c0)
      let y := nearE4m3 ⟨m, k - (c - 127), false⟩
      if y.1 = 0 then (BitVec.ofNat 64 (fp32.zero n), { nx := y.2.2, uf := decide (c0 < 0) })
      else ((redBack (dyOf n y.1 (y.2.1 + (c - 127))) {}).1, { nx := y.2.2, uf := decide (c0 < 0) })
  | _, _ => (v, {})

/-- op, the even-indexed value first (R307, R311). -/
def redCombine (d : Nat) (a b : W64) : RedVal :=
  if redInt d then
    match redOp d with
    | 0 =>
      let r := clampTo (-(2 ^ 63)) (2 ^ 63 - 1) (a.toInt + b.toInt)
      (BitVec.ofInt 64 r.1, { sat := r.2 })
    | 1 => (if a.toInt < b.toInt then b else a, {})
    | _ => (if b.toInt < a.toInt then b else a, {})
  else
    let x := a.toNat % 2 ^ 32
    let y := b.toNat % 2 ^ 32
    let r := match redOp d with
      | 0 => fpAdd fp32 .rne (fp32.decode x) (fp32.decode y)
      | o => fpMinMax fp32 (o == 1) x y
    (BitVec.ofNat 64 r.1, r.2)

/-! The object -/

/-- What an arrival leads to: a value held, the object's own top value, or a break. -/
inductive RedEnd where
  | held
  | top (v : W64)
  | broken
  deriving DecidableEq, Repr, Inhabited

def Red.d (r : Red) : Nat := r.desc.toNat
/-- The level of the value this part forms: the root in part 0, its own node elsewhere (R310). -/
def Red.topLevel (r : Red) : Nat := if r.part = 0 then redDepth r.d else redPartLevel r.d
def Red.raise (r : Red) (f : FlagSet) : Red := { r with flags := r.flags ||| f.afl }

/-- arrive of R307, level by level. -/
def Red.arrive : Nat → Red → Nat → Nat → W64 → Red × RedEnd
  | 0, r, _, _, _ => (r, .broken)
  | fuel + 1, r, l, j, v =>
    if l = r.topLevel then (r, .top v)
    else if r.held.any fun h => h.1 == l && h.2.1 == j then (r, .broken)
    else
      let sib := j ^^^ 1
      if redAbsent r.d l sib then
        let q := redNarrow r.d v
        (r.raise q.2).arrive fuel (l + 1) (j / 2) q.1
      else
        match r.held.find? fun h => h.1 == l && h.2.1 == sib with
        | some h =>
          let ev := if j % 2 = 0 then v else h.2.2
          let od := if j % 2 = 0 then h.2.2 else v
          let qe := redNarrow r.d ev
          let qo := redNarrow r.d od
          let c := redCombine r.d qe.1 qo.1
          let r := (r.raise (qe.2.join qo.2)).raise c.2
          ({ r with held := r.held.erase h } : Red).arrive fuel (l + 1) (j / 2) c.1
        | none => ({ r with held := r.held ++ [(l, j, v)] }, .held)

/-- Leaves of a part (R308). -/
def Red.partLeaves (r : Red) : Nat := redCovers r.d (redPartLevel r.d) r.part

/-- Combines a value into a running one (R308). -/
def Red.accumulate (r : Red) (acc : Option W64) (v : W64) : Red × W64 :=
  let q := redNarrow r.d v
  match acc with
  | none => (r.raise q.2, q.1)
  | some a =>
    let c := redCombine r.d a q.1
    ((r.raise q.2).raise c.2, c.1)

/-- Part 0 takes a value of `n` leaves in ARRIVAL mode (R308). -/
def Red.gather (r : Red) (v : W64) (n : Nat) : Red × RedEnd :=
  if redLeaves r.d < r.total + n then (r, .broken)
  else
    let a := r.accumulate r.facc v
    ({ a.1 with facc := some a.2, total := r.total + n }, if r.total + n = redLeaves r.d then .top a.2 else .held)

/-- A contribution in ARRIVAL mode (R308): the part's running value goes to part 0 as its count reaches the part's leaf count, and a count
that would pass n breaks the object (R313). A node above the parts is part 0's own. -/
def Red.runningArrive (r : Red) (l j : Nat) (v : W64) : Red × RedEnd :=
  let n := redCovers r.d l j
  if redPartLevel r.d < l then r.gather v n
  else if redLeaves r.d < r.covered + n then (r, .broken)
  else
    let a := r.accumulate r.acc v
    let r' := { a.1 with acc := some a.2, covered := r.covered + n }
    if r'.covered < r'.partLeaves || r'.partLeaves ≤ r.covered then (r', .held)
    else if redSplit r.d = 0 then ({ r' with facc := some a.2, total := r'.covered }, .top a.2)
    else if r.part = 0 then r'.gather a.2 r'.covered
    else (r', .top a.2)

/-! Objects in the machine -/

/-- The live object a handle names, of a context (R305, R306). -/
def State.redAt (s : State) (ctx h : Nat) : Option Red :=
  if h / 2 ^ 16 != 0 || bits h 13 12 != 0 then none
  else
    match s.red? (bits h 15 14) (bits h 11 0) with
    | some r => if r.live && r.ctx == ctx then some r else none
    | none => none

/-- The parts of a part's object in this package (R310). -/
def State.redParts (s : State) (inst : Option Nat) (key : Nat) : List Red :=
  s.reds.filter fun r => r.live && r.inst == inst && inst.isSome && redSplit r.d != 0 && redKey r.d == key

/-- What RDINIT does as it executes (R304, R305, R310). -/
def State.redInit (s : State) (c : Cx) (h : Hd) : State :=
  let d := c.l.toNat
  let hall := c.f.ctxHall
  let n := c.f.inst.bind s.inst?
  let parts := ((n.map (·.parts)).getD [])
  let part := if redSplit d = 0 then 0 else (n.bind (·.part? hall)).getD 16
  let mine := s.reds.filter fun r => r.ctx == c.f.ctx && r.hall == hall
  if redDescBad d (max 1 parts.length) || decide (2 ^ redSplit d ≤ part) ||
      (redSplit d != 0 && (s.redParts c.f.inst (redKey d)).any fun r => r.hall == hall) then s.faultAt c { cls := .illegalOperand }
  else if redArrival d && c.f.det then s.faultAt c { cls := .detBreach }
  else if ((s.ctx? c.f.ctx).map (·.params.redLimit)).getD 0 ≤ mine.length then s.faultAt c { cls := .redFull }
  else
    match s.choose ((List.range 4096).filter fun k => (s.red? hall k).isNone) with
    | (none, s) => s.faultAt c { cls := .redFull }
    | (some k, s) =>
      let r : Red :=
        { rid := s.nextId, hall := hall, slot := k, ctx := c.f.ctx, inst := c.f.inst, desc := c.l, part := part, live := false, held := [], acc := none,
          covered := 0, facc := none, total := 0, excess := 0, flags := 0, done := false, result := 0, broken := false,
          org := c.org, last := c.f.prevArrival 8 }
      (({ s with reds := s.reds ++ [r], nextId := s.nextId + 1 }).effect c (.rdinit k)).sendToken c.b.bid c.slot h r.handle (c.f.prevArrival 0)

/-- RDINIT (R304, R305). -/
def execRdinit (h : Hd) (s : State) : Out := s.runWord h fun c => s.redInit c h

/-- RDINIT.free (R305). -/
def execRdinitFree (h : Hd) (s : State) : Out :=
  s.runWord h fun c =>
    match s.redAt c.f.ctx c.l.toNat with
    | none => s.faultAt c { cls := .redState, extra := c.l }
    | some r => s.effect c (.rdfree r.hall r.slot r.rid)

/-- RED (R306). -/
def execRed (h : Hd) (s : State) : Out :=
  s.runWord h fun c =>
    let t := c.l.toNat
    let l := bits t 20 16
    let j := bits t 47 24
    match s.redAt c.f.ctx (bits t 15 0) with
    | none => s.faultAt c { cls := .redState, extra := BitVec.ofNat 64 (bits t 15 0) }
    | some r =>
      if redDepth r.d < l || redAbsent r.d l j then s.faultAt c { cls := .illegalOperand }
      else s.effect c (.red r.hall r.slot r.rid l j (if redInt r.d then c.r else BitVec.ofNat 64 (c.r.toNat % 2 ^ 32)))

/-- RDWAIT and RDWAIT.f (R312): the object's flags join the block's sticky flags. -/
def State.redWait (s : State) (c : Cx) (h : Hd) (flags : Bool) : State :=
  match s.redAt c.f.ctx c.l.toNat with
  | none => s.faultAt c { cls := .redState, extra := c.l }
  | some r =>
    if r.broken then s.faultAt c { cls := .redState, extra := c.l }
    else if !r.done then s.waitOn c (.red r.hall r.slot)
    else
      (s.modBlock c.b.bid fun b => { b with aflags := b.aflags ||| r.flags }).deliverFrom c h
        (if flags then r.flags.setWidth 64 else r.result) r.last

def execRdwait (h : Hd) (s : State) : Out := s.runWord h fun c => s.redWait c h false
def execRdwaitF (h : Hd) (s : State) : Out := s.runWord h fun c => s.redWait c h true

/-! What arrives -/

/-- The parts of an object that stand in this package break: they combine nothing further (R313). -/
def State.breakParts (s : State) (inst : Option Nat) (key : Nat) : State :=
  let parts := s.redParts inst key
  { s with reds := s.reds.map fun x => if parts.any (fun p => p.hall == x.hall && p.slot == x.slot) then { x with broken := true, held := [], excess := 0 } else x }

/-- An object of an instance breaks in every part, in other packages too (R310, R313). -/
def State.breakKey (s : State) (i key : Nat) : State :=
  let s := (s.breakParts (some i) key).modInst i fun x => { x with broken := key :: x.broken.erase key }
  if (s.inst? i).any fun x => x.parts.any fun h => decide (4 ≤ h) then s.ueSend (.redBreak i (BitVec.ofNat 16 key)) else s

/-- An object breaks, with every part of it (R310, R313). -/
def State.breakRed (s : State) (o : Org) (r : Red) : State :=
  let s := s.modRed r.hall r.slot fun x => { x with broken := true, held := [], excess := 0 }
  let s := if redSplit r.d = 0 then s else r.inst.elim s fun i => s.breakKey i (redKey r.d)
  s.hallReport o r.hall .redState r.handle

/-- Nodes in a hall's node store (R302), with those that wait for a part not yet created there (R310). -/
def State.nodeStore (s : State) (hall : Nat) : Nat :=
  (s.reds.filter (·.hall == hall)).foldl (fun n r => n + (r.held.length - r.excess)) 0 +
    s.insts.foldl (fun n x => n + (x.waits.filter fun w => !w.2 && x.parts.getD w.1.part 4 == hall).length) 0

/-- Part-to-part traffic: it leaves for another package over an Ethernet port, or travels in this one (R310, R323). -/
def State.shipPart (s : State) (o : Org) (part : Nat) (inst : Nat) (near : Cargo) (far : UeItem) : State :=
  if ((s.inst? inst).map fun n => decide (4 ≤ n.parts.getD part 4)).getD false then s.ueSend far else s.ship o 0 near

def Red.forwardTo (r : Red) (part l j : Nat) (v : W64) (fl : BitVec 5) (o : Org) (s : State) : State :=
  let i := r.inst.getD 0
  let k := BitVec.ofNat 16 (redKey r.d)
  s.shipPart o part i (.forward i k part l j v r.desc fl) (.forward i k part l j v r.desc fl)

/-- The top value of a part: part 0 completes and sends the result, another part sends its value (R308, R310). -/
def State.redTop (s : State) (o : Org) (r : Red) (v : W64) : State :=
  let i := r.inst.getD 0
  let k := BitVec.ofNat 16 (redKey r.d)
  let s := s.modRed r.hall r.slot fun _ => { r with excess := min r.excess r.held.length, done := r.done || r.part == 0, result := if r.part = 0 then v else r.result }
  if r.part = 0 then
    if redSplit r.d = 0 then s
    else ((List.range (2 ^ redSplit r.d)).drop 1).foldl (fun s p =>
      s.shipPart o p i (.result i k p v r.desc r.flags) (.result i k p v r.desc r.flags)) s
  else if redArrival r.d then
    s.shipPart o 0 i (.partValue i k 0 r.covered v r.desc r.flags) (.partValue i k 0 r.covered v r.desc r.flags)
  else r.forwardTo 0 (redPartLevel r.d) r.part v r.flags o s

/-- Enters what an arrival made of an object: its held nodes stand in the node store as far as that has room, the others in the heat
arena, and where neither has room the object breaks (R302, R313). -/
def State.redSettle (s : State) (o : Org) (old : Red) (a : Arrival) (e : Red × RedEnd) : State :=
  let r := { e.1 with last := a }
  match e.2 with
  | .broken => s.breakRed o old
  | .top v => s.redTop o r v
  | .held =>
    let room := 16384 - (s.nodeStore r.hall - (old.held.length - old.excess))
    let excess := r.held.length - room
    if s.arenaFree r.ctx + old.excess < excess then s.breakRed o old
    else s.modRed r.hall r.slot fun _ => { r with excess := excess }

/-- The origin of what an object delivers (R429). -/
def Org.redArrival (o : Org) : Arrival := ⟨8, o.fn, o.bsq, o.stall, o.stall == 2048⟩

/-- A contribution meets the part that owns its node, or goes on to it (R307, R308, R310). -/
def State.redContribute (s : State) (o : Org) (r : Red) (l j : Nat) (v : W64) : State :=
  if r.broken then s
  else if redOwner r.d l j != r.part then r.forwardTo (redOwner r.d l j) l j v 0 o s
  else s.redSettle o r o.redArrival (if redArrival r.d then r.runningArrive l j v else r.arrive 32 l j v)

/-- RED_CONTRIBUTION_ARRIVE (R305-R308, R313). -/
def execRedContributionArrive (k : Nat) (s : State) : Out :=
  .next <|
    match s.flight[k]? with
    | none => s
    | some w =>
      match w.cargo with
      | .contribution hall slot rid l j v =>
        if !s.behind w.org.fid w.id then s
        else
          let s := s.land k
          (match s.red? hall slot with
           | some r => if r.live && r.rid == rid then s.redContribute w.org r l j v
               else s.hallReport w.org hall .redState (BitVec.ofNat 64 (hall * 2 ^ 14 + slot))
           | none => s.hallReport w.org hall .redState (BitVec.ofNat 64 (hall * 2 ^ 14 + slot)))
      | _ => s

/-- What part-to-part traffic meets: nothing yet, a part, or parts that disagree (R310). -/
def State.redMeet (s : State) (inst : Nat) (key part : Nat) (desc : W64) : Option (Red × Bool) :=
  let l := (s.redParts (some inst) key).filter fun r => r.part == part
  l.head?.map fun r => (r, decide (1 < l.length) || desc != r.desc)

/-- What a flight carries from part to part, with its instance. -/
def Flight.fwd? (w : Flight) : Option (Nat × Fwd) :=
  match w.cargo with
  | .forward i k p l j v d f => some (i, ⟨k, p, none, l, j, v, d, f, w.org⟩)
  | .partValue i k p n v d f => some (i, ⟨k, p, some n, 0, 0, v, d, f, w.org⟩)
  | _ => none

/-- What arrives before its part is created waits in the hall's node store, or in the heat arena where that is full; with no room in
either the object breaks (R302, R310, R313). One for a part already freed is dropped, with a report (R305). -/
def State.keepFwd (s : State) (x : Inst) (f : Fwd) : State :=
  let hall := x.parts.getD f.part 0
  match x.freed.find? fun e => e.1 == f.key.toNat && e.2.1 == f.part with
  | some e => s.hallReport f.org hall .redState (BitVec.ofNat 64 e.2.2)
  | none =>
    let wait := fun (arena : Bool) => s.modInst x.iid fun x => { x with waits := x.waits ++ [(f, arena)] }
    if s.nodeStore hall < 16384 then wait false
    else if s.arenaFree x.ctx != 0 then wait true
    else
      match s.redParts (some x.iid) f.key.toNat with
      | r :: _ => s.breakRed f.org r
      | [] => (s.breakKey x.iid f.key.toNat).hallReport f.org hall .redState (BitVec.ofNat 64 (hall * 2 ^ 14))

/-- A part takes what another sends (R308, R310). -/
def Red.takeFwd (r : Red) (f : Fwd) : Red × RedEnd :=
  match f.cov with
  | some n => r.gather f.val n
  | none => if redArrival r.d then r.runningArrive f.lvl f.idx f.val else r.arrive 32 f.lvl f.idx f.val

/-- RED_PART_FORWARD_ARRIVE (R308, R310). -/
def execRedPartForwardArrive (k : Nat) (s : State) : Out :=
  .next <|
    match s.flight[k]?.bind Flight.fwd? with
    | none => s
    | some (i, f) =>
      let s := s.land k
      match s.inst? i with
      | none => s
      | some x =>
        match s.redMeet i f.key.toNat f.part f.desc with
        | none => s.keepFwd x f
        | some (r, bad) =>
          if r.broken then s
          else if bad then s.breakRed f.org r
          else
            let r' := { r with flags := r.flags ||| f.flags }
            s.redSettle f.org r' f.org.redArrival (r'.takeFwd f)

/-- RED_RESULT_ARRIVE (R310): the part completes. -/
def execRedResultArrive (k : Nat) (s : State) : Out :=
  .next <|
    match s.flight[k]? with
    | none => s
    | some w =>
      match w.cargo with
      | .result i key p v d fl =>
        if (s.inst? i).isNone then s.land k
        else
          (match s.redMeet i key.toNat p d with
           | none => s
           | some (r, bad) =>
             let s := s.land k
             if r.broken then s
             else if bad then s.breakRed w.org r
             else s.modRed r.hall r.slot fun r =>
               { r with done := true, result := v, flags := r.flags ||| fl, last := w.org.redArrival })
      | _ => s

/-! Remote tiles (R314-R318) -/

/-- A part at or above the instance's hall count (R315). -/
def State.partBad (s : State) (c : Cx) : Bool :=
  decide (((c.f.inst.bind s.inst?).map (·.parts.length)).getD 0 ≤ bits c.l.toNat 3 0)

/-- XSEND (R314-R316). -/
def execXsend (h : Hd) (ta : BitVec 6) (nb : Bool) (s : State) : Out :=
  s.runWord h fun c =>
    let x := s.stallD c.f.stall
    s.sendAt c (.xsend h ta nb)
      ((firstBad [(s.partBad c, .illegalOperand)]).orElse fun _ => x.placeFault (x.srcTile ta.toNat)) nb (x.srcsReady [ta.toNat])

/-- XRECV (R314, R315, R318). -/
def execXrecv (h : Hd) (tc : BitVec 6) (nb : Bool) (s : State) : Out :=
  s.runWord h fun c =>
    let x := s.stallD c.f.stall
    s.sendAt c (.xrecv h tc nb)
      ((firstBad [(s.partBad c, .illegalOperand)]).orElse fun _ => x.placeFault (x.dstTile tc.toNat)) nb (x.dstReady tc.toNat false)

/-- XMSG_ARRIVE (R317): the message enters the remote store of its hall, waits while that is full, or is a second one of its key. -/
def execXmsgArrive (k : Nat) (s : State) : Out :=
  .next <|
    match s.flight[k]? with
    | none => s
    | some w =>
      match w.cargo with
      | .xmsg t =>
        (match s.inst? t.inst with
         | none => s.land k
         | some n =>
           let hall := n.parts.getD t.dst 0
           let h := s.hallD hall
           if (h.xstore.any fun x => x.key == t.key) || h.xtaken.contains t.key then
             (s.land k).hallReport { w.org with ctx := n.ctx } hall .xchanDup t.recvKey
           else if 256 ≤ h.xstore.length then s
           else (s.land k).modHall hall fun h => { h with xstore := h.xstore ++ [t] })
      | _ => s

end Sys2Proof.Machine
end

