-- ==== Sys2Proof/Machine/Space.lean ====
section
/-! DEFINITION. Address spaces as firmware and the driver handle them: the leaves of a context's tables, mapping pages (R386, R405,
R410), mailbox memory access (R410), TLB_INVAL and its drain tokens (R397), and BLOCK_INVAL (R67). -/
namespace Sys2Proof.Machine

/-- Two runs of addresses share a byte. -/
def runsMeet (a n b m : Nat) : Bool := decide (a < b + m) && decide (b < a + n) && n != 0 && m != 0

/-- A physical run that some context maps, or that holds its tables. -/
def State.paMapped (s : State) (p : Ctx → Bool) (pa n : Nat) : Bool :=
  s.ctxs.any fun c => p c && (((s.leaves c.num).any fun l => runsMeet l.pa (2 ^ l.lg) pa n) ||
    (s.tablesFrom 4 c.params.rtp).any fun t => runsMeet t.1 t.2 pa n)

/-- A page of device DRAM that nothing uses. -/
def State.freePage (s : State) (pa : Nat) : Bool := paKind pa == .dram && pa % 4096 == 0 && !s.paMapped (fun _ => true) pa 4096

/-- A VA run overlaps a mapping of the context. -/
def State.vaMapped (s : State) (ctx va n : Nat) : Bool := (s.leaves ctx).any fun l => runsMeet l.va (2 ^ l.lg) va n

/-! Mapping (R386) -/

/-- Firmware writes zero to a physical run (R386). -/
def State.zeroRun (s : State) (pa n : Nat) : State :=
  { s with mem := spDrop (fun a => decide (pa ≤ a) && decide (a < pa + n)) s.mem }

/-- Writes the entry of a VA at a level; absent tables come zeroed from the list given. -/
def State.mapFrom (va lvl e : Nat) : Nat → State → Nat → List Nat → Option (State × List Nat)
  | 0, _, _, _ => none
  | fuel + 1, s, table, pages =>
    let at_ := 3 - fuel
    let ea := table + 8 * vaIndex va at_
    let old := s.rdLE ea 8
    if at_ = lvl then some (s.wrLE ea 8 e, pages)
    else if old.testBit 0 then (if old.testBit 1 then none else s.mapFrom va lvl e fuel (bits old 51 12 * 4096) pages)
    else
      match pages with
      | [] => none
      | p :: ps => if !s.freePage p then none else ((s.zeroRun p 4096).wrLE ea 8 (p + 1)).mapFrom va lvl e fuel p ps

def State.mapEntry (s : State) (ctx va lvl e : Nat) (pages : List Nat) : Option (State × List Nat) :=
  match s.ctx? ctx with
  | some c => s.mapFrom va lvl e 4 c.params.rtp pages
  | none => none

/-! The future pool (R327) -/

/-- Formats the cells of the pool that lie in a run of mapped addresses: FREE, and in the pool list. -/
def State.formatCells (s : State) (ctx lo n : Nat) : State :=
  match s.ctx? ctx with
  | none => s
  | some c =>
    let r := c.params.future
    let cells := (List.range (n / 16)).filterMap fun i =>
      let va := (lo + 15) / 16 * 16 + 16 * i
      if r.va ≤ va && va + 16 ≤ r.va + r.size && va + 16 ≤ lo + n then some va else none
    cells.foldl (fun s va =>
      match s.walkVa ctx va with
      | .ok l =>
        if l.attr.sync then
          (s.wrLE l.pa 16 (cellWord 0 3 0 0 false)).modCtx ctx fun c => { c with pool := c.pool ++ [(s.poolHall ctx l.pa, va)] }
        else s
      | .error _ => s) s

/-! PAGE_MAP -/

/-- Firmware keeps a confidential context's pages to itself, and a pair's pages to its holder (R400, R405, R410). -/
def State.mapRefused (s : State) (c : Ctx) (pa n : Nat) : Bool :=
  match paKind pa with
  | .dram => s.paMapped (fun d => d.num != c.num && (d.params.confid || c.params.confid)) pa n
  | .scratch | .control => (s.pairAt? pa).all fun p => p.owner != some c.num
  | _ => false

/-- 4 KiB pages of DRAM that the context maps with ENC (R410). -/
def State.encPages (s : State) (ctx : Nat) : List Nat :=
  ((s.leaves ctx).filter fun l => l.attr.enc && paKind l.pa == .dram).flatMap fun l => (List.range (2 ^ l.lg / 4096)).map fun k => l.pa + 4096 * k

/-- Encrypts pages under a key, or decrypts them; their lines leave the cache (R410). -/
def State.cryptPages (s : State) (key : BitVec 512) (back : Bool) (pages : List Nat) : State :=
  let t := pages.foldl (fun s p => (List.range 32).foldl (fun s k =>
    let pa := p + 128 * k
    s.wrBytes pa (xtsSector key back (pa / 128) (getBytes s.mem pa 128))) s) s
  t.dropLines fun _ l => pages.contains (l.line * 256 / 4096 * 4096)

/-- DRAM under pages that are mapped with ENC no longer holds what the key makes of their bytes, and what it held under the key before
reads as it was once they are mapped with ENC again and kept (R410). Bytes of an ENC page stand in the state as its context sees them. -/
def State.recrypt (s t : State) (c : Ctx) (keep : Bool) : State :=
  match c.key with
  | none => t
  | some key =>
    let was := s.encPages c.num
    let now := t.encPages c.num
    let t := t.cryptPages key false (was.filter fun p => !now.contains p).eraseDups
    if keep then t.cryptPages key true (now.filter fun p => !was.contains p).eraseDups else t

/-- DRAM under the ENC pages of a context whose key is destroyed holds what the key had made of their bytes (R410). -/
def State.sealPages (s : State) (c : Ctx) : State := c.key.elim s fun key => s.cryptPages key false (s.encPages c.num).eraseDups

/-- PAGE_MAP (R386): the entry is `pa` with the flag bits [11:0] of R393; new tables come from the pages given. -/
def execPageMap (ctx va pa lvl : Nat) (flags : BitVec 12) (keep : Bool) (tables : List Nat) (s : State) : Out :=
  .next <|
    match s.ctx? ctx with
    | none => s.reply 1 []
    | some c =>
      let n := 2 ^ leafLg lvl
      if lvl = 0 || 3 < lvl || va % n != 0 || decide (2 ^ 56 < va + n) || pa % 4096 != 0 || decide (2 ^ 52 ≤ pa) ||
          (flags.getLsbD 0 && s.mapRefused c pa n) then s.reply 1 []
      else
        let s' := if keep || !flags.getLsbD 0 || paKind pa == .control || (paKind pa == .scratch && !s.scratchPresent pa) then s
          else s.zeroRun pa n
        match s'.mapEntry ctx va lvl (pa + flags.toNat) tables with
        | none => s.reply 1 []
        | some (t, _) =>
          let t := s'.recrypt t c keep
          (if keep || !flags.getLsbD 0 then t else t.formatCells ctx va n).reply 0 []

/-! Mailbox memory access (R410) -/

/-- A release of scope SYS that has run ahead of the writes before it lies in a run of addresses: the host does not read it yet (R223). -/
def State.earlyIn (s : State) (ctx va n : Nat) : Bool :=
  s.early.any fun e => e.scp == .sys && e.acc.ctx == ctx && runsMeet e.acc.va e.acc.size va n && e.bar.any fun k => s.flight.any (·.id == k)

/-- MAILBOX_MEMORY_ACCESS: `data` writes, its absence reads `len` bytes; refused for a confidential context, and where a byte is not
mapped. -/
def execMailboxMemoryAccess (ctx va len : Nat) (data : Option (List Byte)) (s : State) : Out :=
  .next <|
    let n := match data with | some d => d.length | none => len
    let good := fun (a : Nat) => match s.walkVa ctx a with
      | .ok l => !s.readLost l.pa && paKind l.pa != .control && (paKind l.pa != .scratch || s.scratchPresent l.pa)
      | .error _ => false
    match s.ctx? ctx with
    | none => s.reply 1 []
    | some c =>
      if c.params.confid || decide (2 ^ 56 < va + n) || !(List.range n).all (fun i => good (va + i)) then s.reply 1 []
      else if data.isNone && s.earlyIn ctx va n then s
      else
        match data with
        | some d => (s.vaWrite ctx va d).reply 0 []
        | none => s.reply 0 ((List.range n).map fun i => s.vaRead ctx (va + i) 1)

/-! Invalidation (R397) -/

/-- The ranges of an invalidation, as (VA, length); a length of 0 names every VA. -/
def invalMeets (rs : List (Nat × Nat)) (a n : Nat) : Bool := rs.any fun r => r.2 = 0 || runsMeet r.1 r.2 a n

/-- Drops the cached translations of the ranges. -/
def State.dropTlbs (s : State) (ctx : Nat) (rs : List (Nat × Nat)) : State :=
  let keep := fun (t : Tlb) => !(t.ctx == ctx && invalMeets rs t.va (2 ^ t.lg))
  let cut := fun (e : RangeEntry) =>
    if invalMeets rs (e.base * 65536) ((e.limit + 1 - e.base) * 65536) then { e with v := false } else e
  { s with halls := s.halls.map fun (h : Hall) => { h with tlb := h.tlb.filter keep },
           stalls := s.stalls.map fun (e : Nat × Stall) =>
             (e.1, { e.2 with utlb := e.2.utlb.filter keep, ranges := if e.2.owner == some ctx then e.2.ranges.map cut else e.2.ranges }) }

/-- The access an effect has translated. -/
def Effect.acc? : Effect → Option Acc
  | .store _ a _ _ | .mcast _ a _ _ _ | .hurdle _ a _ _ | .fset _ a _ | .fref _ _ _ a | .fdrop _ a => some a
  | _ => none

/-- The VA and size of an access in flight that stands translated: an event of a cell too (R330). -/
def Cargo.placed? (w : Cargo) : Option (Nat × Nat) :=
  match w with
  | .reach va _ _ _ | .producerEnd va _ _ _ => some (va, 16)
  | w => w.acc?.map fun a => (a.va, a.size)

/-- Numbers of the accesses of a context on a stall that stand translated within the ranges: loads, blocks with stores or atomics,
traffic, jobs in a round. -/
def State.translatedWork (s : State) (ctx st : Nat) (rs : List (Nat × Nat)) : List Nat :=
  let meets := fun (a : Acc) => invalMeets rs a.va a.size
  ((s.ops.filter fun o => o.org.ctx == ctx && o.org.stall == st && meets o.acc).map fun o => match o.kind with | .load _ _ _ => o.oid | .atomic _ _ _ _ _ => o.bid) ++
    ((s.blocks.filter fun b => (match s.frame? b.fid with | some f => f.ctx == ctx && f.stall == st | none => false) &&
      b.effs.any fun e => e.2.acc?.any meets).map (·.bid)) ++
    ((s.flight.filter fun w => w.org.ctx == ctx && w.org.stall == st && w.cargo.placed?.any fun e => invalMeets rs e.1 e.2).map (·.id)) ++
    (((s.stallD st).jobs.filter fun (j : Job) => match j.round with
      | some r => r.spans.any fun p => meets p.1
      | none => false).map (·.id))

/-- Invalidates ranges of a context: a drain token leaves for every stall of the context, behind every access already translated. -/
def State.invalidate (s : State) (ctx : Nat) (rs : List (Nat × Nat)) : State :=
  let n := s.nextId
  let sts := (s.stalls.filter fun e => e.2.owner == some ctx).map (·.1)
  let s := { s with nextId := n + 1 }.dropTlbs ctx rs
  if sts.isEmpty then s.reply 0 []
  else
    let s := { s with pkg := { s.pkg with drains := s.pkg.drains ++ [(n, sts.length)] } }
    sts.foldl (fun s st => s.ship { Org.ofHall ctx (hallOfStall st) with stall := st } 0 (.drain n st (s.translatedWork ctx st rs))) s

/-- TLB_INVAL (R397). -/
def execTlbInval (ctx va len : Nat) (s : State) : Out := .next (s.invalidate ctx [(va, len)])

/-- An access numbered so is still under way, or one that the block numbered so has sent at its commit. -/
def State.underWay (s : State) (st id : Nat) : Bool :=
  s.ops.any (·.oid == id) || s.blocks.any (·.bid == id) ||
    (s.flight.any fun w => w.id == id || (w.org.bid == id && w.cargo.placed?.isSome)) ||
    (s.stallD st).jobs.any fun (j : Job) => j.id == id && j.round.isSome

/-- DRAIN_TOKEN_ARRIVE (R397): the last token acknowledges the invalidation. -/
def execDrainTokenArrive (k : Nat) (s : State) : Out :=
  .next <|
    match s.flight[k]? with
    | none => s
    | some w =>
      match w.cargo with
      | .drain n st bar =>
        if bar.any (s.underWay st) then s
        else
          let s := s.land k
          let left := (s.pkg.drains.find? (·.1 == n)).elim 0 (·.2)
          let others := s.pkg.drains.filter (·.1 != n)
          if left ≤ 1 then { s with pkg := { s.pkg with drains := others } }.reply 0 []
          else { s with pkg := { s.pkg with drains := (n, left - 1) :: others } }
      | _ => s

/-- BLOCK_INVAL (R67): bytes fetched and not yet mapped go as well. -/
def execBlockInval (ctx : Nat) (s : State) : Out :=
  .next <|
    let s := { s with stalls := s.stalls.map fun (e : Nat × Stall) => (e.1, if e.2.owner == some ctx then { e.2 with bcache := [] } else e.2),
                      frames := s.frames.map fun (f : Frame) => if f.ctx == ctx then { f with fetched := none } else f }
    s.reply 0 []

end Sys2Proof.Machine
end

