-- ==== Sys2Proof/Machine/Losel.lean ====
section
/-! DEFINITION. Losel (02_encoding.md R74-R78, 13_scheduling.md R358-R360): reading a graph image, its checks, the mapping and
relocation of its segments, configuration swap-in (R33, R391), and the start of an instance (R77, R320, R321, R348, R355). -/
namespace Sys2Proof

def Instr.isPeek : Instr → Bool
  | .peek _ => true
  | _ => false

/-- Messages that make a node a converter (R360). -/
def Instr.converts : Instr → Bool
  | .vscl _ _ _ | .vcvt _ _ | .vqnt _ _ _ | .vdqnt _ _ => true
  | _ => false

end Sys2Proof
namespace Sys2Proof.Machine

/-! Packets (R353) -/

def Packet.w (p : Packet) (k : Nat) : Nat := (p.words.getD k 0).toNat
def Packet.type (p : Packet) : Nat := bits (p.w 0) 7 0
def Packet.job (p : Packet) : Nat := bits (p.w 0) 31 16
def Packet.cookie (p : Packet) : Nat := bits (p.w 0) 63 32
def Packet.image (p : Packet) : Nat := bits (p.w 1) 55 0
def Packet.body (p : Packet) : Nat := p.w 2
/-- LAUNCH and TOKEN name an image to be loaded (R355). -/
def Packet.loads (p : Packet) : Bool := p.type == 1 || p.type == 2

/-- A reserved TYPE or a nonzero reserved field (R353). -/
def Packet.bad (p : Packet) : Bool :=
  let lvl := bits p.body 2 0
  bits (p.w 0) 15 8 != 0 || bits (p.w 1) 63 56 != 0 || [4, 5, 6, 7].any (fun k => p.w k != 0) ||
    (match p.type with
     | 1 => bits p.body 39 34 != 0
     | 2 => bits p.body 63 36 != 0 || bits p.body 34 32 != 0 || p.body.testBit 19
     | 3 => bits p.body 63 3 != 0 || decide (lvl < 2) || decide (5 < lvl) || (lvl != 4 && p.image != 0)
     | 4 | 5 => bits p.body 63 16 != 0 || p.image != 0
     | _ => true)

/-- The packet at the head of a context's port, of a type; the port of a confidential context accepts packets only while its interface
is in RUN (R352, R411). -/
def State.headPacket (s : State) (ctx : Nat) (ok : Packet → Bool) : Option (Ctx × Packet) :=
  match s.ctx? ctx with
  | none => none
  | some c =>
    match c.packets with
    | p :: _ => if ok p && !(c.params.confid && c.tdisp != .run) then some (c, p) else none
    | [] => none

/-! Reading an image (R74, R75) -/

/-- Bytes of an image as a number. -/
def imgAt (img : List Byte) (o n : Nat) : Nat := ofBytes ((img.drop o).take n)

/-- The records of a section, none where it breaks R75. -/
def recordsOf (img : List Byte) (size off rsize most : Nat) : Option (List Nat) :=
  if off = 0 then some []
  else if size < off + 16 then none
  else
    let h := imgAt img off 16
    let n := bits h 31 0
    if bits h 47 32 != rsize || decide (most < n) || decide (size < off + 16 + rsize * n) then none
    else some ((List.range n).map fun i => imgAt img (off + 16 + rsize * i) rsize)

/-- A segment (R75): its number, VA, length, ATTR and content. -/
structure Seg where
  num   : Nat
  va    : Nat
  len   : Nat
  attr  : Nat
  bytes : List Byte
  deriving Repr, Inhabited

/-- A segment record; none where FILELEN passes MEMLEN or its bytes pass SIZE (R75). -/
def segOf (img : List Byte) (size num r : Nat) : Option Seg :=
  let ml := bits r 191 160
  let fl := bits r 159 128
  let fo := bits r 95 64
  if ml < fl || size < fo + fl then none
  else some ⟨num, bits r 55 0, ml, bits r 199 192, (img.drop fo).take fl ++ List.replicate (ml - fl) 0⟩

/-- What an image says, once its form is good. -/
structure Img where
  det    : Bool
  strict : Bool
  roles  : List Nat
  nodes  : List Nat
  edges  : List Nat
  tiles  : List Nat
  rings  : List Nat
  launches : List Nat
  segs   : List Seg
  relocs : List Nat
  deriving Repr, Inhabited

/-- Reads an image; none is code 1 of R358. -/
def parseImage (img : List Byte) : Option Img := do
  let h := imgAt img 0 64
  let size := bits h 191 128
  if bits h 31 0 != 0x4C344749 || bits h 63 32 != 1 || decide (size < 64) || img.length != size then none
  else
    let sect := fun (j rs most : Nat) => recordsOf img size (bits h (287 + 32 * j) (256 + 32 * j)) rs most
    let nodes ← sect 0 16 (2 ^ 32)
    let edges ← sect 1 16 (2 ^ 32)
    let tiles ← sect 2 32 (2 ^ 32)
    let rings ← sect 3 8 (2 ^ 32)
    let launches ← sect 4 32 (2 ^ 32)
    let code ← sect 5 32 128
    let data ← sect 6 32 128
    let relocs ← sect 7 24 (2 ^ 32)
    let cs ← (List.range code.length).mapM fun i => segOf img size i (code.getD i 0)
    let ds ← (List.range data.length).mapM fun i => segOf img size (128 + i) (data.getD i 0)
    some { det := h.testBit 64, strict := h.testBit 65, roles := (List.range 32).map fun b => bits h (193 + 2 * b) (192 + 2 * b),
           nodes := nodes, edges := edges, tiles := tiles, rings := rings, launches := launches, segs := cs ++ ds, relocs := relocs }

/-- The bytes of the image at a VA, by its own SIZE where MAGIC stands; a byte that is not mapped reads 0. -/
def State.imageBytes (s : State) (ctx va : Nat) : List Byte :=
  let size := if s.vaRead ctx va 4 = 0x4C344749 then s.vaRead ctx (va + 16) 8 else 64
  (List.range (min size (2 ^ 56 - va))).map fun i => BitVec.ofNat 8 (s.vaRead ctx (va + i) 1)

/-! Placement and relocation (R75, R78) -/

/-- The entry bits of a segment's pages (R75, R393). -/
def segFlags (a : Nat) : Nat :=
  3 + (a % 8) * 4 + (if a.testBit 3 then 0x800 else 0) + (if a.testBit 4 then 0x100 else 0) + (if a.testBit 5 then 0x200 else 0)

/-- Attributes that break R37, R75 or R394. -/
def Seg.bad (g : Seg) : Bool :=
  leafInvalid (segFlags g.attr) 3 || g.va % 4096 != 0 || decide (2 ^ 56 < g.va + g.len) ||
    (if g.num < 128 then !g.attr.testBit 2 || g.attr.testBit 1 else g.attr.testBit 2)

/-- Bytes mapped for a segment: whole pages. -/
def Seg.room (g : Seg) : Nat := (g.len + 4095) / 4096 * 4096

def clashes (taken : List (Nat × Nat)) (va n : Nat) : Bool := taken.any fun t => runsMeet t.1 t.2 va n

/-- The lowest free place at or above 0x100_0000 (R75). -/
def lowestFree (taken : List (Nat × Nat)) (n : Nat) : Nat :=
  let cands := 0x1000000 :: (taken.map fun t => max 0x1000000 ((t.1 + t.2 + 4095) / 4096 * 4096))
  ((cands.filter fun a => !clashes taken a n).foldl (fun m a => min m a) (2 ^ 56))

/-- Places the segments, those with a VA first (R75); none is code 8. -/
def placeSegs (taken : List (Nat × Nat)) : List Seg → Option (List Seg)
  | [] => some []
  | g :: gs =>
    if g.bad then none
    else
      let va := if g.va = 0 then lowestFree taken (max g.room 1) else g.va
      if clashes taken va g.room || decide (2 ^ 56 < va + g.room) then none
      else (placeSegs ((va, g.room) :: taken) gs).map fun l => { g with va := va } :: l

def segNum (l : List Seg) (n : Nat) : Option Seg := l.find? (·.num == n)

/-- Puts bytes into a segment. -/
def Seg.put (g : Seg) (o : Nat) (bs : List Byte) : Seg :=
  { g with bytes := g.bytes.take o ++ bs ++ g.bytes.drop (o + bs.length) }

/-- Applies one relocation record; none is code 8 (R78). An item that passes its segment's MEMLEN is refused with that code too
(log 113). -/
def relocate (l : List Seg) (r : Nat) : Option (List Seg) := do
  let g ← segNum l (bits r 7 0)
  let t ← segNum l (bits r 15 8)
  let o := bits r 63 32
  let v : Int := (t.va : Int) + sext (bits r 127 64) 64
  let w := imgAt g.bytes o 8
  if g.bytes.length < o + 8 then none
  else
    let w' ← match bits r 19 16 with
      | 0 => some (wrap 64 v)
      | 1 => if 0 ≤ v && v < 2 ^ 31 then some (w % 2 ^ 18 + wrap 32 v * 2 ^ 18 + w / 2 ^ 50 * 2 ^ 50) else none
      | 2 =>
        let d : Int := v - ((g.va : Int) + (bits r 159 128 : Int))
        if v % 16 = 0 && -(2 ^ 32) ≤ d / 16 && d / 16 < 2 ^ 32 then
          some (w % 2 ^ 18 + wrap 33 (d / 16) * 2 ^ 18 + w / 2 ^ 51 * 2 ^ 51)
        else none
      | _ => none
    some (l.map fun x => if x.num == g.num then x.put o (bytesLE w' 8) else x)

/-! Encodings (R61, R71, R300) -/

/-- The blocks of a code segment: back to back on 16-byte boundaries, past padding of zeros. -/
def blocksOf : Nat → Nat → List Byte → List (Nat × Nat × List W64)
  | 0, _, _ => []
  | fuel + 1, va, bs =>
    if bs.length < 16 then []
    else
      let h := ofBytes (bs.take 16)
      if h = 0 then blocksOf fuel (va + 16) (bs.drop 16)
      else
        let n := bits h 11 4
        let len := 16 + 16 * ((n + 1) / 2)
        let ws := (pieces 8 n ((bs.drop 16).take (8 * n))).map fun p => BitVec.ofNat 64 (ofBytes p)
        (va, h, ws) :: (if n = 0 then [] else blocksOf fuel (va + len) (bs.drop len))

/-- The breach of one block at a load: its slot (R61, R300, R483). -/
def loadBreach (det strict : Bool) (b : Nat × Nat × List W64) : Option Nat :=
  let strictOne := if !strict then none
    else match mapBreach (b.2.1 ||| 2 ^ 15) b.2.2 with
      | some (c, n) => if n = 0xFF && c != 7 then some 0xFF else if !b.2.1.testBit 15 then some 0xFF else some n
      | none => if !b.2.1.testBit 15 then some 0xFF else none
  let ps := parseSlots false b.2.2
  let detOne := if !det then none
    else (List.range ps.length).find? fun n => match ps.getD n .second with | .instr i => i.isPeek | _ => false
  strictOne.orElse fun _ => detOne

/-! Graph checks (R76, R358-R360) -/

def nodeIn (r : Nat) : Nat := bits r 51 48
def nodeOutputs (r : Nat) : Nat := bits r 59 56
def edgeOf (r : Nat) : Edge :=
  { src := bits r 11 0, out := bits r 14 12, dst := bits r 43 32, inp := bits r 66 64, prod := bits r 91 88, cons := bits r 95 92,
    depth := bits r 108 96, fmt := bits r 83 80, wid := bits r 87 84 }

/-- An edge field outside its range, or an end that is not there (R76). -/
def edgeBad (nodes : List Nat) (e : Edge) : Bool :=
  e.prod = 0 || 8 < e.prod || e.cons = 0 || 8 < e.cons || e.depth = 0 || 4096 < e.depth || 13 < e.fmt || (e.fmt = 3 && e.wid = 0) ||
    (e.wid != 0 && !(e.fmt = 0 || e.fmt = 1 || e.fmt = 3)) || decide (nodes.length ≤ e.src) || decide (nodes.length ≤ e.dst) ||
    decide (nodeOutputs (nodes.getD e.src 0) ≤ e.out) || decide (nodeIn (nodes.getD e.dst 0) ≤ e.inp)

/-- An entry block that a record names (R76, R77). -/
def entryOf (segs : List Seg) (seg ofs : Nat) : Option Nat :=
  match segNum segs seg with
  | some g => if seg < 128 && ofs % 16 = 0 && ofs < g.len then some (g.va + ofs) else none
  | none => none

/-- Spreads firing rates along the edges, as fractions (R359). -/
def spread (es : List Edge) : Nat → List (Nat × Nat × Nat) → List (Nat × Nat × Nat)
  | 0, q => q
  | fuel + 1, q =>
    spread es fuel (es.foldl (fun q e =>
      match q.find? (·.1 == e.src), q.find? (·.1 == e.dst) with
      | some a, none => (e.dst, a.2.1 * e.prod / Nat.gcd (a.2.1 * e.prod) (a.2.2 * e.cons), a.2.2 * e.cons / Nat.gcd (a.2.1 * e.prod) (a.2.2 * e.cons)) :: q
      | none, some b => (e.src, b.2.1 * e.cons / Nat.gcd (b.2.1 * e.cons) (b.2.2 * e.prod), b.2.2 * e.prod / Nat.gcd (b.2.1 * e.cons) (b.2.2 * e.prod)) :: q
      | _, _ => q) q)

/-- The first edge whose rates do not balance (R359). -/
def rateBreach (n : Nat) (es : List Edge) : Option Nat :=
  let q := (List.range n).foldl (fun q v => if q.any (·.1 == v) then q else spread es es.length ((v, 1, 1) :: q)) []
  (List.range es.length).find? fun k =>
    let e := es.getD k default
    match q.find? (·.1 == e.src), q.find? (·.1 == e.dst) with
    | some a, some b => a.2.1 * e.prod * b.2.2 != b.2.1 * e.cons * a.2.2
    | _, _ => false

/-- Takes away nodes that no left edge enters, `n` times. -/
def strip (es : List Edge) : Nat → List Nat → List Nat
  | 0, l => l
  | n + 1, l => strip es n (l.filter fun v => es.any fun e => e.dst == v && l.contains e.src)

/-- A node that is no converter with edges of two types (R360). -/
def typeBreach (conv : Nat → Bool) (n : Nat) (es : List Edge) : Option Nat :=
  (List.range n).find? fun v =>
    let mine := es.filter fun e => e.src == v || e.dst == v
    !conv v && mine.any fun e => mine.any fun d => d.fmt != e.fmt || d.wid != e.wid

/-- A tile record (R77): its tile and descriptor. -/
def tileRec (r : Nat) : Nat × W128 := (bits r 5 0, BitVec.ofNat 128 (bits r 191 64))
/-- The tile a record's descriptor defines. -/
def tileOf (d : W128) : Tile := Tile.ofDef (d.toNat % 2 ^ 64) (bits d.toNat 73 54)
/-- The fields a record must leave zero (R77). -/
def tileRecBad (roles : List Nat) (d : W128) : Bool :=
  bits d.toNat 34 33 != 0 || bits d.toNat 53 49 != 0 || bits d.toNat 127 74 != 0 || ((tileOf d).defFault roles).isSome
def ringRec (r : Nat) : Nat × Nat × Nat := (bits r 5 0, bits r 13 8, bits r 19 16)

/-- A ring record breaks R265 on a stall, after the tile records and the earlier ring records. -/
def ringsBad (x : Stall) (tiles : List (Nat × W128)) (rings : List (Nat × Nat × Nat)) : Bool :=
  let x := tiles.foldl (fun (x : Stall) t => x.modTile t.1 fun _ => tileOf t.2) x
  (rings.foldl (fun (p : Bool × Stall) r =>
    (p.1 || r.2.2 = 0 || p.2.ringBad r.2.1 r.1 r.2.2, applyTring p.2 r.2.1 r.1 r.2.2)) (false, x)).1

/-! Cuts (R320, R323, R362) -/

/-- The rank of a hall among all packages' halls, in (package, hall) order; this package's halls are 0 to 3. -/
def State.hallRank (s : State) (h : Nat) : Nat := if h < 4 then 4 * s.pkg.transport.pkgNum + h else h - 4

def insertBy (key : Nat → Nat) (a : Nat) : List Nat → List Nat
  | [] => [a]
  | b :: l => if key a < key b then a :: b :: l else if a = b then b :: l else b :: insertBy key a l

/-- The hall of a node (R362). -/
def nodeHall (c : Ctx) (cut : List (Nat × Nat)) (k : Nat) (pin : Option Nat) : Nat :=
  match pin with
  | some p => hallOfStall (c.params.pitch.getD p 0)
  | none => ((cut.find? (·.1 == k)).map (·.2)).getD (c.halls.headD 0)

/-- The home stall of a node (R362); 0 for a node of another package. -/
def State.homeOfNode (s : State) (c : Ctx) (cut : List (Nat × Nat)) (k : Nat) (pin : Option Nat) : Nat :=
  match pin with
  | some p => c.params.pitch.getD p 0
  | none => if nodeHall c cut k none < 4 then s.placeOn c.num (nodeHall c cut k none) (BitVec.ofNat 64 (k * 2 ^ 32)) else 0
/-- The token-FIFO banks of some stall hold less than the credits of the inputs at home there may bring (R340, R347, R358). -/
def State.fifoShort (s : State) (c : Ctx) (roles : List Nat) (cut : List (Nat × Nat)) (pins : List (Option Nat)) (es : List Edge) : Bool :=
  c.params.pitch.any fun st =>
    let here := fun (k : Nat) => decide (nodeHall c cut k (pins.getD k none) < 4) && s.homeOfNode c cut k (pins.getD k none) == st
    let n := ((es.filter fun e => here e.dst).map (·.depth)).foldl (· + ·) 0
    n != 0 && decide ((roles.filter (· == 1)).length * 16384 < n * Config.tokenBytes)

/-- The halls of the parts of an image, in ordinal order, from those of its nodes and of the cut (R310, R320). -/
def State.partsAt (s : State) (c : Ctx) (hs : List Nat) : List Nat :=
  (if hs.isEmpty then [c.halls.headD 0] else hs).foldl (fun l h => insertBy s.hallRank h l) []

def State.partsOf (s : State) (c : Ctx) (cut : List (Nat × Nat)) (nodes : List (Option Nat)) : List Nat :=
  s.partsAt c ((List.range nodes.length).map (fun k => nodeHall c cut k (nodes.getD k none)) ++ cut.map (·.2))

/-- A cut that cannot be placed: code 8, or 2 for a DET image of a confidential context (R300, R323, R358). -/
def State.cutBreach (s : State) (c : Ctx) (det : Bool) (parts : List Nat) : Option Nat :=
  let far := parts.any fun h => decide (4 ≤ h)
  if far && c.params.confid then some (if det then 2 else 8)
  else if (parts.any fun h => h < 4 && !c.halls.contains h) || (far && !s.halls.any fun (h : Hall) => !h.fuse.ports.isEmpty) then some 8
  else none

/-! The checks as a whole (R358) -/

/-- A breach found: the Losel code and where (the node or edge, or slot·2^56 + block address). -/
abbrev Breach := Nat × Nat

def pinOf (r : Nat) : Option Nat := if bits r 79 64 = 0xFFFF then none else some (bits r 79 64)

/-- The breaches of an image beside those of its form; an image with several fails with one of their codes. `segs` holds the
segments placed and relocated, when they could be. -/
def State.imageBreaches (s : State) (c : Ctx) (g : Img) (cut : List (Nat × Nat)) (segs : Option (List Seg)) : List Breach :=
  let n := g.nodes.length
  let es := g.edges.map edgeOf
  let good := !es.any (edgeBad g.nodes) && decide (n ≤ 4096)
  let consAt := fun (v : Nat) => ((es.filter (·.dst == v)).map (·.cons)).foldl (· + ·) 0
  let badNode := (List.range n).find? fun v =>
    let r := g.nodes.getD v 0
    decide (8 < nodeIn r) || decide (8 < nodeOutputs r) || decide (8 < consAt v) ||
      (List.range (nodeIn r)).any fun i => (es.filter fun e => e.dst == v && e.inp == i).length != 1
  let insts := s.insts.filter fun i => i.ctx == c.num && i.live
  let inForce := (s.stallD (c.params.pitch.headD 0)).roles
  let pins := g.nodes.map pinOf
  let parts := s.partsOf c cut pins
  let roleBad := decide ((g.roles.filter (· == 0)).length < 8) || g.roles.contains 3 || (!insts.isEmpty && g.roles != inForce)
  let tiles := g.tiles.map tileRec
  let x := fun (st : Nat) => { s.stallD st with roles := g.roles }
  let found : List (Bool × Breach) :=
    [(decide (4096 < n) || roleBad, (7, 0)), (badNode.isSome, (7, badNode.getD 0)), (es.any (edgeBad g.nodes), (7, 0)),
     (tiles.any fun t => tileRecBad g.roles t.2, (7, 0)),
     (c.params.pitch.any fun st => ringsBad (x st) tiles (g.rings.map ringRec), (7, 0)),
     (good && s.fifoShort c g.roles cut pins es, (7, 0)),
     (pins.any fun p => p.any fun k => decide (c.params.pitch.length ≤ k), (8, 0)),
     ((s.cutBreach c g.det parts).isSome, ((s.cutBreach c g.det parts).getD 0, 0)),
     (good && (rateBreach n es).isSome, (3, (rateBreach n es).getD 0)),
     (good && es.any fun e => decide (e.depth < e.prod + e.cons - Nat.gcd e.prod e.cons),
       (4, (List.range es.length).find? (fun k => let e := es.getD k default
         decide (e.depth < e.prod + e.cons - Nat.gcd e.prod e.cons)) |>.getD 0)),
     (good && !(strip es n (List.range n)).isEmpty, (6, (strip es n (List.range n)).headD 0))]
  let rest : List (Bool × Breach) := match segs with
    | none => [(true, (8, 0))]
    | some segs =>
      let blocks := (segs.filter (·.num < 128)).flatMap fun g => blocksOf (g.len / 16 + 1) g.va g.bytes
      let entries := g.nodes.map fun r => entryOf segs (bits r 47 40) (bits r 31 0)
      let lents := g.launches.map fun r => entryOf segs (bits r 47 40) (bits r 31 0)
      let conv := fun (v : Nat) => blocks.any fun b => some b.1 == entries.getD v none &&
        (parseSlots false b.2.2).any fun w => match w with | .instr i => i.converts | _ => false
      let broken := blocks.filterMap fun b => (loadBreach g.det g.strict b).map fun n => (b.1, n)
      let first := broken.foldl (fun (m : Option (Nat × Nat)) b => match m with | some a => if b.1 < a.1 then some b else m | none => some b) none
      [(entries.contains none || lents.contains none, (7, 0)), (first.isSome, (2, first.elim 0 fun p => p.2 * 2 ^ 56 + p.1)),
       (good && (typeBreach conv n es).isSome, (5, (typeBreach conv n es).getD 0))]
  ((found ++ rest).filter (·.1)).map (·.2)

/-- The segments of an image, placed and relocated; none is code 8 (R75, R78). -/
def State.segsOf (s : State) (c : Ctx) (g : Img) : Option (List Seg) :=
  let taken := (s.leaves c.num).map fun l => (l.va, 2 ^ l.lg)
  match placeSegs taken (g.segs.filter (·.va != 0) ++ g.segs.filter (·.va == 0)) with
  | none => none
  | some l => g.relocs.foldl (fun (a : Option (List Seg)) r => a.bind fun l => relocate l r) (some l)

/-! Mapping (R75, R386) -/

/-- Maps a segment's pages, `n` of them from index `k`, on the fresh pages given: the content page first, then any tables. -/
def State.mapSeg (g : Seg) : Nat → Nat → State × List Nat → Nat → Option (State × List Nat)
  | 0, _, p, _ => some p
  | n + 1, k, (s, pages), ctx =>
    match pages with
    | [] => none
    | pa :: ps =>
      if !s.freePage pa then none
      else
        let s := (s.zeroRun pa 4096).wrBytes pa ((g.bytes.drop (4096 * k)).take 4096)
        match s.mapEntry ctx (g.va + 4096 * k) 3 (pa + segFlags g.attr) (ps.filter (· != pa)) with
        | some p => mapSeg g n (k + 1) p ctx
        | none => none

def State.mapSegs (s : State) (ctx : Nat) (pages : List Nat) (segs : List Seg) : Option (State × List Nat) :=
  segs.foldl (fun (a : Option (State × List Nat)) g => a.bind fun p => State.mapSeg g (g.room / 4096) 0 p ctx) (some (s, pages))

/-! Configuration swap-in (R33, R391) -/

/-- The 64 KiB units that the tables map contiguously, aligned and alike, in ascending VA: (VA / 2^16, PA / 2^16, attributes). -/
def unitsOf (l : List Mapping) : List (Nat × Nat × Attr) :=
  (l.filter fun m => m.va % 65536 == 0 && m.pa % 65536 == 0).flatMap fun m =>
    if 16 ≤ m.lg then (List.range (2 ^ (m.lg - 16))).map fun k => (m.va / 65536 + k, m.pa / 65536 + k, m.attr)
    else if (List.range 16).all fun k => l.any fun e => e.va == m.va + 4096 * k && e.pa == m.pa + 4096 * k && e.attr == m.attr then
      [(m.va / 65536, m.pa / 65536, m.attr)]
    else []

/-- Joins units into range entries (R391). -/
def joinUnits : List (Nat × Nat × Attr) → List RangeEntry
  | [] => []
  | u :: us =>
    match joinUnits us with
    | e :: es =>
      if e.base = u.1 + 1 && e.pabase = u.2.1 + 1 && e.attr == u.2.2 then { e with base := u.1, pabase := u.2.1 } :: es
      else ⟨u.1, u.1, u.2.1, u.2.2, true⟩ :: e :: es
    | [] => [⟨u.1, u.1, u.2.1, u.2.2, true⟩]

/-- Rebuilds the range entries of the context's stalls and sets A, and D where W is 1, in the entries they come from (R391). -/
def State.buildRanges (s : State) (c : Ctx) : State :=
  let l := s.leaves c.num
  let rs := (joinUnits (unitsOf l)).take 16
  let s := (l.filter fun m => rs.any fun r => r.covers m.va).foldl (fun s m =>
    s.wrLE m.pte 8 (s.rdLE m.pte 8 ||| 0x20 ||| (if m.attr.w then 0x40 else 0))) s
  { s with stalls := s.stalls.map fun (e : Nat × Stall) => (e.1, if c.params.pitch.contains e.1 then { e.2 with ranges := rs } else e.2) }

/-- The stall's part of a swap-in: roles, zeroed banks, an empty block cache. -/
def Stall.swapIn (x : Stall) (roles : List Nat) : Stall :=
  let changed := fun (b : Nat) => x.roles.getD b 0 != roles.getD b 0
  { x with roles := roles, bcache := [], store := spDrop (fun a => changed (a / 16384)) x.store }

/-- A swap-in on one stall. Where a role changes, the rows of the tile store are numbered anew (R34): every page comes on chip, and the
backing is written whole under the new numbers, the zeroed banks' rows zero in it as well (R33, R455). -/
def State.swapStall (s : State) (roles : List Nat) (st : Nat) : State :=
  if (s.stallD st).roles == roles then s.modStall st fun x => x.swapIn roles
  else
    let s := ((s.stallD st).pagesUsed.foldl (fun s k => s.fillPage st k) s).modStall st fun x => x.swapIn roles
    (s.pagesOut st (s.stallD st).pagesUsed).modStall st fun x =>
      { x with resident := List.replicate 128 true, dirty := List.replicate 128 false }

/-- A configuration is swapped in on every stall of the pitch (R33). -/
def State.swapIn (s : State) (c : Ctx) (roles : List Nat) : State :=
  (c.params.pitch.foldl (fun s st => s.swapStall roles st) s).buildRanges c

/-! Loading (R355, R412) -/

/-- The record of a failed load (R61, R358): the stall of a code-2 breach is some stall of the pitch, for a block stands on none yet
(log 114). -/
def loadEntry (stall : Nat) (b : Breach) : LoadEntry :=
  if b.1 = 2 then { code := 2, hall := hallOfStall stall, stall := stall, blk := b.2 % 2 ^ 56, slot := b.2 / 2 ^ 56 }
  else { code := b.1, hall := hallOfStall stall, item := b.2 }

/-- A load fails (R355): it is logged with its hall and part, other packages that hold parts hear of it (R321), and each held packet that
names the image will be rejected with its code, in its turn (R352). -/
def State.failLoad (s : State) (c : Ctx) (va : Nat) (parts : List Nat) (b : Breach) : State :=
  let r := s.choose c.params.pitch
  let e := loadEntry (r.1.getD 0) b
  let part := if parts.contains e.hall then parts.idxOf e.hall else 0
  let s := if parts.any fun h => decide (4 ≤ h) then r.2.ueSend (.loadFailed c.num va e.hall part) else r.2
  s.modCtx c.num fun c =>
    { c with packets := c.packets.map fun p => if p.loads && p.image == va && !p.bad then { p with fail := some b.1 } else p,
             loadLog := c.loadLog ++ [{ e with part := part }] }

/-- The image as loaded: each node's hall and home stall are recorded (R362). -/
def State.loaded (s : State) (c : Ctx) (g : Img) (va : Nat) (segs : List Seg) (cut : List (Nat × Nat)) : Image :=
  let entry := fun (r : Nat) => (entryOf segs (bits r 47 40) (bits r 31 0)).getD 0
  { ctx := c.num, va := va, det := g.det, strict := g.strict, roles := g.roles,
    nodes := g.nodes.map fun r => (entry r, nodeIn r, nodeOutputs r, bits r 83 82, pinOf r), edges := g.edges.map edgeOf,
    launches := g.launches.map entry, tiles := g.tiles.map tileRec, rings := g.rings.map ringRec, cut := cut,
    homes := (List.range g.nodes.length).map fun k =>
      let pin := pinOf (g.nodes.getD k 0)
      (nodeHall c cut k pin, s.homeOfNode c cut k pin) }

/-- IMAGE_LOAD (R33, R61, R74-R78, R355, R358, R412): the image that the first held packet names. `cut` is where Losel places the
nodes, `pages` the fresh pages it maps on; where they do not suffice nothing happens. -/
def execImageLoad (ctx : Nat) (cut : List (Nat × Nat)) (pages : List Nat) (s : State) : Out :=
  .next <|
    match s.headPacket ctx fun p => p.loads && !p.bad && p.fail.isNone with
    | none => s
    | some (c, p) =>
        let va := p.image
        if s.images.any fun i => i.ctx == ctx && i.va == va then s
        else
          let raw := s.imageBytes ctx va
          match parseImage raw with
          | none => s.failLoad c va [] (1, 0)
          | some g =>
            let segs := s.segsOf c g
            let bad := s.imageBreaches c g cut segs
            match bad with
            | b0 :: _ =>
              let pick := s.choose (List.range bad.length)
              pick.2.failLoad c va (s.partsOf c cut (g.nodes.map pinOf)) (bad.getD (pick.1.getD 0) b0)
            | [] =>
              match s.mapSegs ctx pages (segs.getD []) with
              | none => s
              | some (s, _) =>
                let s := { s with images := s.images ++ [s.loaded c g va (segs.getD []) cut] }
                let s := s.modCtx ctx fun c =>
                  { c with chain := sha384 (digestBytes c.chain ++ digestBytes (sha384 raw)), nimg := c.nimg + 1 }
                if s.insts.any fun i => i.ctx == ctx && i.live then s else s.swapIn c g.roles

/-! Starting an instance (R77, R321, R348, R355) -/

/-- The tile and ring records enter every stall of the pitch as tile-table operations (R77). -/
def Image.records (m : Image) (st pos : Nat) : List Msg :=
  let hd : Hd := default
  let msg := fun (k : Nat) (i : Instr) (l r : Nat) =>
    ({ i := i, l := BitVec.ofNat 64 l, r := BitVec.ofNat 64 r, pp := 0, rm := 0, spc := 0, pos := pos,
       org := { Org.ofHall m.ctx (hallOfStall st) with stall := st, slot := k }, folds := [], seq := none } : Msg)
  let ts := (List.range m.tiles.length).map fun k =>
    let t := m.tiles.getD k (0, 0)
    msg k (.tdef hd (BitVec.ofNat 6 t.1)) (t.2.toNat % 2 ^ 64) (bits t.2.toNat 73 54)
  ts ++ (List.range m.rings.length).map fun k =>
    let r := m.rings.getD k (0, 0, 0)
    msg (m.tiles.length + k) (.tring hd (BitVec.ofNat 6 r.2.1) (BitVec.ofNat 6 r.1) (BitVec.ofNat 4 r.2.2)) 0 0

/-- A node as placed, at its recorded home (R362). -/
def Image.placeNode (m : Image) (parts : List Nat) (k : Nat) : Node :=
  let n := m.nodes.getD k (0, 0, 0, 0, none)
  let at_ := m.homes.getD k (0, 0)
  let ins := (List.range n.2.1).map fun i => (m.edges.find? fun e => e.dst == k && e.inp == i).getD default
  { blk := n.1, nin := n.2.1, prio := n.2.2.2.1, home := at_.2, part := parts.idxOf at_.1,
    credits := ins.map (·.depth), cons := ins.map (·.cons), fired := [] }

/-- The roles of an image agree with those in force, or no instance is live (R33). -/
def State.rolesOk (s : State) (c : Ctx) (m : Image) : Bool :=
  !(s.insts.any fun i => i.ctx == c.num && i.live) || m.roles == (s.stallD (c.params.pitch.headD 0)).roles

/-- Starts a new instance of a loaded image for a job; it takes a node launch slot; the image's tile and ring records
apply on the stalls of its parts (R77, R321 first phase, R348, R355). -/
def State.startInst (s : State) (c : Ctx) (m : Image) (slot job : Nat) : State :=
  let s := if s.insts.any fun i => i.ctx == c.num && i.live then s else s.swapIn c m.roles
  let parts := s.partsAt c (m.homes.map (·.1) ++ m.cut.map (·.2))
  let iid := s.nextId
  let x : Inst :=
    { iid := iid, ctx := c.num, image := m.va, det := m.det, live := true, cancelled := false, released := false, pending := 0, count := 0,
      nodeSlot := slot, nodes := (List.range m.nodes.length).map (m.placeNode parts), toks := [], parts := parts, job := some job,
      fnCtr := 1, waits := [], freed := [], ovf := [], broken := [] }
  let l : Launch := { Launch.taken c.num slot with node := true, live := true, inst := some iid }
  let s := { s with insts := s.insts ++ [x], launches := s.launches ++ [l], nextId := iid + 1 }
  let s := s.modJobrec c.num job fun j => { j with count := j.count + 1 }
  (c.params.pitch.filter fun st => parts.contains (hallOfStall st)).foldl (fun s st =>
    s.modStall st fun x => { x with commitPos := x.commitPos + 1, tops := x.tops ++ m.records st (x.commitPos + 1) }) s

end Sys2Proof.Machine
end

