-- ==== Sys2Proof/Machine/Ingress.lean ====
section
/-! DEFINITION. The ingress port and the completion queue (13_scheduling.md R351-R357): slots, packets and what each does (R336-R340,
R354, R428), the release of an instance's sources (R321), grants (R339), and the posting of entries (R356). -/
namespace Sys2Proof.Machine

/-! The port (R351, R352) -/

/-- The packet standing in a slot has been taken and not yet accepted. -/
def Ctx.slotBusy (c : Ctx) (k : Nat) : Bool :=
  (List.range (c.packets.filter (·.slotted)).length).any fun i => (c.taken + 64 - 1 - i) % 64 == k

/-- A confidential context's port takes packets only in RUN and on its IDE stream (R411). -/
def Ctx.portClosed (c : Ctx) (ide : Bool) : Bool := c.params.confid && !(c.tdisp == .run && ide)

/-- INGRESS_SLOT_WRITE (R351, R352, R411): word 7 of the next expected slot completes a packet. -/
def execIngressSlotWrite (ctx slot word : Nat) (val : W64) (ide : Bool) (s : State) : Out :=
  .next <|
    match s.ctx? ctx with
    | none => s
    | some c =>
      if 64 ≤ slot || 8 ≤ word then s
      else if c.portClosed ide then s.modCtx ctx fun c => { c with tdisp := .error, tdHalt := true }
      else if c.slotBusy slot then s.modCtx ctx fun c => { c with overrun := c.overrun + 1 }
      else
        let port := (slot, word, val) :: c.port.filter fun e => !(e.1 == slot && e.2.1 == word)
        if slot = c.taken % 64 && word = 7 then
          let ws := (List.range 8).map fun k => ((port.find? fun e => e.1 == slot && e.2.1 == k).map (·.2.2)).getD 0
          s.modCtx ctx fun c => { c with port := port, taken := c.taken + 1, packets := c.packets ++ [{ words := ws, slotted := true }] }
        else s.modCtx ctx fun c => { c with port := port }

/-! Packets (R353) -/

/-- The head packet has been applied: it is accepted, and the sources of its image may have stopped (R352, R355). -/
def State.accept (s : State) (ctx : Nat) (p : Packet) : State :=
  let s := s.modCtx ctx fun c =>
    { c with packets := c.packets.drop 1, accepted := if p.slotted then (c.accepted + 1) % 2 ^ 32 else c.accepted }
  (s.insts.filter fun i => i.ctx == ctx && i.image == p.image && i.live).foldl (fun s i => s.instSettle i.iid) s

/-- The head packet is accepted with a completion entry (R357). -/
def State.answer (s : State) (ctx : Nat) (p : Packet) (status detail : Nat) : State :=
  (s.accept ctx p).post ctx { cookie := p.cookie, status := status, kind := p.type, job := p.job, detail := detail, frees := none }

/-- Opens the job of a packet when no live job of that number exists (R354). -/
def State.openJob (s : State) (ctx num : Nat) : State :=
  if (s.jobrec? ctx num).any fun j => !j.complete then s
  else { s with jobrecs := (s.jobrecs.filter fun j => !(j.ctx == ctx && j.num == num)) ++ [{ ctx := ctx, num := num, count := 0, pending := 0, cancelled := false }] }

/-- The loaded image and its live instance. -/
def State.imageOf (s : State) (ctx va : Nat) : Option Image := s.images.find? fun i => i.ctx == ctx && i.va == va
def State.liveInst (s : State) (ctx va : Nat) : Option Inst := s.insts.find? fun i => i.ctx == ctx && i.image == va && i.live

/-- A failure in another package has rejected the packet that would have started an instance: the next one loads afresh (R321, R355). -/
def State.forgetParts (s : State) (ctx va : Nat) : State :=
  s.modCtx ctx fun c => { c with failedParts := c.failedParts.filter fun e => e.1 != va }

/-- The live instance that a packet joins, or a new one (R355), with the packet's job open (R354); the error is the Losel code that rejects the packet: roles that differ
from those in force (R33), no launch slot left for node firings, or a part that failed to load elsewhere (R321). -/
def State.joinInst (s : State) (c : Ctx) (m : Image) (job : Nat) : Except Nat (Nat × State) :=
  match s.liveInst c.num m.va with
  | some i => .ok (i.iid, s.openJob c.num job)
  | none =>
    if c.failedParts.any fun e => e.1 == m.va then .error 8
    else if !s.rolesOk c m then .error 7
    else
      match s.choose (s.freeSlots c.num) with
      | (none, _) => .error 7
      | (some k, s) =>
        let s := s.openJob c.num job
        .ok (s.nextId, s.startInst c m k job)

/-- The root frames of a launch packet, gated while GATE is above 0 (R336, R354, R361, R362). -/
def State.packetLaunch (s : State) (c : Ctx) (m : Image) (iid slot : Nat) (p : Packet) : State :=
  let b := p.body
  let n := bits b 63 56 + 1
  let gate := bits b 31 16
  let s := s.openJob c.num p.job
  let s := s.modJobrec c.num p.job fun j => { j with count := j.count + 1 }
  let l : Launch := { Launch.taken c.num slot with gate := gate, gated := gate != 0, det := m.det, packet := some (p.cookie, p.job), live := true,
                                                   inst := some iid, job := some p.job,
                                                   cancelled := s.bornCancelled c.num (some iid) (some p.job) }
  let s := { s with launches := s.launches ++ [l] }
  let tmpl : Frame :=
    { Frame.blank c.num 0 0 (m.launches.getD (bits b 15 0) 0) ⟨7, 0, 0, 0, false⟩ with
      ht := bits b 55 40, prio := bits b 33 32, det := m.det, launch := some slot, inst := some iid, job := some p.job,
      place := if gate = 0 then .callroom else .gated, captured := c.window.isSome }
  let hs := c.halls
  s.rootFrames tmpl slot (!m.det && decide (127 < n)) (p.words.getD 3 0) (fun i => hs.getD (i % hs.length) 0) n 0

/-- The sources of a context run: it is not pre-empted, nor is any of its stalls (R452 step 1). -/
def State.sourcesRun (s : State) (ctx : Nat) : Bool :=
  s.ctxRuns ctx && !s.stalls.any fun e => e.2.owner == some ctx && e.2.saved

/-- LAUNCH_PACKET (R24, R336, R354-R357). -/
def execLaunchPacket (ctx : Nat) (s : State) : Out :=
  .next <|
    match s.headPacket ctx fun p => p.type == 1 && s.sourcesRun ctx with
    | none => s
    | some (c, p) =>
      if p.bad then s.answer ctx p 5 0
      else
        match p.fail, s.imageOf ctx p.image with
        | some e, _ => s.answer ctx p 4 e
        | none, none => s
        | none, some m =>
          if !s.heatLive ctx (bits p.body 55 40) then s.answer ctx p 7 0
          else if m.launches.length ≤ bits p.body 15 0 then s.answer ctx p 5 0
          else if m.det && decide (127 < bits p.body 63 56 + 1) then s.answer ctx p 9 0
          else
            match s.choose (s.freeSlots ctx) with
            | (none, s) => s.answer ctx p 6 0
            | (some k, s1) =>
              -- the slot is taken before the instance may take another
              let held := { s1 with launches := s1.launches ++ [Launch.taken ctx k] }
              match held.joinInst c m p.job with
              | .error e => (s.answer ctx p 4 e).forgetParts ctx p.image
              | .ok (i, s) =>
                let s := { s with launches := s.launches.filter fun l => !(l.ctx == ctx && l.slot == k) }
                (s.packetLaunch c m i k p).accept ctx p

/-- TOKEN_PACKET (R340, R354, R355, R357): one sent by a grant comes behind its sender's writes (R215). It waits for a credit, and the port accepts nothing while it waits. -/
def execTokenPacket (ctx : Nat) (s : State) : Out :=
  .next <|
    match s.headPacket ctx fun p => p.type == 2 && s.sourcesRun ctx && !p.bar.any (fun n => s.flight.any (·.id == n)) with
    | none => s
    | some (c, p) =>
      if p.bad then s.answer ctx p 5 0
      else
        match p.fail, s.imageOf ctx p.image with
        | some e, _ => s.answer ctx p 4 e
        | none, none => s
        | none, some m =>
          let node := bits p.body 31 20
          let inp := bits p.body 18 16
          if m.nodes.length ≤ node || (m.nodes.getD node (0, 0, 0, 0, none)).2.1 ≤ inp then s.answer ctx p 8 0
          else
            match s.joinInst c m p.job with
            | .error e => (s.answer ctx p 4 e).forgetParts ctx p.image
            | .ok (i, t) =>
              if t.credits i node inp = 0 then s
              else
                let tag := BitVec.ofNat 16 (if p.body.testBit 35 then bits p.body 15 0 else 0)
                let o := { Org.ofHall ctx 0 with inst := some i, capt := c.window.isSome }
                (t.sendTok o i node inp tag (p.words.getD 3 0)).accept ctx p

/-- CANCEL_PACKET (R338, R354, R355, R357): at once and without a block. -/
def execCancelPacket (ctx : Nat) (s : State) : Out :=
  .next <|
    match s.headPacket ctx fun p => p.type == 3 with
    | none => s
    | some (_, p) =>
      if p.bad then s.answer ctx p 5 0
      else
        let lvl := bits p.body 2 0
        let obj := match lvl with
          | 2 => some (p.w 3 % 256)
          | 3 => some (p.w 3 % 65536)
          | 4 => (s.liveInst ctx p.image).map (·.iid)
          | _ => some p.job
        match obj with
        | none => s.answer ctx p 3 0
        | some o =>
          match s.cancelAdmit ctx lvl o with
          | none => s
          | some (st, s) =>
            if st = 0 then (((s.cancelDone ctx lvl o).cancelLevel ctx lvl o).levelSettle ctx lvl o).answer ctx p 0 0
            else s.answer ctx p (st + 1) 0

/-- A capture record (R424, R425): no frame, no stall. -/
def State.captureRecord (s : State) (c : Ctx) (ty cap job : Nat) : State :=
  if c.params.debuggable && c.trace.en && c.trace.typeOn ty then
    s.ringOffer c.num (c.params.pitch.headD 0) (bytesLE ((cap + job * 2 ^ 16) * 2 ^ 80 + c.num * 2 ^ 19 + 0x7FF * 2 ^ 8 + ty) 32)
  else s

/-- A capture record waits for room under STALL (R427). -/
def State.captureHeld (s : State) (c : Ctx) (ty : Nat) : Bool :=
  c.params.debuggable && c.trace.en && c.trace.typeOn ty && !c.trace.drop && (s.ringFull c || !c.trace.waiting.isEmpty)

/-- START_PACKET (R428). -/
def execStartPacket (ctx : Nat) (s : State) : Out :=
  .next <|
    match s.headPacket ctx fun p => p.type == 4 with
    | none => s
    | some (c, p) =>
      let n := bits p.body 15 0
      if p.bad || n = 0 || c.window.isSome then s.answer ctx p 5 0
      else if s.captureHeld c 9 then s
      else ((s.modCtx ctx fun c => { c with window := some n }).captureRecord c 9 n p.job).answer ctx p 0 0

/-- STOP_PACKET (R428). -/
def execStopPacket (ctx : Nat) (s : State) : Out :=
  .next <|
    match s.headPacket ctx fun p => p.type == 5 with
    | none => s
    | some (c, p) =>
      let n := bits p.body 15 0
      if p.bad || n = 0 || c.window != some n then s.answer ctx p 5 0
      else if s.captureHeld c 10 then s
      else ((s.modCtx ctx fun c => { c with window := none }).captureRecord c 10 n p.job).answer ctx p 0 0

/-- RESERVED_TYPE_PACKET (R353). -/
def execReservedTypePacket (ctx : Nat) (s : State) : Out :=
  .next <|
    match s.headPacket ctx fun p => p.type == 0 || decide (5 < p.type) with
    | none => s
    | some (_, p) => s.answer ctx p 5 0

/-! Sources (R321) -/

/-- Fires every key that is full, each as often as its tokens allow. -/
def State.fireAll (s : State) (i : Nat) : State :=
  match s.inst? i with
  | none => s
  | some x =>
    (x.toks.foldl (fun (l : List Tok) t => if l.any fun u => u.node == t.node && u.tag == t.tag then l else l ++ [t]) []).foldl
      (fun s t => s.fireKey i t.node t.tag x.toks.length) s

/-- INSTANCE_SOURCE_RELEASE (R321): part 0 releases the sources once every part has loaded; where a part in another package has
failed, every part ends. -/
def execInstanceSourceRelease (inst : Nat) (allLoaded : Bool) (s : State) : Out :=
  .next <|
    match s.inst? inst with
    | none => s
    | some x =>
      if x.released || !x.live then s
      else if allLoaded then
        let wait := fun (f : Frame) => if f.inst == some inst then { f with since := (s.stallD f.stall).cyc } else f
        ({ s with frames := s.frames.map wait }.modInst inst fun x => { x with released := true }).fireAll inst
      else if x.parts.any fun h => decide (4 ≤ h) then
        let r := s.choose ((List.range x.parts.length).filter fun k => decide (4 ≤ x.parts.getD k 0))
        let k := r.1.getD 0
        (r.2.modCtx x.ctx fun c => { c with loadLog := c.loadLog ++ [{ code := 8, hall := x.parts.getD k 0, part := k }] }).cancelInst inst
      else s

/-- INGRESS_GRANT_SET (R339). -/
def execIngressGrantSet (ctx idx : Nat) (target : Option Nat) (s : State) : Out :=
  .next <|
    if (s.ctx? ctx).isNone || 4096 ≤ idx || (match target with | some t => (s.ctx? t).isNone | none => false) then s.reply 1 []
    else (s.modCtx ctx fun c =>
      let l := c.grants.filter (·.1 != idx)
      { c with grants := match target with | some t => (idx, t) :: l | none => l }).reply 0 []

/-! The completion queue (R356) -/

/-- Entries the queue holds. -/
def Ctx.cqSize (c : Ctx) : Nat := c.params.cq.size / 16

/-- An entry as written (R356). -/
def CqEntry.value (e : CqEntry) (tail size : Nat) : Nat :=
  e.cookie % 2 ^ 32 * 2 ^ 96 + e.status % 256 * 2 ^ 88 + e.kind % 256 * 2 ^ 80 + e.job % 65536 * 2 ^ 64 + e.detail % 2 ^ 32 * 2 ^ 32 +
    (if tail / size % 2 = 0 then 1 else 0)

/-- COMPLETION_ENTRY_POST (R337, R356): the oldest waiting entry, once the queue has room and no cancelled heat that has drained
keeps its cells (R253, R478); the slot of a packet launch may then go. -/
def execCompletionEntryPost (ctx : Nat) (s : State) : Out :=
  .next <|
    match s.ctx? ctx with
    | none => s
    | some c =>
      match c.cqWaiting with
      | [] => s
      | e :: l =>
        if c.cqSize ≤ c.cqTail - c.cqHead || s.heats.any (fun x => x.ctx == ctx && s.heatDone x) then s
        else
          let s := s.vaWrite ctx (c.params.cq.va + 16 * (c.cqTail % c.cqSize)) (bytesLE (e.value c.cqTail c.cqSize) 16)
          let s := s.modCtx ctx fun c => { c with cqWaiting := l, cqTail := c.cqTail + 1 }
          match e.frees with
          | some k => s.modLaunch ctx k fun l => { l with posted := true }
          | none => s

/-- CQ_HEAD_WRITE (R356): `head` counts the entries consumed. -/
def execCqHeadWrite (ctx head : Nat) (s : State) : Out :=
  .next <|
    match s.ctx? ctx with
    | none => s.reply 1 []
    | some c =>
      if head < c.cqHead || c.cqTail < head then s.reply 1 [] else (s.modCtx ctx fun c => { c with cqHead := head }).reply 0 []

end Sys2Proof.Machine
end

