-- ==== Sys2Proof/Machine/Ways.lean ====
section
/-! DEFINITION. The shared cache and slice pairs (14_isolation.md R378, R383, R384, R400-R407): cache classes, delegating and releasing
a pair, the registers of a pair, a scratch-way change in its two phases, and the migration commands. -/
namespace Sys2Proof.Machine

/-! Cache classes -/

/-- The enabled slices that a command names (R383). -/
def State.slicesOf (s : State) (hall : Nat) (slice : Option Nat) : List Nat :=
  match slice with
  | none => (s.hallD hall).fuse.slices
  | some k => if (s.hallD hall).fuse.slices.contains k then [k] else []

/-- RATE once what is pending has taken effect. -/
def ClassEntry.rateNext (e : ClassEntry) : Nat := match e.pending with | some p => p.2 | none => e.rate

/-- The rates of the other classes at a slice. -/
def State.otherRates (s : State) (hall slice cls : Nat) : Nat :=
  (s.classes.filter fun e => e.hall == hall && e.slice == slice && e.cls != cls).foldl (fun n e => n + e.rateNext) 0

/-- CLASS_SET (R378, R383): it takes effect at the next admission boundary of each slice. -/
def execClassSet (hall : Nat) (slice : Option Nat) (cls : Nat) (ways : W16) (rate : Nat) (s : State) : Out :=
  .next <|
    let sl := s.slicesOf hall slice
    if sl.isEmpty || 64 ≤ cls || 4096 < rate || sl.any (fun k => decide (4096 < s.otherRates hall k cls + rate)) then s.reply 1 []
    else (sl.foldl (fun s k => s.putClass { s.classAt hall k cls with pending := some (ways, rate) }) s).reply 0 []

/-- An entry as CLASS_GET returns it (R384). -/
def ClassEntry.word (e : ClassEntry) : Nat := e.rate * 2 ^ 16 + e.ways.toNat

/-- CLASS_GET (R384): the entry, and the sectors served for the class in the last completed window. -/
def execClassGet (hall slice cls : Nat) (s : State) : Out :=
  .next <|
    if (s.slicesOf hall (some slice)).isEmpty || 64 ≤ cls then s.reply 1 []
    else let e := s.classAt hall slice cls; s.reply 0 [e.word, e.last]

/-- An entry at a window's boundary (R378, R383). -/
def ClassEntry.window (e : ClassEntry) : ClassEntry :=
  let e := match e.pending with | some p => { e with ways := p.1, rate := p.2, pending := none } | none => e
  { e with bucket := e.rate, last := e.served, served := 0 }

/-- ADMISSION_WINDOW (R378). -/
def execAdmissionWindow (hall slice : Nat) (s : State) : Out :=
  .next { s with classes := s.classes.map fun (e : ClassEntry) => if e.hall == hall && e.slice == slice then e.window else e }

/-! Slice pairs (R400-R405) -/

def Pair.ctrlPa (p : Pair) : Nat := 0xE * 2 ^ 48 + p.hall * 2 ^ 44 + p.pair * 2 ^ 38
def Pair.scratchPa (p : Pair) : Nat := 0xF * 2 ^ 48 + p.hall * 2 ^ 44 + p.pair * 2 ^ 38
def State.pair? (s : State) (hall pair : Nat) : Option Pair := s.pairs.find? fun p => p.hall == hall && p.pair == pair

/-- Scratch content of a range of ways is discarded: it reads zero when it is next present (R403). -/
def State.dropScratch (s : State) (p : Pair) (lo hi : Nat) : State :=
  let a := p.scratchPa + lo * 2 ^ 20
  let b := p.scratchPa + hi * 2 ^ 20
  let s := s.zeroRun a (b - a)
  s.modHall p.hall fun h => { h with lostScratch := h.lostScratch.filter fun e => !(decide (a ≤ e.1 * 128) && decide (e.1 * 128 < b)) }

/-- A change of ways begins (R403). -/
def Pair.begin_ (p : Pair) (n no : Nat) (o : Org) (rel : Bool) : Pair :=
  { p with wpr := n, err := 0, stt := 1, target := n, mark := no, releasing := rel, org := some o }

/-- The hurdle of a pair receives its arrival (R404); an address that does not translate is reported (R235). -/
def State.pairArrive (s : State) (p : Pair) (o : Org) : State :=
  if p.hva = 0 then s
  else
    let o := { o with stall := p.hall * 512 + 0x1FF }
    let bad := fun (c : Cls) => s.report o { cls := c, va := p.hva, eng := 7, wr := true }
    if p.hva % 16 != 0 then bad .address
    else
      match s.walkVa o.ctx p.hva with
      | .error c => bad c
      | .ok l =>
        match s.pageCheck (⟨true, true, true, false, false⟩ : Need) l.pa l.attr with
        | some c => bad c
        | none =>
          let a : Acc := ⟨o.ctx, 0, p.hva, 16, locsFrom p.hva l.pa 16 false⟩
          (s.ship o 0 (.hurdle a 1 1 true)).accessDone o.stall a true

/-- A store to WPR performs (R402). -/
def State.storeWpr (s : State) (p : Pair) (o : Org) (_ofs v : Nat) : State :=
  let n := v % 32
  if 16 < n then s.modPair p.hall p.pair fun p => { p with err := 2 }
  else if p.stt != 0 then s.modPair p.hall p.pair fun p => { p with err := 1 }
  else if n = p.cur then (s.modPair p.hall p.pair fun p => { p with err := 0, wpr := n }).pairArrive p o
  else s.modPair p.hall p.pair fun p => p.begin_ n s.pkg.acceptNo o false

/-- A committed store reaches a pair's control page (R235, R402): it performs in its frame's order, unless the pair has been taken
from the context since. -/
def State.controlStore (s : State) (k : Nat) (ofs : Nat → Bool) (f : State → Pair → Org → Nat → Nat → State) : State :=
  match s.flight[k]? with
  | none => s
  | some w =>
    match w.cargo with
    | .store a d _ _ =>
      if paKind a.pa != .control || !ofs (a.pa % 4096) || !s.writeOrder w || !s.writeClear w a then s
      else if s.accLost a false then (s.land k).writeError w a (s.locLost a false) .dataError
      else
        let s := (s.land k).countAccess w.org.stall a true
        match s.pairAt? a.pa with
        | some p => if p.owner == some w.org.ctx then f s p w.org (a.pa % 4096) d.toNat else s
        | none => s
    | _ => s

/-- WPR_WRITE (R402). -/
def execWprWrite (k : Nat) (s : State) : Out := .next (s.controlStore k (· == 0) State.storeWpr)

/-- REGISTER_WRITE (R401, R402): WPR_HURDLE takes its value, WPR_STATUS nothing. -/
def execRegisterWrite (k : Nat) (s : State) : Out :=
  .next (s.controlStore k (· != 0) fun s p _ ofs v =>
    if ofs = 16 then s.modPair p.hall p.pair fun p => { p with hva := v % 2 ^ 56 } else s)

/-- Jobs that phase 1 waits for: accepted before it began, with a scratch footprint in the removed range (R403). -/
def State.pairBusy (s : State) (p : Pair) : Bool :=
  s.stalls.any fun e => e.2.jobs.any fun (j : Job) => j.st != .held && decide (j.acceptNo ≤ p.mark) && j.scratch.any p.removing

/-- WPR_PHASE1_END (R403): with phase 2 the removed range is absent and its content gone, or the surrendered ways hold no line. -/
def execWprPhase1End (hall pair : Nat) (s : State) : Out :=
  .next <|
    match s.pair? hall pair with
    | none => s
    | some p =>
      if p.stt != 1 || s.pairBusy p then s
      else (if p.target < p.cur then s.dropScratch p p.target p.cur
            else s.dropLines fun x l => x.hall == hall && x.slice / 2 == pair && decide (16 ≤ l.way + p.target)).modPair hall pair
              fun p => { p with stt := 2 }

/-- The first VA of a held job's regions that lies in the removed range. -/
def State.heldVa (s : State) (p : Pair) (j : Job) : Nat :=
  let ps := [0, 1, 2].flatMap fun k => pagePieces (cardRegion j.card k).1 (cardRegion j.card k).2
  ((ps.find? fun q =>
    match s.walkVa j.m.org.ctx q.1 with
    | .ok l => l.attr.scratch && p.removing (bits l.pa 47 44, bits l.pa 43 38, bits l.pa 23 0, bits l.pa 23 0 + q.2)
    | .error _ => false).map (·.1)).getD 0

/-- Jobs held for the removed range are rejected (R404). -/
def State.rejectHeld (s : State) (p : Pair) : State :=
  s.stalls.foldl (fun s (e : Nat × Stall) =>
    (e.2.jobs.filter fun (j : Job) => j.st == .held && j.scratch.any p.removing).foldl (fun s (j : Job) =>
      (s.dropJob e.1 j).rejectMsg j.m { cls := .scratchAbsent, va := s.heldVa p j, heat := some j.heat, wr := false }) s) s

/-- A released pair: its pages leave the context's tables and translations (R405). -/
def State.takeBack (s : State) (p : Pair) : State :=
  match p.owner with
  | none => s
  | some ctx =>
    let mine := (s.leaves ctx).filter fun l =>
      (paKind l.pa == .control || paKind l.pa == .scratch) && bits l.pa 47 44 == p.hall && bits l.pa 43 38 == p.pair
    let s := mine.foldl (fun s l => s.wrLE l.pte 8 0) s
    let s := s.modPair p.hall p.pair fun p => { p with owner := none, ctrlVa := 0, hva := 0, err := 0, releasing := false, org := none }
    s.invalidate ctx (mine.map fun l => (l.va, 2 ^ l.lg))

/-- WPR_CHANGE_END (R404, R405). -/
def execWprChangeEnd (hall pair : Nat) (s : State) : Out :=
  .next <|
    match s.pair? hall pair with
    | none => s
    | some p =>
      if p.stt != 2 then s
      else
        let s := s.rejectHeld p
        let s := if p.cur < p.target then s.dropScratch p p.cur p.target else s
        let s := s.modPair hall pair fun p => { p with cur := p.target, stt := 0 }
        let s := match p.org with | some o => s.pairArrive p o | none => s
        if p.releasing then s.takeBack p else s

/-- PAIR_DELEGATE (R405): the pair's control page is mapped, readable and writable, at `va`. -/
def execPairDelegate (ctx hall pair va : Nat) (tables : List Nat) (s : State) : Out :=
  .next <|
    match s.ctx? ctx, s.pair? hall pair with
    | some _, some p =>
      if p.owner.isSome || p.stt != 0 || va % 4096 != 0 || decide (2 ^ 56 ≤ va) || s.vaMapped ctx va 4096 then s.reply 1 []
      else
        match s.mapEntry ctx va 3 (p.ctrlPa + 15) tables with
        | none => s.reply 1 []
        | some (t, _) => (t.modPair hall pair fun p => { p with owner := some ctx, ctrlVa := va }).reply 0 []
    | _, _ => s.reply 1 []

/-- PAIR_RELEASE (R405): WPR becomes 0 by the protocol of R403, after any change in progress; a window already 0 needs no change. The
acknowledged invalidation is the reply. -/
def execPairRelease (hall pair : Nat) (s : State) : Out :=
  .next <|
    match s.pair? hall pair with
    | none => s.reply 1 []
    | some p =>
      match p.owner with
      | none => s.reply 1 []
      | some ctx =>
        if p.stt != 0 then s
        else if p.cur = 0 then s.takeBack p
        else s.modPair hall pair fun p => p.begin_ 0 s.pkg.acceptNo (Org.ofHall ctx hall) true

/-- A context that has ended gives its pairs back: no accepted job works in them any more, and held jobs of others are rejected (R385,
R403, R404). -/
def State.dropPairs (s : State) (ctx : Nat) : State :=
  (s.pairs.filter fun p => p.owner == some ctx).foldl (fun s p =>
    ((s.rejectHeld { p with stt := 1, target := 0 }).dropScratch p 0 16).modPair p.hall p.pair fun p =>
      { p with owner := none, ctrlVa := 0, wpr := 0, cur := 0, stt := 0, target := 0, err := 0, hva := 0, releasing := false, org := none }) s

/-! Migration commands (R406, R407) -/

/-- MIGR_THRESH_SET. -/
def execMigrThreshSet (n : Nat) (s : State) : Out :=
  .next (if n = 0 || 32767 < n then s.reply 1 [] else { s with pkg := { s.pkg with migrThresh := n } }.reply 0 [])

/-- MIGR_CLEAR: QUEUED and COUNT of a host page are 0. -/
def execMigrClear (page : Nat) (s : State) : Out :=
  .next ({ s with pkg := { s.pkg with migr := s.pkg.migr.filter (·.1 != page) } }.reply 0 [])

end Sys2Proof.Machine
end

