-- ==== Sys2Proof/Machine/Context.lean ====
section
/-! DEFINITION. Contexts: creating, running, changing and destroying them (14_isolation.md R382, R385), pre-empting and resuming stalls
(16_recovery.md R452-R455), moving a context to another pitch (13_scheduling.md R365), and finding it stuck (R379). -/
namespace Sys2Proof.Machine

/-! Pre-emption (R452) -/

/-- Steps 1 and 2: speculative blocks go; a complete block commits, every other block is discarded. -/
def State.stopBlocks (s : State) (st : Nat) : State :=
  let mine := s.blocks.filter fun b => ((s.frame? b.fid).map (·.stall)).getD 2048 == st
  let s := (mine.filter (·.spec)).foldl (fun s b => s.discard1 b 0 0 0xFF) s
  (mine.filter (!·.spec)).foldl (fun s b =>
    match s.block? b.bid, s.frame? b.fid with
    | some b, some f =>
      if !s.mayCommit b f || (b.badHeatEnd.isNone && !s.creditsFor b) then s.discard b 0 3 0xFF
      else match b.badHeatEnd with
        | some n => s.blockFault b.bid n { cls := .heatState }
        | none => s.commitBlock b f
    | _, _ => s) s

/-- The plane array finishes a message of at most 1,024 cycles and stops a longer one at its next chunk (R123). -/
def State.stopPlane (s : State) (st : Nat) : State :=
  match (s.stallD st).pa with
  | none => s
  | some r =>
    if r.abandoned then s.paAbandon st r (r.chunk + 1)
    else if r.cycles ≤ 1024 || r.costs.length ≤ r.chunk + 1 then s.paFinish st { r with chunk := r.costs.length }
    else s.modStall st fun x => { x.modTile r.tc fun t => { t with rch := (r.chunk + 1) % 256 } with
        pa := some { r with chunk := r.chunk + 1, retried := 0 } }

/-- Vector rows, or groups, of a run as counted by VEC_ROWS. -/
def VecRun.rowUnit (r : VecRun) : Nat := match r.m.i with | .vqnt _ _ _ | .vdqnt _ _ => 4 | _ => 1

/-- The vector unit finishes a message of at most 1,024 cycles and stops a longer one at its next row or group (R164); at a second
pre-emption too the whole count decides (log 108). -/
def State.stopVector (s : State) (st : Nat) : State :=
  match (s.stallD st).vec with
  | none => s
  | some r =>
    let left := r.costs.length - r.rowsDone
    if r.abandoned then s.vecAbandon st r
    else if r.cycles ≤ 1024 || left ≤ 1 then (s.count st 5 (left * r.rowUnit)).vecFinish st { r with rowsDone := r.costs.length }
    else (s.count st 5 r.rowUnit).modStall st fun x => { x with vec := some { r with rowsDone := r.rowsDone + 1, retried := 0 } }

/-- Rounds in progress complete (R278). -/
def State.stopPorter (s : State) (st : Nat) : State :=
  (s.stallD st).jobs.foldl (fun s (j : Job) => match j.round with | some r => s.roundDone st j r false | none => s) s

/-- Step 3: the engines stop; issued SPE messages complete (R206). -/
def State.stopEngines (s : State) (st : Nat) : State :=
  let s := (s.stopPlane st).stopVector st
  let s := (s.stallD st).spe.foldl (fun s r => s.speFinish st r true) s
  s.stopPorter st

/-- Step 6: dirty pages go to their backing, and every page is unpinned (R455). -/
def State.writeBack (s : State) (st : Nat) : State :=
  let x := s.stallD st
  (s.pagesOut st (x.pagesUsed.filter fun k => x.dirty.getD k false)).modStall st fun x =>
    { x with dirty := List.replicate 128 false, pinned := List.replicate 128 false }

/-- Steps 4 to 6: frames leave the block engine, the state is saved. -/
def State.saveStall (s : State) (st : Nat) : State :=
  let gone := (s.frames.filter (·.stall == st)).map (·.fid)
  let s := { s with
    walks := s.walks.filter fun (w : Walk) => match w.who with | .fetch fid => !gone.contains fid | _ => true,
    frames := s.frames.map fun (f : Frame) =>
      if f.stall != st then f
      else { f with inTable := false, spill := none, fetched := none, fetching := false } }
  ((gone.foldl State.leaveEngine s).writeBack st).modStall st fun x => { x with saved := true }

/-- A round whose writes wait for a pending atomic keeps the porter from stopping (R243, R278). -/
def Stall.roundsWait (s : State) (x : Stall) : Bool := x.jobs.any fun (j : Job) => match j.round with | some r => s.roundWaits r | none => false

/-- A token to a node at home on the stall can arrive: it drains into the matching store first (R452 step 4). -/
def State.tokensDue (s : State) (st : Nat) : Bool :=
  s.flight.any fun w => match w.cargo with
    | .token i n _ _ _ => ((s.inst? i).any fun x => (x.nodes.getD n default).home == st) && s.tokenFirst w && s.behind w.org.fid w.id
    | _ => false

/-- A write of the stall's frames that no job holds back is on its way: saving the stall comes after it (R215). -/
def State.writesDue (s : State) (st : Nat) : Bool :=
  s.flight.any fun w => w.cargo.isWrite && w.org.stall == st && (w :: s.earlierWrites w).all fun e => e.cargo.acc?.all fun a => s.writeClear e a

/-- Pre-empts a stall (R452). Where a round, a token or a write must wait, only its blocks have stopped. -/
def State.preemptStall (s : State) (st : Nat) : State :=
  match s.stall? st with
  | none => s
  | some x =>
    if x.saved then s
    else
      let s := s.stopBlocks st
      if (s.stallD st).roundsWait s || s.tokensDue st || s.writesDue st then s else (s.stopEngines st).saveStall st

/-- PREEMPT (R452). -/
def execPreempt (st : Nat) (s : State) : Out :=
  .next <|
    match s.stall? st with
    | none => s.reply 1 []
    | some _ => let t := s.preemptStall st; if (t.stallD st).saved then t.reply 0 [] else s

/-! Stalls that change their number (R365, R452 step 7) -/

def Org.moved (o : Org) (f : Nat → Nat) : Org := { o with stall := f o.stall }
def Msg.moved (m : Msg) (f : Nat → Nat) : Msg := { m with org := m.org.moved f }

/-- The saved state of a stall as it stands on its image `y` (R33, R365, R455): tile rows are refilled from the backing, the block
cache, history and counters are those of a zeroed stall. -/
def Stall.movedTo (x y : Stall) (f : Nat → Nat) : Stall :=
  let ms := fun (l : List Msg) => l.map fun m => m.moved f
  { x with store := [], utlb := [], bcache := [], inPa := ms x.inPa, inVec := ms x.inVec, inSpe := ms x.inSpe, inPor := ms x.inPor,
           tops := ms x.tops, bars := ms x.bars, pa := x.pa.map fun r => { r with m := r.m.moved f, start := y.cyc, spent := r.spent + (x.cyc - r.start) },
           vec := x.vec.map fun r => { r with m := r.m.moved f, start := y.cyc, spent := r.spent + (x.cyc - r.start) }, spe := [], jobs := x.jobs.map fun (j : Job) => { j with m := j.m.moved f },
           counters := List.replicate 16 0, cyc := y.cyc, freq := y.freq, hist := [], tracedCommits := 0, suspect := y.suspect,
           pinned := List.replicate 128 false, resident := List.replicate 128 false, dirty := List.replicate 128 false, speNext := 0, paNext := 0,
           vecNext := 0, issued := false }

/-- A stall as it joins a pitch (R22, R455): zeroed, owned, its state saved. -/
def Stall.joined (x : Stall) (ctx : Nat) : Stall :=
  { Stall.zeroed x.cyc x.freq with owner := some ctx, saved := true, pinned := List.replicate 128 false, resident := List.replicate 128 false }

/-- A stall without an owner, zeroed under R22. -/
def Stall.freed (x : Stall) : Stall := { Stall.zeroed x.cyc x.freq with suspect := x.suspect }

/-- Everything of a context that names a stall names its image; recorded node homes too, and a waiting frame keeps its age by the new
stall's clock (R362, R363, R365). -/
def State.rename (s : State) (ctx : Nat) (f : Nat → Nat) (cyc : Nat → Nat) : State :=
  let mine := fun (o : Org) => o.ctx == ctx
  let s := { s with
    frames := s.frames.map fun (x : Frame) =>
      if x.ctx == ctx then { x with stall := f x.stall, since := if f x.stall == x.stall then x.since else cyc (f x.stall) - ((s.stallD x.stall).cyc - x.since) } else x,
    flight := s.flight.map fun (w : Flight) =>
      if mine w.org then { w with org := w.org.moved f, stall := f w.stall, cargo := match w.cargo with | .drain n st b => .drain n (f st) b | x => x } else w,
    recs := s.recs.map fun (r : Rec) =>
      if r.ctx == ctx then { r with org := r.org.moved f, jobRef := r.jobRef.map fun (j : Nat × Nat) => (f j.1, j.2) } else r,
    insts := s.insts.map fun (i : Inst) =>
      if i.ctx == ctx then { i with nodes := i.nodes.map fun (n : Node) => { n with home := f n.home }, toks := i.toks.map fun (t : Tok) => { t with org := t.org.moved f },
                                     ovf := i.ovf.map fun (e : Nat × W16 × Int) =>
                                       let st := (i.nodes.getD e.1 default).home
                                       (e.1, e.2.1, if f st == st then e.2.2 else cyc (f st) - ((s.stallD st).cyc - e.2.2)) }
      else i,
    images := s.images.map fun (m : Image) => if m.ctx == ctx then { m with homes := m.homes.map fun (e : Nat × Nat) => (e.1, f e.2) } else m,
    reds := s.reds.map fun (r : Red) => if r.ctx == ctx then { r with org := r.org.moved f } else r,
    pairs := s.pairs.map fun (p : Pair) => if p.owner == some ctx then { p with org := p.org.map fun (o : Org) => o.moved f } else p }
  s.modCtx ctx fun c => { c with params := { c.params with pitch := c.params.pitch.map f }, backings := c.backings.map fun (e : Nat × Nat) => (f e.1, e.2) }

/-- The number under which a context keeps the state it saved of a stall that now belongs to another pitch or is absent (log 133). -/
def displacedNo (ctx st : Nat) : Nat := 4096 * (ctx + 1) + st % 2048

/-- A stall whose state is saved is given up (R452 step 7): its state stays with its context under a number of its own, and the stall
is zeroed under R22. `lost` says that it is absent, so that its context waits for another pitch (R4, R458). -/
def State.displace (s : State) (st : Nat) (lost : Bool) : State :=
  match s.stall? st with
  | none => s
  | some x =>
    match x.owner with
    | none => s
    | some c =>
      let v := displacedNo c st
      let f := fun (n : Nat) => if n == st then v else n
      let kept := { x.movedTo (Stall.zeroed x.cyc x.freq) f with saved := true, suspect := lost }
      let s := s.rename c f fun _ => x.cyc
      { s with stalls := (s.stalls.map fun (e : Nat × Stall) => if e.1 == st then (e.1, e.2.freed) else e) ++ [(v, kept)] }

/-- The image of a stall: the stall of the same rank in the same hall of the new pitch. -/
def repitchMap (old new : List Nat) (st : Nat) : Nat :=
  let h := hallOfStall st
  ((new.filter (hallOfStall · == h))[(old.filter (hallOfStall · == h)).idxOf st]?).getD st

/-- Moves a context's state to a new pitch: each old stall's configuration is installed on its image, and a stall that joins takes the
bank roles in force (R33, R365) and a backing of its own, which holds zeros (R455). A stall that another context has given up leaves
that context first. -/
def State.moveTo (s : State) (c : Ctx) (f : Nat → Nat) (new : List Nat) : State :=
  let old := c.params.pitch
  let s := (new.filter fun st => (s.stallD st).owner != some c.num).foldl (fun s st => s.displace st false) s
  let place := fun (e : Nat × Stall) =>
    if new.contains e.1 then
      match old.find? fun o => f o == e.1 with
      | some o => some (e.1, if o == e.1 then { e.2 with bcache := [] } else (s.stallD o).movedTo e.2 f)
      | none => some (e.1, { e.2.joined c.num with roles := (s.stallD (old.headD 0)).roles })
    else if old.contains e.1 then (if e.1 < 4096 then some (e.1, e.2.freed) else none)
    else some e
  let joins := new.filter fun st => !old.any fun o => f o == st
  let free := (List.range new.length).filter fun k => !c.backings.any fun b => b.2 == k
  let t := { s.rename c.num f fun st => (s.stallD st).cyc with stalls := s.stalls.filterMap place }
  let t := t.modCtx c.num fun c => { c with params := { c.params with pitch := new }, backings := c.backings ++ joins.zip free }
  (List.range joins.length).foldl (fun t k => t.vaZero c.num (c.params.frameArea.va + free.getD k 0 * 2 ^ 19) (2 ^ 19)) t

/-- A context has given up stalls that are free again: they come back to it (R454). -/
def State.comeHome (s : State) (c : Ctx) : State :=
  let f := fun (n : Nat) =>
    let x := s.stallD (n % 2048)
    if n < 4096 || (s.stall? (n % 2048)).isNone || x.owner.isSome || x.suspect || (s.hallD (hallOfStall n)).st != .available then n else n % 2048
  if c.params.pitch.all fun n => f n == n then s else s.moveTo c f (c.params.pitch.map f)

/-! Resumption (R454) -/

/-- A stopped plane-array or vector message goes on (R123, R164); its count is that of what remains. -/
def Stall.resume (x : Stall) : Stall :=
  let sum := fun (l : List Nat) => l.foldl (· + ·) 0
  { x with saved := false, pa := x.pa.map fun r => { r with start := x.cyc, span := 4 + sum (r.costs.drop r.chunk), spent := r.spent + (x.cyc - r.start) },
           vec := x.vec.map fun r => { r with start := x.cyc, span := 6 + sum (r.costs.drop r.rowsDone), spent := r.spent + (x.cyc - r.start) },
           speNext := min x.speNext x.cyc, paNext := min x.paNext x.cyc, vecNext := min x.vecNext x.cyc }

/-- Resumes a saved stall whose context runs; a suspect stall waits for a reset of its hall (R458), and one that has been given up for
its context's return to a pitch (R452 step 7, log 133). -/
def State.resumeStall (s : State) (st : Nat) : State :=
  match s.stall? st with
  | none => s
  | some x =>
    match x.owner with
    | none => s
    | some c =>
      if !x.saved || x.suspect || decide (4096 ≤ st) || !s.ctxRuns c || (s.hallD (hallOfStall st)).st != .available then s
      else s.modStall st Stall.resume

/-- STALL_RESUME (R454). -/
def execStallResume (st : Nat) (s : State) : Out :=
  .next (let t := s.resumeStall st; if (s.stallD st).saved && !(t.stallD st).saved then t.reply 0 [] else s.reply 1 [])

/-- Every stall of a context is pre-empted. -/
def State.ctxIdle (s : State) (ctx : Nat) : Bool := s.stalls.all fun e => e.2.owner != some ctx || e.2.saved

/-! Creation (R382) -/

/-- Inserts a stall number in ascending order. -/
def insertNat (n : Nat) : List Nat → List Nat
  | [] => [n]
  | a :: l => if n ≤ a then n :: a :: l else a :: insertNat n l
def sortNat (l : List Nat) : List Nat := l.foldr insertNat []

/-- A pitch stall is free: enabled, of an AVAILABLE hall, not suspect, and of no other context or given up by one whose state is saved
(R21, R452 step 7, R458). -/
def State.stallFree (s : State) (ctx st : Nat) : Bool :=
  match s.stall? st with
  | some x => decide (st < 2048) && (x.owner.isNone || x.owner == some ctx || x.saved) && !x.suspect && (s.hallD (hallOfStall st)).st == .available
  | none => false

/-- A pitch that may be given to a context. -/
def State.pitchOk (s : State) (ctx : Nat) (l : List Nat) : Bool := !l.isEmpty && decide l.Nodup && l.all (s.stallFree ctx)

/-- Sizes within their limits (R356, R382). -/
def cqOk (r : Region) : Bool := r.size % 16 == 0 && decide (64 ≤ r.size / 16) && decide (r.size / 16 ≤ 65536)
def regionOk (r : Region) : Bool := decide (r.va + r.size ≤ 2 ^ 56)
def arenaOk (n : Nat) : Bool := decide (2 ^ 10 ≤ n) && decide (n ≤ 2 ^ 24)
def poolOk (n : Nat) : Bool := decide (1 ≤ n) && decide (n ≤ 65535)

/-- Two regions of an address space share no byte. -/
def regionsApart (a b : Region) : Bool := a.size == 0 || b.size == 0 || decide (a.va + a.size ≤ b.va) || decide (b.va + b.size ≤ a.va)

/-- The pools and rings of a context stand in space of their own (R382, log 123). -/
def paramsApart (p : CtxParams) : Bool :=
  let l := [p.future, p.frameArea, p.faultLog, p.cq, p.trace]
  (List.range 5).all fun i => (List.range i).all fun j => regionsApart (l.getD i default) (l.getD j default)

/-- DRAM has room for the arenas and root tables of the other contexts and of one more with an arena of `n` slots (R382, log 123). -/
def State.arenaRoom (s : State) (ctx n : Nat) : Bool :=
  decide ((s.ctxs.filter (·.num != ctx)).foldl (fun k c => k + 128 * c.params.arena + 2 ^ 20) (128 * n + 2 ^ 20) ≤ 2 ^ 38)

/-- The limits of CTX_CREATE, and stalls and space that are free. -/
def State.createOk (s : State) (p : CtxParams) : Bool :=
  paramsApart p && s.arenaRoom p.num p.arena &&
  decide (p.num < 512) && (s.ctx? p.num).isNone && p.rtp % 2 ^ 20 == 0 && decide (p.rtp < 2 ^ 52) && paKind p.rtp == .dram &&
    !s.paMapped (fun _ => true) p.rtp (2 ^ 20) && decide (p.cls < 64) && s.pitchOk p.num p.pitch && poolOk p.heatPool && arenaOk p.arena &&
    backingsFit p.frameArea p.pitch &&
    [p.future, p.frameArea, p.faultLog, p.cq, p.trace].all regionOk && cqOk p.cq && decide (p.redLimit ≤ 4096) && decide (p.function < 256)

/-- A trace ring in a region: not enabled, every field at its reset value (R382, R426, log 124). -/
def traceIn (r : Region) : Trace :=
  { base := r.va, ctl := BitVec.ofNat 64 (0xFF * 2 ^ 40), wptr := 0, lost := 0, lostTotal := 0,
    walk := 0, waiting := [] }

/-- A new context: pre-empted, nothing loaded (R382). -/
def Ctx.fresh (p : CtxParams) (key : Option (BitVec 512)) : Ctx :=
  { num := p.num, params := p, preempted := true, blocked := false, lostPages := false, pool := [], reserved := [], hentry := 0, flcnt := 0,
    logNext := 0, logUsed := [], port := [], taken := 0, accepted := 0, overrun := 0, packets := [], cqWaiting := [], cqTail := 0, cqHead := 0,
    dropped := 0, grants := [], chain := 0, nimg := 0, loadLog := [], bps := List.replicate 8 0, wps := List.replicate 8 0,
    trace := traceIn p.trace, window := none,
    counters := List.replicate 16 0, tdisp := .unlocked, stuckArmed := true, tdHalt := false, key := key,
    backings := p.pitch.zip (List.range p.pitch.length), failedParts := [] }

/-- CTX_CREATE (R22, R382, R386, R410, R460): in SPREAD mode it waits for all halls. -/
def execCtxCreate (p : CtxParams) (s : State) : Out :=
  .next <|
    if s.pkg.interleave == .spread && !s.halls.all (fun (h : Hall) => h.st == .available) then s
    else if !s.createOk p then s.reply 1 []
    else
      let p := { p with pitch := sortNat p.pitch }
      let s := (p.pitch.foldl (fun s st => s.displace st false) s).zeroRun p.rtp (2 ^ 20)
      let s := { s with draws := if p.confid then s.draws + 1 else s.draws,
                        ctxs := s.ctxs ++ [Ctx.fresh p (if p.confid then some (Config.drawKey s.draws) else none)],
                        stalls := s.stalls.map fun (e : Nat × Stall) => (e.1, if p.pitch.contains e.1 then e.2.joined p.num else e.2) }
      s.reply 0 []

/-! Running (R382, R435, R437) -/

/-- A stall of the pitch is suspect or absent: the context waits for another pitch (R4, R458). -/
def State.pitchBad (s : State) (c : Ctx) : Bool := c.params.pitch.any fun st => (s.stallD st).suspect

/-- CTX_RUN: refused where COLD reset lost pages, while a confidential context's interface is in ERROR, or where a stall of the pitch
is suspect or absent (R4, R411, R458, R462). -/
def execCtxRun (ctx : Nat) (s : State) : Out :=
  .next <|
    match s.ctx? ctx with
    | none => s.reply 1 []
    | some c =>
      if c.lostPages || c.tdHalt || s.pitchBad c then s.reply 1 []
      else
        let s := (s.modCtx ctx fun c => { c with preempted := false, blocked := false }).comeHome c
        let s := (s.recs.filter fun r => r.ctx == ctx && r.status == 3).foldl (fun s r => s.freeRec r) s
        let pitch := ((s.ctx? ctx).map (·.params.pitch)).getD []
        (pitch.foldl (fun s st => s.resumeStall st) s).reply 0 []

/-! Destruction (R385) -/

/-- Everything of a context goes. -/
def State.eraseCtx (s : State) (ctx : Nat) : State :=
  let mine := fun (f : Frame) => f.ctx == ctx
  let fids := (s.frames.filter mine).map (·.fid)
  let iids := (s.insts.filter fun i => i.ctx == ctx).map (·.iid)
  let waves := s.flight.filterMap fun (w : Flight) => match w.cargo with | .drain n _ _ => if w.org.ctx == ctx then some n else none | _ => none
  let s := (s.frames.filter fun f => mine f && f.handler).foldl (fun s f => s.modHall f.ctxHall fun h => { h with hfree := h.hfree + 1 }) s
  { s with
    frames := s.frames.filter fun (f : Frame) => f.ctx != ctx,
    blocks := s.blocks.filter fun (b : Block) => !fids.contains b.fid,
    ops := s.ops.filter fun (o : MemOp) => o.org.ctx != ctx,
    flight := s.flight.filter fun (w : Flight) => w.org.ctx != ctx,
    walks := s.walks.filter fun (w : Walk) => w.ctx != ctx,
    conts := s.conts.filter fun (c : Cont) => c.ctx != ctx,
    origins := s.origins.filter fun (e : Nat × Nat × Arrival) => e.1 != ctx,
    copies := s.copies.filter fun (k : Copy) => k.ctx != ctx,
    fences := s.fences.filter fun (e : Nat × Nat × Ord) => !fids.contains e.1,
    recs := s.recs.filter fun (r : Rec) => r.ctx != ctx,
    launches := s.launches.filter fun (l : Launch) => l.ctx != ctx,
    heats := s.heats.filter fun (h : Heat) => h.ctx != ctx,
    jobrecs := s.jobrecs.filter fun (j : JobRec) => j.ctx != ctx,
    insts := s.insts.filter fun (i : Inst) => i.ctx != ctx,
    images := s.images.filter fun (i : Image) => i.ctx != ctx,
    reds := s.reds.filter fun (r : Red) => r.ctx != ctx,
    made := s.made.filter fun (m : Nat × Nat × Nat) => m.1 != ctx,
    cells := spDrop (fun a => decide (cellKey ctx 0 0 ≤ a) && decide (a < cellKey (ctx + 1) 0 0)) s.cells,
    halls := s.halls.map fun (h : Hall) =>
      { h with tlb := h.tlb.filter fun (t : Tlb) => t.ctx != ctx, xstore := h.xstore.filter fun (t : RemoteTile) => !iids.contains t.inst,
               xtaken := h.xtaken.filter fun k => !iids.contains k.1 },
    stalls := s.stalls.filterMap fun (e : Nat × Stall) =>
      if e.2.owner != some ctx then some e else if e.1 < 4096 then some (e.1, e.2.freed) else none,
    pkg := { s.pkg with drains := s.pkg.drains.filter fun (d : Nat × Nat) => !waves.contains d.1 },
    ctxs := (s.ctxs.filter fun (c : Ctx) => c.num != ctx).map fun (c : Ctx) => { c with grants := c.grants.filter fun (g : Nat × Nat) => g.2 != ctx } }

/-- A job of another context, accepted on the scratch window of a pair of `ctx`, is not done (R403, R405). -/
def State.pairsBusy (s : State) (ctx : Nat) : Bool :=
  s.pairs.any fun p => p.owner == some ctx &&
    s.stalls.any fun e => e.2.jobs.any fun (j : Job) =>
      j.m.org.ctx != ctx && j.st != .held && j.scratch.any { p with stt := 1, target := 0 }.removing

/-- CTX_DESTROY (R385): the context is pre-empted; once its stalls have stopped, its committed writes have performed and no other
context's job works in its pairs, it goes, and its pairs are released. -/
def execCtxDestroy (ctx : Nat) (s : State) : Out :=
  .next <|
    match s.ctx? ctx with
    | none => s.reply 1 []
    | some c =>
      let s := c.params.pitch.foldl (fun s st => s.preemptStall st) s
      let s := s.modCtx ctx fun c => { c with preempted := true }
      if !s.ctxIdle ctx || s.flight.any (fun w => w.org.ctx == ctx && w.cargo.isWrite) || s.pairsBusy ctx then s
      else (((s.sealPages c).eraseCtx ctx).dropPairs ctx).reply 0 []

/-! Changes (R20, R382) -/

/-- The changes keep the limits; the arena and the future pool only grow. -/
def changeOk (p : CtxParams) (c : CtxChange) : Bool :=
  c.cls.all (fun n => decide (n < 64)) && c.heatPool.all poolOk && c.arena.all (fun n => arenaOk n && decide (p.arena ≤ n)) &&
    c.future.all (fun n => decide (p.future.size ≤ n) && decide (p.future.va + n ≤ 2 ^ 56)) &&
    c.frameArea.all (fun r => regionOk r && backingsFit r p.pitch) &&
    c.faultLog.all regionOk && c.trace.all regionOk && c.cq.all (fun r => regionOk r && cqOk r) && c.redLimit.all (fun n => decide (n ≤ 4096))

def changeParams (p : CtxParams) (c : CtxChange) : CtxParams :=
  { p with cls := c.cls.getD p.cls, heatPool := c.heatPool.getD p.heatPool, arena := c.arena.getD p.arena,
           future := { p.future with size := c.future.getD p.future.size }, frameArea := c.frameArea.getD p.frameArea,
           faultLog := c.faultLog.getD p.faultLog, cq := c.cq.getD p.cq, trace := c.trace.getD p.trace, redLimit := c.redLimit.getD p.redLimit }

/-- The frame area moves: every tile backing goes with it (R455). -/
def State.moveArea (s : State) (c : Ctx) (r : Region) : State :=
  let bs := c.backings.map fun b => (b.2, s.vaBytes c.num (c.params.frameArea.va + b.2 * 2 ^ 19) (2 ^ 19))
  bs.foldl (fun s b => s.vaPut c.num (r.va + b.1 * 2 ^ 19) b.2) s

/-- CTX_CHANGE: only while the context is pre-empted. A queue or log that moves starts afresh; new cells of the future pool are
formatted where they are mapped. -/
def execCtxChange (ctx : Nat) (ch : CtxChange) (s : State) : Out :=
  .next <|
    match s.ctx? ctx with
    | none => s.reply 1 []
    | some c =>
      if !s.ctxIdle ctx || !changeOk c.params ch || !paramsApart (changeParams c.params ch) ||
          !s.arenaRoom ctx (ch.arena.getD c.params.arena) then s.reply 1 []
      else
        let end_ := c.params.future.va + c.params.future.size
        let s := match ch.frameArea with | some r => s.moveArea c r | none => s
        let s := s.modCtx ctx fun c =>
          let c := { c with params := changeParams c.params ch }
          let c := if ch.cq.isSome then { c with cqTail := 0, cqHead := 0 } else c
          let c := match ch.trace with | some r => { c with trace := traceIn r } | none => c
          if ch.faultLog.isSome then { c with logNext := 0 } else c
        let s := match ch.future with | some n => s.formatCells ctx end_ (c.params.future.va + n - end_) | none => s
        (s.flushRecs ctx s.recs.length).reply 0 []

/-! Re-pitching (R365) -/

/-- REPITCH (R20, R33, R365): refused where a hall would have fewer stalls than before, or the frame area cannot hold the backings (R455). -/
def execRepitch (ctx : Nat) (pitch : List Nat) (s : State) : Out :=
  .next <|
    match s.ctx? ctx with
    | none => s.reply 1 []
    | some c =>
      let new := sortNat pitch
      let fewer := (List.range 4).any fun h => decide ((new.filter (hallOfStall · == h)).length < (c.pitchIn h).length)
      if !s.ctxIdle ctx || !s.pitchOk ctx new || fewer || !backingsFit c.params.frameArea new then s.reply 1 []
      else
        let s := s.moveTo c (repitchMap c.params.pitch new) new
        match s.ctx? ctx with
        | some c => (if s.images.any (·.ctx == ctx) then s.buildRanges c else s).reply 0 []
        | none => s

/-- Firmware re-pitches a context with a suspect stall whose stalls are all pre-empted onto a free enabled stall of the same hall, if
one exists, and the context runs on (R458, log 71). -/
def State.replaceSuspect (s : State) (c : Ctx) : State :=
  match c.params.pitch.find? fun st => st < 2048 && (s.stallD st).suspect with
  | none => s
  | some st =>
    if !s.ctxIdle c.num then s
    else
      let free := (s.stalls.filter fun e => hallOfStall e.1 == hallOfStall st && e.2.owner.isNone && s.stallFree c.num e.1).map (·.1)
      match s.choose free with
      | (none, _) => s
      | (some y, s) =>
        let new := sortNat (c.params.pitch.map fun n => if n == st then y else n)
        let s := s.moveTo c (repitchMap c.params.pitch new) new
        match s.ctx? c.num with
        | some d => d.params.pitch.foldl (fun s st => s.resumeStall st) (if s.images.any (·.ctx == d.num) then s.buildRanges d else s)
        | none => s
def State.replaceSuspects (s : State) : State := s.ctxs.foldl (fun s c => s.replaceSuspect c) s

/-! Stuck contexts (R379) -/

/-- A frame that waits on others: held, parked, behind a gate, or behind inline children (R346, R361, R451). -/
def Frame.waits (f : Frame) : Bool := f.held || f.place == .parked || f.place == .gated || f.place == .inlineWait

/-- Engine work of a stall, queued or running. -/
def Stall.busy (x : Stall) : Bool :=
  !x.allWork.isEmpty || !x.bars.isEmpty || !x.jobs.isEmpty

/-- Tokens wait at a node for others of their key (R379). -/
def State.keysWait (s : State) (ctx : Nat) : Bool := s.insts.any fun i => i.ctx == ctx && i.live && i.released && !i.toks.isEmpty

/-- The conditions of R379, and no frame is stopped (R423); a held frame whose handler frame is yet to come does not count (R451, log 76). -/
def State.stuck (s : State) (ctx : Nat) : Bool :=
  let live := s.frames.filter fun f => f.ctx == ctx
  s.sourcesRun ctx && ((live.any fun f => !f.handler) || s.keysWait ctx) && live.all (fun f => f.waits && f.stopped.isNone) &&
    !(s.recs.any fun r => r.ctx == ctx && r.heldFid.isSome && decide (r.status < 2)) &&
    !(s.stalls.any fun e => e.2.owner == some ctx && e.2.busy) && !(s.flight.any fun w => w.org.ctx == ctx) &&
    !(s.walks.any fun w => w.ctx == ctx) && !(s.ops.any fun o => o.org.ctx == ctx && o.old.isNone) &&
    !(s.insts.any fun i => i.ctx == ctx && ((i.live && i.toks.any fun t => (i.takes t.node t.tag).isSome) ||
      s.halls.any fun (h : Hall) => h.xstore.any fun t => t.inst == i.iid)) &&
    ((s.ctx? ctx).map fun c => c.packets.isEmpty).getD false

/-- STUCK_DETECTION (where only keys wait, no frame is named and the count is 0, log 76): one record, HEAT_EXHAUSTED where a frame waits for a heat tag, else DEADLOCK. -/
def execStuckDetection (ctx : Nat) (s : State) : Out :=
  .next <|
    match s.ctx? ctx with
    | none => s
    | some c =>
      if !c.stuckArmed || !s.stuck ctx then s
      else
        let fs := s.frames.filter fun f => f.ctx == ctx && !f.handler
        let heat := s.blocks.any fun b => (fs.any fun f => f.fid == b.fid) && b.waits.any fun w => w.2 == .heatPool
        let o := match leastBy (fun f => f.fn.toNat) fs with
          | some f => f.org (((s.blockOf f.fid).map (·.addr)).getD f.next) 0xFF 0 false
          | none => Org.ofHall ctx (c.halls.headD 0)
        (s.modCtx ctx fun c => { c with stuckArmed := false }).enterRec (.make o
          { cls := if heat then .heatExhausted else .deadlock, extra := BitVec.ofNat 64 fs.length, eng := 6 } none false none)

end Sys2Proof.Machine
end

