-- ==== Sys2Proof/Machine/Debug.lean ====
section
/-! DEFINITION. Attestation (14_isolation.md R411-R413), the debugger's commands (15_trace.md R414-R423), the trace ring's controls
(R426, R427), the steps of a critical-path walk (R430), and counters as the mailbox shows them (R431, R433). Statuses of a reply:
0 done, 1 refused, 2 NOT_DEBUGGABLE, 3 SEALED, 4 GONE (DESIGN CHOICE, log 61). -/
namespace Sys2Proof.Machine

/-! Attestation (R412) -/

/-- Exactly `n` bytes. -/
def fitBytes (n : Nat) (l : List Byte) : List Byte := (l ++ List.replicate n 0).take n

/-- Bytes 0 to 207 of the report. -/
def Ctx.reportBody (c : Ctx) (nonce : BitVec 256) : List Byte :=
  bytesLE 1 4 ++ bytesLE c.num 2 ++ bytesLE (b2n c.params.debuggable + 2 * b2n c.params.confid) 2 ++ bytesLE c.params.pitch.length 4 ++
    bytesLE c.nimg 4 ++ bytesLE nonce.toNat 32 ++ digestBytes Config.firmwareHash ++ digestBytes c.chain ++
    digestBytes Config.deviceIdHash ++ List.replicate 16 0

/-- ATTEST (R412, R413): the report with its two signatures. -/
def execAttest (ctx : Nat) (nonce : BitVec 256) (s : State) : Out :=
  .next <|
    match s.ctx? ctx with
    | none => s.reply 1 []
    | some c =>
      let b := c.reportBody nonce
      s.reply 0 ((b ++ fitBytes 384 (Config.signRsa b) ++ fitBytes 7856 (Config.signSlh b)).map (·.toNat))

/-! TDISP (R411) -/

/-- The next state of an interface; none where the request does not fit the state. -/
def Tdisp.next? : Tdisp → TdispReq → Option Tdisp
  | .unlocked, .lock => some .locked
  | .locked, .run => some .run
  | .locked, .stop | .run, .stop | .locked, .unlock | .error, .unlock => some .unlocked
  | _, _ => none

/-- TDISP_REQUEST: an interface that runs again after an ERROR lets its context go on. -/
def execTdispRequest (ctx : Nat) (req : TdispReq) (s : State) : Out :=
  .next <|
    match s.ctx? ctx with
    | none => s.reply 1 []
    | some c =>
      match (if c.params.confid then c.tdisp.next? req else none) with
      | none => s.reply 1 []
      | some t =>
        let s := s.modCtx ctx fun c => { c with tdisp := t, tdHalt := c.tdHalt && !(t == .run) }
        (if t == .run && c.tdHalt then c.params.pitch.foldl (fun s st => s.resumeStall st) s else s).reply 0 []

/-! Who may debug (R414, R415) -/

/-- The command comes from a source that R415 allows: `ok` says so of the sender, and a confidential interface must be in RUN. -/
def Ctx.sourceOk (c : Ctx) (ok : Bool) : Bool := ok && (!c.params.confid || c.tdisp == .run)

/-- Runs a debug command on a context it may be used on. -/
def State.debug (s : State) (ctx : Nat) (ok : Bool) (k : Ctx → State) : State :=
  match s.ctx? ctx with
  | none => s.reply 1 []
  | some c => if !c.sourceOk ok then s.reply 3 [] else if !c.params.debuggable then s.reply 2 [] else k c

/-- The frame of a reference in a context. -/
def State.byRef (s : State) (ctx ref : Nat) : Option Frame := s.frames.find? fun f => f.ctx == ctx && f.fref == ref

/-- DBG_BP (R416): reserved bits read 0. -/
def execDbgBp (ctx idx : Nat) (entry : W64) (sealedOk : Bool) (s : State) : Out :=
  .next <| s.debug ctx sealedOk fun _ =>
    if 8 ≤ idx then s.reply 1 []
    else (s.modCtx ctx fun c => { c with bps := c.bps.set idx (entry &&& 0x00FFFFFFFFFFFFF1) }).reply 0 []

/-- A watchpoint entry's LSZ and BASE are within their limits (R416). -/
def wpOk (e : W128) : Bool :=
  let lsz := bits e.toNat 108 104
  decide (3 ≤ lsz) && decide (lsz ≤ 30) && bits e.toNat 55 0 % 2 ^ lsz == 0

/-- DBG_WP (R416). -/
def execDbgWp (ctx idx : Nat) (entry : W128) (sealedOk : Bool) (s : State) : Out :=
  .next <| s.debug ctx sealedOk fun _ =>
    if 8 ≤ idx || !wpOk entry then s.reply 1 []
    else (s.modCtx ctx fun c => { c with wps := c.wps.set idx (entry.extractLsb' 104 24 ++ (0 : BitVec 48) ++ entry.extractLsb' 0 56) }).reply 0 []

/-- DBG_HALT (R421): frames without a block in flight stop as the action ends. -/
def execDbgHalt (ctx : Nat) (slot : Option Nat) (sealedOk : Bool) (s : State) : Out :=
  .next <| s.debug ctx sealedOk fun _ =>
    let inScope := fun (f : Frame) => f.ctx == ctx && f.stopped.isNone && (match slot with | some k => f.launch.orElse (fun _ => f.nodeLaunch) == some k | none => true)
    match slot.map fun k => (s.launch? ctx k).isNone with
    | some true => s.reply 1 []
    | _ => { s with frames := s.frames.map fun (f : Frame) => if inScope f then { f with halt := true } else f }.reply 0 []

/-- DBG_RESUME (R422); of a held frame it answers GONE (R451). -/
def execDbgResume (ctx ref : Nat) (pass stp sealedOk : Bool) (s : State) : Out :=
  .next <| s.debug ctx sealedOk fun _ =>
    match s.byRef ctx ref with
    | none => s.reply 4 []
    | some f =>
      if f.held then s.reply 4 []
      else if f.stopped.isNone then s.reply 1 []
      else (s.modFrame f.fid fun f =>
        { f with stopped := none, pass := pass, stp := stp, since := (s.stallD f.stall).cyc }).reply 0 []

/-- A number that may be absent, as DBG_READ returns it: one more than the number, or 0. -/
def numberOr0 (n : Option Nat) : Nat := (n.map (· + 1)).getD 0

/-- What DBG_READ returns of a frame: g0 to g31, the registers of R26, the hold set, and the rest of the frame record (R325): reference,
address, stall, depth, spawn count, own cell, launch, priority class, instance, job, heat, loop index and count, and its kind. -/
def State.frameDump (s : State) (f : Frame) : List Nat :=
  f.regs.toList.map (·.toNat) ++ (List.range 10).map (fun n => ((s.csrValue f n).map (·.toNat)).getD 0) ++
    f.holds.flatMap (fun h => [h.1, h.2]) ++
    [f.fref, f.next, f.stall, f.depth, f.spawns, f.cell.getD 0, numberOr0 (f.launch.orElse fun _ => f.nodeLaunch), f.prio, numberOr0 f.inst,
      numberOr0 f.job, f.ht, (f.loop.map (·.1)).getD 0, (f.loop.map (·.2)).getD 0, f.det.toNat, f.handler.toNat, f.captured.toNat]

/-- A row of the stall store as 128 bytes: a tile row that has left the chip stands in its backing (R455). -/
def State.rowValue (s : State) (st bank row : Nat) : Nat :=
  let x := s.stallD st
  let l := ellOf x.roles bank row
  if x.roles.getD bank 0 == 0 && !x.resident.getD (l / 32) true then ofBytes (((s.backingPage st (l / 32)).drop (l % 32 * 128)).take 128)
  else readLE (spGet 0 x.store) (bank * 16384 + row * 128) 128

/-- What DBG_READ returns of a stall: tile descriptors, stall-store rows, SPE scratch. -/
def State.stallDump (s : State) (st : Nat) : List Nat :=
  let x := s.stallD st
  x.tiles.map Tile.pack ++ ((List.range 4096).map fun i => s.rowValue st (i / 128) (i % 128)) ++
    (List.range 2048).map fun i => (spGet 0 x.scratch i).toNat

/-- The state a context keeps of a stall it has given up answers to the stall's identifier. -/
def State.ownStall (s : State) (ctx st : Nat) : Nat := if (s.stall? (displacedNo ctx st)).isSome then displacedNo ctx st else st

/-- DBG_READ (R415): a stall only while the context is pre-empted. -/
def execDbgRead (ctx : Nat) (what : DbgWhat) (sealedOk : Bool) (s : State) : Out :=
  .next <| s.debug ctx sealedOk fun _ =>
    match what with
    | .frame ref => (match s.byRef ctx ref with | some f => s.reply 0 (s.frameDump f) | none => s.reply 4 [])
    | .stall st0 =>
      let st := s.ownStall ctx st0
      match s.stall? st with
      | some x => if x.owner == some ctx && s.ctxIdle ctx then s.reply 0 (s.stallDump st) else s.reply 1 []
      | none => s.reply 1 []

/-- DBG_WRITE (R415): of a stopped frame, held or not. -/
def execDbgWrite (ctx ref : Nat) (reg : BitVec 5) (val : W64) (sealedOk : Bool) (s : State) : Out :=
  .next <| s.debug ctx sealedOk fun _ =>
    match s.byRef ctx ref with
    | none => s.reply 4 []
    | some f =>
      if f.stopped.isNone then s.reply 1 []
      else (s.modFrame f.fid fun f => { f with regs := f.regs.setIfInBounds reg.toNat val }).reply 0 []

/-! The trace ring (R426, R427) -/

/-- Bytes of a ring with its header. -/
def ringBytes (ctl : W64) : Nat := 64 + 32 * 2 ^ bits ctl.toNat 39 35

/-- The whole run lies on ENC pages of the context. -/
def State.onEnc (s : State) (ctx va n : Nat) : Bool :=
  (List.range ((va + n - 1) / 4096 - va / 4096 + 1)).all fun k =>
    match s.walkVa ctx ((va / 4096 + k) * 4096) with | .ok l => l.attr.enc | .error _ => false

/-- TRACE_SET (R426): WPTR, RPTR and LOST become 0, and what the old ring held back goes. -/
def execTraceSet (ctx : Nat) (w0 w1 : W64) (sealedOk : Bool) (s : State) : Out :=
  .next <| s.debug ctx sealedOk fun c =>
    let base := w0.toNat % 2 ^ 56
    let logn := bits w1.toNat 39 35
    if base % 4096 != 0 || logn < 6 || 26 < logn || 2 ^ 56 < base + ringBytes w1 || (c.params.confid && !s.onEnc ctx base (ringBytes w1)) then
      s.reply 1 []
    else
      let s := s.modCtx ctx fun c =>
        { c with trace := { base := base, ctl := w1, wptr := 0, lost := 0, lostTotal := 0, walk := c.trace.walk, waiting := [] } }
      (s.vaWrite ctx base (List.replicate 24 0)).reply 0 []

/-- Held records proceed while the ring has room. -/
def State.ringDrain (s : State) (ctx : Nat) : Nat → State
  | 0 => s
  | n + 1 =>
    match s.ctx? ctx with
    | none => s
    | some c =>
      match c.trace.waiting with
      | [] => s
      | bs :: l =>
        if s.ringFull c then s
        else ((s.ringPut c bs).modCtx ctx fun c => { c with trace := { c.trace with waiting := l } }).ringDrain ctx n

/-- TRACE_ROOM_RETURN (R427). -/
def execTraceRoomReturn (ctx : Nat) (s : State) : Out :=
  .next <|
    match s.ctx? ctx with
    | none => s
    | some c => (s.ringLoss ctx).ringDrain ctx c.trace.waiting.length

/-! Critical-path walks (R429, R430) -/

/-- A record of a walk's step. -/
def State.walkRecord (s : State) (ctx st : Nat) (fn : W64) (bsq : W32) (blk cyc xw : Nat) (hnd det : Bool) : State :=
  match s.ctx? ctx with
  | none => s
  | some c =>
    if c.params.debuggable && c.trace.en && c.trace.typeOn 8 then
      s.ringOffer ctx st
        (bytesLE (fn.toNat * 2 ^ 192 + bsq.toNat * 2 ^ 160 + cyc % 2 ^ 32 * 2 ^ 128 + xw * 2 ^ 80 + bits blk 51 4 * 2 ^ 32 + bits blk 55 52 * 2 ^ 28 +
          ctx * 2 ^ 19 + st % 2048 * 2 ^ 8 + (if hnd then 32 else 0) + (if det then 16 else 0) + 8) 32)
    else s

/-- CRIT_PATH_WALK_STEP (R430): a walk whose next stall holds 8 steps already ends without a record. -/
def execCritPathWalkStep (k : Nat) (s : State) : Out :=
  .next <|
    match s.flight[k]? with
    | none => s
    | some w =>
      match w.cargo with
      | .walkStep id step fn bsq =>
        if !s.controlFirst w then s else
        let st := w.stall
        let s := s.land k
        let xw := fun (edge end_ wait : Nat) => id + step * 2 ^ 16 + edge * 2 ^ 24 + end_ * 2 ^ 28 + min wait (2 ^ 18 - 1) * 2 ^ 30
        (match (s.stallD st).hist.find? fun e => e.fn == fn && e.bsq == bsq with
         | none => s.walkRecord w.org.ctx st fn bsq 0 0 (xw 0 3 0) false false
         | some e =>
           let end_ := if e.arr.edge = 7 then 1 else if e.arr.far then 2 else 0
           let s := s.walkRecord w.org.ctx st fn bsq e.blk e.cyc (xw e.arr.edge end_ e.wait) e.hnd e.det
           if end_ != 0 || step = 255 || 8 ≤ s.walksAt e.arr.stall then s
           else s.ship { w.org with stall := e.arr.stall } 0 (.walkStep id (step + 1) e.arr.fn e.arr.bsq))
      | _ => s

/-! Counters (R431, R433) -/

/-- A counter as the mailbox shows it: from outside, of a confidential context only ACTIVE, and the porter's bytes as one sum. -/
def counterShown (l : List Nat) (sealed : Bool) (n : Nat) : Option Nat :=
  if !sealed then l[n]?
  else if n = 0 then some (l.getD 0 0)
  else if n = 7 || n = 8 then some ((l.getD 7 0 + l.getD 8 0) % 2 ^ 64)
  else none

/-- CNT_READ of a stall or a context. -/
def execCntRead (ofStall : Bool) (which counter : Nat) (sealedOk : Bool) (s : State) : Out :=
  .next <|
    let c := if ofStall then ((s.stall? which).bind (·.owner)).bind s.ctx? else s.ctx? which
    let l := if ofStall then (s.stall? which).map (·.counters) else c.map (·.counters)
    match l with
    | none => s.reply 1 []
    | some l =>
      let conf := (c.map (·.params.confid)).getD false
      let ok := (c.map fun c => c.sourceOk sealedOk).getD sealedOk
      if 16 ≤ counter then s.reply 1 []
      else if !ok && !conf then s.reply 3 []
      else match counterShown l (conf && !ok) counter with
        | some v => s.reply 0 [v]
        | none => s.reply 3 []

end Sys2Proof.Machine
end

