-- ==== Sys2Proof/Machine/Float.lean ====
section
/-! DEFINITION. Scalar floating point (05_scalar.md R145-R153). -/
namespace Sys2Proof.Machine

/-- An FP32 operand: the low 32 bits of its token (R134). -/
def fpArg (v : W64) : FpVal := fp32.decode (v.toNat % 2 ^ 32)
/-- FCSR.RM as it stands at block entry (R145). -/
def Cx.rm (c : Cx) : Rm := .ofCode (fcsrRm c.f.fcsr)

/-- Delivers a result and keeps its flags with the block until commit (R104, R145). -/
def State.deliverFp (s : State) (c : Cx) (h : Hd) (v : Nat × FlagSet) : State :=
  (s.deliver c h (BitVec.ofNat 64 v.1)).raiseScalar c v.2

/-- FADD (R146, R147). -/
def execFadd (h : Hd) (s : State) : Out := s.runWord h fun c => s.deliverFp c h (fpAdd fp32 c.rm (fpArg c.l) (fpArg c.r))
/-- FSUB. -/
def execFsub (h : Hd) (s : State) : Out := s.runWord h fun c => s.deliverFp c h (fpSub fp32 c.rm (fpArg c.l) (fpArg c.r))
/-- FMUL. -/
def execFmul (h : Hd) (s : State) : Out := s.runWord h fun c => s.deliverFp c h (fpMul fp32 c.rm (fpArg c.l) (fpArg c.r))
/-- FFMA rounds once. -/
def execFfma (h : Hd) (s : State) : Out :=
  s.runWord h fun c => s.deliverFp c h (fpFma fp32 c.rm (fpArg c.l) (fpArg c.r) (fpArg c.p))
/-- FDIV. -/
def execFdiv (h : Hd) (s : State) : Out := s.runWord h fun c => s.deliverFp c h (fpDiv fp32 c.rm (fpArg c.l) (fpArg c.r))
/-- FSQRT. -/
def execFsqrt (h : Hd) (s : State) : Out := s.runWord h fun c => s.deliverFp c h (fpSqrt fp32 c.rm (fpArg c.l))
/-- FMIN (R148). -/
def execFmin (h : Hd) (s : State) : Out :=
  s.runWord h fun c => s.deliverFp c h (fpMinMax fp32 false (c.l.toNat % 2 ^ 32) (c.r.toNat % 2 ^ 32))
/-- FMAX (R148). -/
def execFmax (h : Hd) (s : State) : Out :=
  s.runWord h fun c => s.deliverFp c h (fpMinMax fp32 true (c.l.toNat % 2 ^ 32) (c.r.toNat % 2 ^ 32))

/-- FTST conditions (R149). -/
def ftstHolds (cc : Fcc) (a b : FpVal) : Bool :=
  match cc with
  | .eq => fpEq a b
  | .lt => !a.isNan && !b.isNan && fpLt a b
  | .le => !a.isNan && !b.isNan && !fpLt b a
  | .un => a.isNan || b.isNan
def ftstFlags (cc : Fcc) (a b : FpVal) : FlagSet :=
  match cc with
  | .eq | .un => { nv := a.isSnan || b.isSnan }
  | .lt | .le => { nv := a.isNan || b.isNan }

/-- FTST. -/
def execFtst (h : Hd) (cc : Fcc) (s : State) : Out :=
  s.runWord h fun c =>
    let a := fpArg c.l
    let b := fpArg c.r
    s.deliverFp c h (if ftstHolds cc a b then 1 else 0, ftstFlags cc a b)

/-- The bit of FCLASS (R150). -/
def classBit (v : FpVal) : Nat :=
  match v with
  | .nan true => 8
  | .nan false => 9
  | .inf true => 0
  | .inf false => 7
  | .fin neg m _ => if m = 0 then (if neg then 3 else 4) else if m < 2 ^ 23 then (if neg then 2 else 5) else if neg then 1 else 6

/-- FCLASS. -/
def execFclass (h : Hd) (s : State) : Out := s.runWord h fun c => s.deliver c h (BitVec.ofNat 64 (2 ^ classBit (fpArg c.l)))

/-- FSGN (R151). -/
def fsgnVal (op : FsgnOp) (l r : Nat) : Nat :=
  if (fp32.decode (l % 2 ^ 32)).isNan then fp32.nan
  else
    let sg := match op with
      | .cp => r.testBit 31
      | .cn => !r.testBit 31
      | .cx => l.testBit 31 != r.testBit 31
    l % 2 ^ 31 + (if sg then 2 ^ 31 else 0)
def execFsgn (h : Hd) (op : FsgnOp) (s : State) : Out :=
  s.runWord h fun c => s.deliver c h (BitVec.ofNat 64 (fsgnVal op c.l.toNat c.r.toNat))

/-- The value and flags of FCVT (R152). -/
def fcvtVal (kind : FcvtKind) (w : Bool) (rm : Rm) (l : W64) : W64 × FlagSet :=
  let n := if w then 32 else 64
  let ofFp := fun (r : Nat × FlagSet) => (BitVec.ofNat 64 r.1, r.2)
  let ofInt := fun (r : Int × FlagSet) => (BitVec.ofInt 64 (sext (wrap n r.1) n), r.2)
  match kind with
  | .f2i => ofInt (fcvtInt rm (-(2 ^ (n - 1))) (2 ^ (n - 1) - 1) (fpArg l))
  | .f2u => ofInt (fcvtInt rm 0 (2 ^ n - 1) (fpArg l))
  | .i2f => ofFp (intToFp fp32 rm (sext l.toNat n))
  | .u2f => ofFp (intToFp fp32 rm ((l.toNat % 2 ^ n : Nat) : Int))
  | .f2bf => ofFp (fpConvert fp32 bf16 rm (l.toNat % 2 ^ 32))
  | .f2h => ofFp (fpConvert fp32 fp16 rm (l.toNat % 2 ^ 32))
  | .bf2f => ofFp (fpConvert bf16 fp32 rm (l.toNat % 2 ^ 16))
  | .h2f => ofFp (fpConvert fp16 fp32 rm (l.toNat % 2 ^ 16))

/-- FCVT. -/
def execFcvt (h : Hd) (kind : FcvtKind) (w : Bool) (s : State) : Out :=
  s.runWord h fun c =>
    let r := fcvtVal kind w c.rm c.l
    (s.deliver c h r.1).raiseScalar c r.2

/-- The direction of FRND (R153). -/
def frndRm (d : FrndDir) (rm : Rm) : Rm :=
  match d with
  | .rm => rm
  | .rne => .rne
  | .rtz => .rtz
  | .rdn => .rdn
  | .rup => .rup
  | .rmm => .rmm

/-- The value and flags of FRND (R153). -/
def frndVal (rm : Rm) (v : Nat) : Nat × FlagSet :=
  match fp32.decode v with
  | .nan s => (fp32.nan, { nv := s })
  | .inf _ => (v, {})
  | .fin neg m k =>
    if 0 ≤ k || m = 0 then (v, {})
    else
      let sp := (⟨m, k, false⟩ : Mag).split 0
      let n := roundInt rm neg sp.1 sp.2
      (if n = 0 then fp32.zero neg else (fp32.round .rne neg ⟨n, 0, false⟩).1, { nx := sp.2 != 0 })

/-- FRND. -/
def execFrnd (h : Hd) (dir : FrndDir) (s : State) : Out :=
  s.runWord h fun c => s.deliverFp c h (frndVal (frndRm dir c.rm) (c.l.toNat % 2 ^ 32))

end Sys2Proof.Machine
end

