-- ==== Sys2Proof/Machine/Hall.lean ====
section
/-! DEFINITION. Halls and the package: the pacer (13_scheduling.md R372-R375), staged start, hall states and resets (16_recovery.md
R460-R462), lost sectors (R457), links and their repair (R322, R323, R459), power and temperature (R7, R463). -/
namespace Sys2Proof.Machine

/-! The pacer (R373-R375) -/

def cmdOp (c : W64) : Nat := bits c.toNat 63 60
/-- CONN of a command: context and channel. -/
def cmdConn (c : W64) : Nat := bits c.toNat 59 51 * 8 + bits c.toNat 50 48
def cmdSlots (c : W64) : Nat := bits c.toNat 47 40
def cmdSrc (c : W64) : Nat := bits c.toNat 39 29
def cmdDst (c : W64) : Nat := bits c.toNat 28 18

/-- The hops from a router: first along the column axis, then along the row axis, and into the stall at the destination. Each is
(router, input port, output port); ports are 0 local, 1 north (the next lower row), 2 east (the next higher column), 3 south, 4 west. -/
def pathFrom (dst : Nat) : Nat → Nat → Nat → List (Nat × Nat × Nat)
  | 0, _, _ => []
  | n + 1, r, inp =>
    let col := r % 16
    let row := bits r 8 4
    if col < dst % 16 then (r, inp, 2) :: pathFrom dst n (r + 1) 4
    else if dst % 16 < col then (r, inp, 4) :: pathFrom dst n (r - 1) 2
    else if row < bits dst 8 4 then (r, inp, 3) :: pathFrom dst n (r + 16) 1
    else if bits dst 8 4 < row then (r, inp, 1) :: pathFrom dst n (r - 16) 3
    else [(r, inp, 0)]
def pathOf (src dst : Nat) : List (Nat × Nat × Nat) := pathFrom dst 36 src 0

/-- The entries a connection holds when it starts in slot `k`. -/
def diagonal (hall conn src dst k : Nat) : List VSlot :=
  ((pathOf src dst).zipIdx).map fun h => ⟨hall, h.1.1, h.1.2.2, (k + h.2) % 64, h.1.2.1, conn⟩

def applyEdit (l : List VSlot) (e : VEdit) : List VSlot := if e.add then l ++ e.slots else l.filter fun x => !e.slots.contains x
/-- The tables as the pacer has them: those in force with the edits under way. -/
def State.pacerView (s : State) (hall : Nat) : List VSlot := (s.vedits.filter (·.hall == hall)).foldl applyEdit s.vslots

/-- An entry no connection holds. -/
def entryFree (l : List VSlot) (v : VSlot) : Bool := !l.any fun x => x.hall == v.hall && x.router == v.router && x.port == v.port && x.slot == v.slot
/-- The starting slots of a connection. -/
def startsOf (l : List VSlot) (hall conn src dst : Nat) : List Nat :=
  (List.range 64).filter fun k => (diagonal hall conn src dst k).all fun v => l.contains v

/-- Both ends lie in the hall. -/
def routersOk (hall : Nat) (c : W64) : Bool :=
  [cmdSrc c, cmdDst c].all fun r => hallOfStall r == hall && decide (bits r 8 4 < 20)

/-- PACER_OPEN: STATUS 1 is NO_SLOTS. -/
def execPacerOpen (hall : Nat) (cmd : W64) (s : State) : Out :=
  .next <|
    if cmdOp cmd != 1 then s
    else
      let l := s.pacerView hall
      let free := (List.range 64).filter fun k => (diagonal hall (cmdConn cmd) (cmdSrc cmd) (cmdDst cmd) k).all (entryFree l)
      let n := cmdSlots cmd
      if !routersOk hall cmd || n = 0 || 64 < n || free.length < n then s.reply 1 []
      else
        let new := (free.take n).flatMap (diagonal hall (cmdConn cmd) (cmdSrc cmd) (cmdDst cmd))
        { s with vedits := s.vedits ++ [(⟨hall, true, new⟩ : VEdit)] }.reply 0 [free.headD 0]

/-- PACER_CLOSE: STATUS 2 is NO_CONN. -/
def execPacerClose (hall : Nat) (cmd : W64) (s : State) : Out :=
  .next <|
    if cmdOp cmd != 2 then s
    else
      let ks := startsOf (s.pacerView hall) hall (cmdConn cmd) (cmdSrc cmd) (cmdDst cmd)
      if !routersOk hall cmd || ks.isEmpty then s.reply 2 []
      else { s with vedits := s.vedits ++ [(⟨hall, false, ks.flatMap (diagonal hall (cmdConn cmd) (cmdSrc cmd) (cmdDst cmd))⟩ : VEdit)] }.reply 0 []

/-- PACER_QUERY. -/
def execPacerQuery (hall : Nat) (cmd : W64) (s : State) : Out :=
  .next <|
    if cmdOp cmd != 3 then s
    else
      match startsOf (s.pacerView hall) hall (cmdConn cmd) (cmdSrc cmd) (cmdDst cmd) with
      | k :: _ => if routersOk hall cmd then s.reply 0 [k] else s.reply 2 []
      | [] => s.reply 2 []

/-- SLOT_TABLE_UPDATE (R375): at a period boundary the edits take effect at all routers together. -/
def execSlotTableUpdate (hall : Nat) (s : State) : Out :=
  .next { s with vslots := s.pacerView hall, vedits := s.vedits.filter fun (e : VEdit) => e.hall != hall }

/-! Staged start (R460, R461) -/

/-- POWER_GOOD: stage A. -/
def execPowerGood (s : State) : Out := .next (if s.pkg.stage = 0 then { s with pkg := { s.pkg with stage := 1 } } else s)

/-- STAGE_B: firmware is accepted only when its RSA-3072 and its SLH-DSA signature both verify (R413); refused, it leaves the package in
A, with the cause in the mailbox status. -/
def execStageB (ok : FirmwareCheck) (il : Interleave) (s : State) : Out :=
  .next <|
    if s.pkg.stage != 1 then s
    else if !(ok.rsa && ok.slh) then s.reply 1 []
    else
      { s with pkg := { s.pkg with stage := 2, interleave := il },
               halls := s.halls.map fun (h : Hall) => { h with st := if h.st == HallSt.off then .starting else h.st } }

/-- A fuse map in ascending order, cut to units that exist. -/
def fuseTidy (f : FuseMap) : FuseMap :=
  let pick := fun (n : Nat) (l : List Nat) => (List.range n).filter l.contains
  ⟨pick 320 f.stalls, pick 80 f.slices, pick 64 f.channels, pick 2 f.ports⟩

/-- A hall's minimums of R3. -/
def fuseEnough (f : FuseMap) : Bool := decide (304 ≤ f.stalls.length) && decide (76 ≤ f.slices.length) && decide (60 ≤ f.channels.length)

/-- The package keeps its minimum of 7 enabled Ethernet ports, two to a hall, with this hall and those already AVAILABLE (R3; log 116). -/
def State.portsEnough (s : State) (hall : Nat) (f : FuseMap) : Bool :=
  let absent := (List.range 4).map fun k =>
    if k = hall then 2 - f.ports.length else if (s.hallD k).st == .available then 2 - (s.hallD k).fuse.ports.length else 0
  decide (absent.foldl (· + ·) 0 ≤ 1)

/-- The stalls of a hall after its start: enabled ones exist, clean of suspicion. The state of one now absent is kept for its owner
under a number of its own, for no pitch contains an absent stall (R4). -/
def State.stallsAfter (s : State) (hall : Nat) (f : FuseMap) : State :=
  let on := f.stalls.map (hall * 512 + ·)
  let gone := (s.stalls.filter fun e => hallOfStall e.1 == hall && decide (e.1 < 4096) && !on.contains e.1).map (·.1)
  let s := gone.foldl (fun s st => s.displace st true) s
  let old := s.stalls.filterMap fun (e : Nat × Stall) =>
    if hallOfStall e.1 != hall then some e
    else if on.contains (e.1 % 2048) then some (e.1, { e.2 with suspect := false })
    else if 4096 ≤ e.1 then some (e.1, { e.2 with suspect := true }) else none
  { s with stalls := old ++ ((on.filter fun n => !old.any (·.1 == n)).map fun n => (n, Stall.zeroed 0 16)) }

/-- The pair of slices 2·k and 2·k + 1 as first seen (R401, R405). -/
def Pair.fresh (hall k : Nat) : Pair :=
  { hall := hall, pair := k, owner := none, ctrlVa := 0, wpr := 0, cur := 0, stt := 0, err := 0, hva := 0, target := 0, mark := 0, releasing := false, org := none }

/-- STAGE_C: a hall below the minimums is FAILED, another AVAILABLE. A pair that holds an absent slice is none (R4). -/
def execStageC (hall : Nat) (fuse : FuseMap) (s : State) : Out :=
  .next <|
    let h := s.hallD hall
    if s.pkg.stage != 2 || !(h.st == .starting || h.st == .resetting) then s
    else
      let f := fuseTidy fuse
      let ks := (List.range 40).filter fun k => f.slices.contains (2 * k) && f.slices.contains (2 * k + 1)
      if !fuseEnough f || !s.portsEnough hall f then
        { s with pairs := s.pairs.filter fun (p : Pair) => p.hall != hall || ks.contains p.pair }.modHall hall fun h => { h with st := .failed, fuse := f }
      else
        let new := (ks.filter fun k => (s.pair? hall k).isNone).map (Pair.fresh hall)
        let t := s.stallsAfter hall f
        { t with pairs := t.pairs.filter (fun (p : Pair) => p.hall != hall || ks.contains p.pair) ++ new }.modHall hall fun h => { h with st := .available, fuse := f }

def HallSt.code : HallSt → Nat
  | .off => 0
  | .starting => 1
  | .available => 2
  | .failed => 3
  | .resetting => 4

/-- HALL_STATUS (R461). -/
def execHallStatus (s : State) : Out := .next (s.reply 0 (s.halls.map fun h => h.st.code))

/-- A set of unit numbers as a bitmap. -/
def bitmapOf (l : List Nat) : Nat := l.foldl (fun n k => n + 2 ^ k) 0

/-- FUSE_READ (R1, R461): the part number, then stalls, slices, channels and Ethernet ports of each hall; that the part number stands as
1280 or 1216, and this order, are the model's (DESIGN CHOICE, log 117). -/
def execFuseRead (s : State) : Out :=
  .next (s.reply 0 ((if s.pkg.part = 0 then 1280 else 1216) :: s.halls.flatMap fun h =>
    [bitmapOf h.fuse.stalls, bitmapOf h.fuse.slices, bitmapOf h.fuse.channels, bitmapOf h.fuse.ports]))

/-! Hall reset (R462) -/

/-- The DRAM of a hall loses its content (R462 step 4). -/
def State.loseDram (s : State) (hall : Nat) : State :=
  { s with mem := spDrop (fun a => paKind a == .dram && hallOf s.pkg.interleave a == hall) s.mem }

/-- The pairs of a hall return to their reset values; jobs held for them are rejected, a release in progress is complete (R401, R404). -/
def State.resetPairs (s : State) (hall : Nat) : State :=
  (s.pairs.filter fun p => p.hall == hall).foldl (fun s p =>
    let s := (s.rejectHeld p).dropScratch p 0 16
    let s := s.modPair p.hall p.pair fun p => { p with wpr := 0, cur := 0, stt := 0, err := 0, hva := 0, target := 0, org := none }
    if p.releasing then s.takeBack p else s) s

/-- HALL_RESET: its contexts are pre-empted, its instances end, its units start anew in stage C. -/
def execHallReset (hall : Nat) (cold : Bool) (s : State) : Out :=
  .next <|
    let h := s.hallD hall
    if 4 ≤ hall || !(h.st == .available || h.st == .failed) then s.reply 1 []
    else
      let onIt := s.ctxs.filter fun c => !(c.pitchIn hall).isEmpty
      let paged := s.ctxs.filter fun c => s.pagesInHall c hall
      let told := s.ctxs.filter fun c => !(c.pitchIn hall).isEmpty || s.pagesInHall c hall
      let s := onIt.foldl (fun s c => c.params.pitch.foldl (fun s st => s.preemptStall st) s) s
      let s := (s.insts.filter fun i => i.parts.contains hall).foldl (fun s i => s.cancelInst i.iid) s
      let s := told.foldl (fun s c => (s.modCtx c.num fun c => { c with blocked := true }).tellDriver c.num) s
      let s := if cold then paged.foldl (fun s c => s.modCtx c.num fun c => { c with lostPages := true }) (s.loseDram hall) else s
      let s := s.resetPairs hall
      let s := s.modHall hall fun h =>
        { h with st := .resetting, tlb := [], lostScratch := [], lost := if cold then [] else h.lost, xstore := [], xtaken := [],
                 islands := List.replicate 4 16 }
      { s with
        stalls := s.stalls.map fun (e : Nat × Stall) => (e.1, if hallOfStall e.1 == hall then { e.2 with cyc := 0, freq := 16 } else e.2),
        frames := s.frames.map fun (f : Frame) => if f.ctxHall == hall then { f with since := f.since - (s.stallD f.stall).cyc } else f,
        classes := s.classes.filter fun (e : ClassEntry) => e.hall != hall,
        l2 := s.l2.filter fun (x : CacheSet) => x.hall != hall,
        vslots := s.vslots.filter fun (v : VSlot) => v.hall != hall,
        vedits := s.vedits.filter fun (e : VEdit) => e.hall != hall }.reply 0 []

/-- LOST_CLEAR (R457). -/
def execLostClear (hall pa : Nat) (s : State) : Out :=
  .next <|
    if (s.hallD hall).lost.contains (pa / 128) then (s.modHall hall fun h => { h with lost := h.lost.filter (· != pa / 128) }).reply 0 []
    else s.reply 1 []

/-! Links (R322, R323, R459) -/

/-- A unit of traffic has been repaired: link 0 to 3 is a hall bridge, 4 to 11 an Ethernet port, 12 the receiving transport. -/
def State.repaired (s : State) (link seq : Nat) : State := { s with pkg := { s.pkg with replayed := s.pkg.replayed ++ [(link, seq)] } }

/-- BRIDGE_FLIT_BAD_CHECK (R322): the replay changes no result. -/
def execBridgeFlitBadCheck (bridge seq : Nat) (s : State) : Out := .next (if bridge < 4 then s.repaired bridge seq else s)

/-- The instance that a unit of traffic belongs to. -/
def Flight.instOf (w : Flight) : Option Nat :=
  match w.cargo with
  | .token i _ _ _ _ | .forward i _ _ _ _ _ _ _ | .partValue i _ _ _ _ _ _ | .result i _ _ _ _ _ => some i
  | .xmsg t => some t.inst
  | _ => w.org.inst

/-- Traffic is lost: what counted it counts it no more, so that its levels can still come to their end (log 134). -/
def State.landLost (s : State) (k : Nat) (w : Flight) : State :=
  let s := s.land k
  match w.cargo with
  | .token i _ _ _ _ => s.modInst i fun x => { x with count := x.count - 1 }
  | .level lvl obj 0 => (s.levelDown w.org.ctx lvl obj).levelSettle w.org.ctx lvl obj
  | .level lvl obj 1 => (s.cancelDone w.org.ctx lvl obj).levelSettle w.org.ctx lvl obj
  | _ => s

/-- REPLAY_ENTRY_LOST (R459): the flit is rebuilt from the retained packet. Where that is lost as well, `seq` is the place of the
packet's traffic among what is in flight: its instance ends, its context hears of it. -/
def execReplayEntryLost (bridge seq : Nat) (retainedOk : Bool) (s : State) : Out :=
  .next <|
    if 4 ≤ bridge then s
    else if retainedOk then s.repaired bridge seq
    else
      match s.flight[seq]? with
      | none => s
      | some w =>
        let s := s.landLost seq w
        let s := match w.instOf with | some i => s.cancelInst i | none => s
        s.report { w.org with stall := hallOfStall (w.org.stall % 2048) * 512 + 0x1FF } { cls := .dataError, eng := 7 }

/-- UE_PACKET_TRIMMED (R323): the transport sends the packet again. -/
def execUePacketTrimmed (pkt : Nat) (s : State) : Out := .next (s.repaired 12 pkt)

/-- LINK_LEVEL_RETRY (R323, R459): repaired on the link, or else end to end by the transport. -/
def execLinkLevelRetry (port pkt : Nat) (repaired : Bool) (s : State) : Out :=
  .next <|
    if 8 ≤ port || !((s.hallD (port / 2)).fuse.ports.contains (port % 2)) then s
    else if repaired then s.repaired (4 + port) pkt
    else s.repaired 12 pkt

/-- TRANSPORT_PARAMETER_SET (R323). -/
def execTransportParameterSet (p : Transport) (s : State) : Out := .next ({ s with pkg := { s.pkg with transport := p } }.reply 0 [])

/-! Power and temperature (R5, R7, R463) -/

/-- Island 2048 + 4·h + k is the k-th of hall h's own; a lower number is a stall's. -/
def islandHall (n : Nat) : Nat := if 2048 ≤ n then (n - 2048) / 4 else hallOfStall n

/-- Lowers one island to a frequency in units of 62.5 MHz; none is raised, and a stall's stays at 0.25 GHz or above (R5). -/
def State.lowerIsland (s : State) (e : Nat × Nat) : State :=
  if 2048 ≤ e.1 then
    s.modHall (islandHall e.1) fun h => { h with islands := h.islands.modify ((e.1 - 2048) % 4) fun f => min f (max 1 e.2) }
  else s.modStall e.1 fun x => { x with freq := min x.freq (max 4 e.2) }

/-- Lowers the islands of a list that satisfy a test. -/
def State.lowerIslands (s : State) (p : Nat → Bool) (islands : List (Nat × Nat)) : State :=
  (islands.filter fun e => p e.1).foldl State.lowerIsland s

/-- Some island of a hall can be lowered yet. -/
def State.canLowerIn (s : State) (hall : Nat) : Bool :=
  s.stalls.any (fun e => hallOfStall e.1 == hall && decide (e.1 < 2048) && decide (4 < e.2.freq)) || (s.hallD hall).islands.any (1 < ·)

/-- Some island can be lowered yet. -/
def State.canLower (s : State) : Bool := s.stalls.any (fun e => decide (e.1 < 2048) && decide (4 < e.2.freq)) || s.halls.any fun h => h.islands.any (1 < ·)

/-- Frequencies of all islands. -/
def State.islandFreqs (s : State) : List Nat := s.stalls.map (·.2.freq) ++ s.halls.flatMap (·.islands)

/-- POWER_ENVELOPE_EXCEEDED (R7): the controller lowers at least one island while any can be. -/
def execPowerEnvelopeExceeded (watts : Nat) (islands : List (Nat × Nat)) (s : State) : Out :=
  .next <|
    let t := { s with pkg := { s.pkg with watts := watts } }.lowerIslands (fun _ => true) islands
    if watts ≤ 2400 || (s.canLower && t.islandFreqs == s.islandFreqs) then s else t

/-- JUNCTION_LIMIT (R463): above 105 °C at least one island of the hall is lowered while any can be; at 115 °C the hall is FAILED. -/
def execJunctionLimit (hall temp : Nat) (islands : List (Nat × Nat)) (s : State) : Out :=
  .next <|
    if temp ≤ 105 then s
    else
      let s := s.modHall hall fun h => { h with temp := temp, st := if 115 ≤ temp then .failed else h.st }
      let t := s.lowerIslands (fun n => islandHall n == hall) islands
      if s.canLowerIn hall && t.islandFreqs == s.islandFreqs then s else t

end Sys2Proof.Machine
end

