-- ==== Sys2Proof/Machine/Run.lean ====
section
/-! DEFINITION. What a step does beside the meanings: taking the next action, issuing an instruction (R42, R367), the clock (R5,
R29, R431), the host's and other packages' actions (R323, R387), and the sweep that follows every action: blocks settle (R47, R48),
parked frames come back (R48), halted frames stop (R421), finished launch slots free (R337). -/
namespace Sys2Proof.Machine

/-- The next action: the schedule's head, or a free one when the schedule is empty (log 1). -/
def State.nextAct (s : State) : State × Act :=
  match s.sched with
  | a :: l => ({ s with sched := l }, a)
  | [] => ({ s with tick := s.tick + 1 }, Config.freeAct s.tick)

/-- The instruction of a slot that may issue now: its block is mapped and its stall runs (R42, R366, R367, R452). -/
def State.issuable (s : State) (bid slot : Nat) : Option (Instr × Nat) :=
  match s.block? bid with
  | none => none
  | some b =>
    match s.frame? b.fid with
    | none => none
    | some f =>
      if !b.parked && s.stallRuns f.stall && s.mayIssue b f slot then
        (b.parsed.getD slot .second).instr?.map fun i => (i, f.stall)
      else none

/-- The block engine issues the instruction of a slot; a slot that may not issue does nothing. -/
def State.fire (s : State) (bid slot : Nat) (run : Instr → State → Out) : Out :=
  match s.issuable bid slot with
  | none => .next s
  | some (i, st) => run i { s.modStall st fun x => { x with issued := true } with cur := some (bid, slot) }

/-- A record waits for room in the ring of some context that waited less before (R427). -/
def State.traceGrew (s t : State) : Bool :=
  t.ctxs.any fun c => ((s.ctx? c.num).map (·.trace.waiting.length)).getD 0 < c.trace.waiting.length

/-- Under STALL a full ring holds the event that would write: it does not happen (R427, log 135). -/
def State.holdTrace (s : State) : Out → Out
  | .next t => .next (if s.traceGrew t then s else t)
  | o => o

/-- What ends a context or a hall's start is not held by a ring. -/
def endsContext : Instr → Bool
  | .ctxDestroy _ | .hallReset _ _ => true
  | _ => false

/-- Cycles the clock may advance before something on the stall's engines must happen: a chunk, a row or a message ends in the cycle its
count says (R118, R160, R202), but for one that waits for a tile page (R455) or for room in a trace ring (R427). -/
def State.clockRoom (s : State) (st n : Nat) : Nat :=
  let x := s.stallD st
  let pa := x.pa.toList.filterMap fun r =>
    if r.chunk < r.costs.length then some (r.chunkEnd - 1)
    else if x.pagesIn (x.tileD r.tc) && !s.traceHolds r.m.org 4 then some (r.start + r.span - 1) else none
  let vec := x.vec.toList.filterMap fun r =>
    if r.rowsDone < r.costs.length then some (r.rowEnd - 1)
    else if (r.outs.all fun e => x.pagesIn (x.tileD e.1)) && !s.traceHolds r.m.org 4 then some (r.start + r.span - 1) else none
  let spe := x.spe.filterMap fun r => if s.traceHolds r.m.org 4 then none else some r.done
  if s.stallRuns st then (pa ++ vec ++ spe).foldl (fun n e => min n (e - x.cyc)) n else n

/-- The clock of a stall advances, no further than its engines let it: CYC, ACTIVE and IDLE (R29, R431). -/
def State.clock (s : State) (st n0 : Nat) : State :=
  let x := s.stallD st
  let n := s.clockRoom st n0
  let busy := !(s.mappedOn st).isEmpty
  let s := s.modStall st fun x => { x with cyc := x.cyc + n, issued := false }
  if busy && n != 0 then (s.count st 0 n).count st 11 (if x.issued then n - 1 else n) else s

/-- The host writes its own memory, which the host window reaches (R387). -/
def State.hostWrite (s : State) (pa : Nat) (b : Byte) : State :=
  if paKind pa == .host then { s with mem := spPut 0 s.mem pa b } else s

/-- The context of an instance. -/
def State.instCtx (s : State) (i : Nat) : Nat := ((s.inst? i).map (·.ctx)).getD 0

/-- The origin of what another package sent to an instance: no stall of this package. -/
def State.farOrg (s : State) (i : Nat) : Org := { Org.ofHall (s.instCtx i) 0 with stall := 2048, inst := some i }

/-- A part of an image has failed to load in another package (R321): it is logged, an instance whose sources are not released ends, and
packets held for the image will be rejected; with neither, the failure is kept for the packet that would start an instance. -/
def State.partFailed (s : State) (ctx image hall part : Nat) : State :=
  let mine := s.insts.filter fun x => x.ctx == ctx && x.image == image && x.live && !x.released && x.parts.any fun h => decide (4 ≤ h)
  let held := fun (p : Packet) => p.loads && p.image == image && !p.bad
  let s := s.modCtx ctx fun c =>
    { c with loadLog := c.loadLog ++ [{ code := 8, hall := hall, part := part }],
             packets := c.packets.map fun p => if mine.isEmpty && held p then { p with fail := some 8 } else p,
             failedParts := if mine.isEmpty && !c.packets.any held then c.failedParts ++ [(image, hall, part)] else c.failedParts }
  mine.foldl (fun s x => s.endInst x.iid) s

/-- What arrives from another package goes to its destination (R323). -/
def State.ueTake (s : State) : UeItem → State
  | .token i n k v tag => ((s.credit i n k false).modInst i fun x => { x with count := x.count + 1 }).ship (s.farOrg i) 0 (.token i n k tag v)
  | .contribution h sl lvl ix v => s.ship (Org.ofHall 0 h) 0 (.contribution h sl ((s.red? h sl).elim 0 (·.rid)) lvl ix v)
  | .forward i key part lvl ix v d fl => s.ship (s.farOrg i) 0 (.forward i key part lvl ix v d fl)
  | .partValue i key part cov v d fl => s.ship (s.farOrg i) 0 (.partValue i key part cov v d fl)
  | .result i key part v d fl => s.ship (s.farOrg i) 0 (.result i key part v d fl)
  | .credit i n k => s.credit i n k true
  | .tile t => s.ship (s.farOrg t.inst) 0 (.xmsg t)
  | .endInst i => s.endInst i
  | .loadFailed ctx image hall part => s.partFailed ctx image hall part
  | .redBreak i key => (s.breakParts (some i) key.toNat).modInst i fun x => { x with broken := key.toNat :: x.broken.erase key.toNat }
  | .redFree i key part n => s.partFreed i key.toNat part n 0 0

/-- Traffic of another package arrives on a port: an absent or link-down port carries nothing (R4, R323). -/
def State.ueArrive (s : State) (port : Nat) (x : UeItem) : State := if port < 8 && s.portUp port then s.ueTake x else s

/-- What waited for a port leaves once one carries traffic (R323). -/
def State.ueFlush (s : State) : State :=
  if s.ueUp && !s.pkg.ueWait.isEmpty then { s with pkg := { s.pkg with ueOut := s.pkg.ueOut ++ s.pkg.ueWait, ueWait := [] } } else s

/-! Errors (R456) -/

/-- An uncorrectable or corrected error (R456, R457). -/
def State.softError (s : State) : SoftError → State
  | .planeTile st =>
    match (s.stallD st).pa with
    | some r => (s.paAbandon st r (r.chunk + 1)).engReport r.m .dataError 1
    | none => s
  | .vectorTile st =>
    match (s.stallD st).vec with
    | some r => (s.vecAbandon st r).engReport r.m .dataError 2
    | none => s
  | .speTile st =>
    match (s.stallD st).spe.find? fun r => match r.m.i with | .spld _ _ _ => true | _ => false with
    | some r => (s.speAbandon st r).engReport r.m .dataError 3
    | none => s
  | .jobTile st id =>
    match (s.stallD st).jobs.find? fun (j : Job) => j.id == id && (j.st == JobSt.running || j.st == JobSt.paused) with
    | some j => (s.abandonJob st id 3).engReport j.m .dataError 4
    | none => s
  | .frameRecord fid =>
    match s.frame? fid with
    | some f => (s.report (f.org f.next 0xFF 0 false) { cls := .dataError, eng := 6 }).requestReclaim f 0
    | none => s
  | .tokenFifo i n =>
    match s.inst? i with
    | some x =>
      let nd := x.nodes.getD n default
      (s.report { Org.ofHall x.ctx 0 with stall := nd.home, blk := nd.blk, inst := some i } { cls := .dataError, eng := 6 }).cancelInst i
    | none => s
  | .scratchPair st k =>
    if 1024 ≤ k then s else s.modStall st fun x => { x with lostPairs := (k, 0) :: x.lostPairs.filter (·.1 != k) }
  | .sector pa =>
    match paKind pa with
    | .dram | .host | .scratch => s.loseSector 0 0 ⟨0, pa, false⟩
    | _ => s
  | .cacheData pa =>
    match (s.setAt pa).lines.find? (·.line == pa / 256) with
    | some l => (if l.dirty then s.loseSector 0 0 ⟨0, pa, false⟩ else s).dropLines fun _ y => y.line == l.line
    | none => s
  | .cacheTags pa =>
    let x := s.setAt pa
    let hit := x.lines.filter (·.dirty)
    (hit.foldl (fun s l => (s.loseSector 0 0 ⟨0, l.line * 256, false⟩).loseSector 0 0 ⟨0, l.line * 256 + 128, false⟩) s).putSet
      { x with lines := [] }
  | .tlbEntry h k => s.modHall h fun x => { x with tlb := x.tlb.eraseIdx k }
  | .stallTlbEntry st k => s.modStall st fun x => { x with utlb := x.utlb.eraseIdx k }
  | .cachedBlock st k => s.modStall st fun x => { x with bcache := x.bcache.eraseIdx k }
  | .rangeEntry st k => s.modStall st fun x => { x with ranges := x.ranges.modify k fun e => { e with v := false } }
  | .heatDirectory ctx heat sec =>
    match (if s.made.contains (ctx, heat, sec) then s.walkVa ctx (sec * 128) else .error 0) with
    | .ok l => s.loseSector ctx heat ⟨sec * 128, l.pa, true⟩
    | .error _ => s
  | .footprint st id =>
    s.modStall st fun x => { x with jobs := x.jobs.map fun (j : Job) => if j.id == id then { j with foot := false } else j }
  | .corrected h => s.modHall h fun x => { x with corrected := x.corrected + 1 }

/-! The sweep -/

/-- Blocks of running stalls settle (R47, R48). -/
def State.settleAll (s : State) : State := s.blocks.foldl (fun s b => s.settleBlock b.bid) s

/-- A parked frame whose block can go on stands in the call room again (R48, R364). -/
def State.unpark (s : State) (f : Frame) : State :=
  match s.blockOf f.fid with
  | some b =>
    if f.place == .parked && (s.canProceed b f || (b.waits.isEmpty && s.complete b && s.creditsFor b)) then
      s.enterRoom f.fid
    else s
  | none => s
def State.unparkAll (s : State) : State := s.frames.foldl (fun s f => s.unpark f) s

/-- Frames asked to halt that have no block in flight stop; one whose block has faulted stops as well as being held (R421). -/
def State.haltAll (s : State) : State :=
  s.frames.foldl (fun s f =>
    if f.halt && (s.blockOf f.fid).isNone && f.stopped.isNone then s.stopFrame f 7 0 else s) s

/-- A suspect stall, and every stall of a context that may not run, is pre-empted (R411, R437, R458). -/
def State.preemptAll (s : State) : State :=
  s.stalls.foldl (fun s (e : Nat × Stall) =>
    match e.2.owner with
    | some c => if !e.2.saved && (e.2.suspect || !s.ctxRuns c) then s.preemptStall e.1 else s
    | none => s) s

/-- An LWAIT waits on a launch. -/
def State.launchAwaited (s : State) (l : Launch) : Bool :=
  s.blocks.any fun b => ((s.frame? b.fid).map (·.ctx)).getD 512 == l.ctx && b.waits.any fun w => w.2 == .launch l.slot

/-- Launch slots go once the launch is complete and its launching frame has ended, or its completion is posted (R337). -/
def State.freeLaunches (s : State) : State :=
  { s with launches := s.launches.filter fun (l : Launch) =>
      !(l.complete && l.pending == 0 && !l.node && !s.launchAwaited l &&
        (match l.packet, l.by_ with
         | some _, _ => l.posted
         | none, some p => (s.frame? p).isNone
         | none, none => true)) }

/-- A frame belongs to a cancelled level (R18, R338). -/
def State.cancelled (s : State) (f : Frame) : Bool :=
  (f.launch.bind (s.launch? f.ctx)).any (·.cancelled) || (f.inst.bind s.inst?).any (·.cancelled) ||
    (f.job.bind (s.jobrec? f.ctx)).any (·.cancelled) || (f.ht != 0 && (s.heat? f.ctx f.ht).any (·.cancelled))

/-- A reclamation of the frame is on its way. -/
def State.reclaiming (s : State) (fid : Nat) : Bool :=
  s.flight.any fun (w : Flight) => match w.cargo with | .reclaim f _ => f == fid | _ => false

/-- Frames made in a level after its cancel are reclaimed as well (R338). -/
def State.cancelLate (s : State) : State :=
  s.frames.foldl (fun s f => if !f.handler && f.reclaim.isNone && s.cancelled f && !s.reclaiming f.fid then s.requestReclaim f 4 else s) s

/-- Reclamations that waited for a KEEP block come once it is no longer in flight, by its discard too (R41, R342). -/
def State.reclaimLate (s : State) : State :=
  s.frames.foldl (fun s f =>
    match (s.frame? f.fid).bind (·.reclaim) with
    | some c => s.reclaimFrame f.fid c
    | none => s) s

/-- A release has all that came before it behind it once those writes have performed (R223). -/
def State.settleEarly (s : State) : State := { s with early := s.early.filter fun e => e.bar.any fun k => s.flight.any (·.id == k) }

/-- The translation that the instruction just executed has used stands in its stall's micro-TLB (R390). -/
def State.warmPort (s : State) : State :=
  match s.cur.bind fun e => s.block? e.1 with
  | none => s
  | some b =>
    match s.frame? b.fid, b.seen.getLast? with
    | some f, some a => (s.translated f.stall f.ctx a.acc.va).translated f.stall f.ctx (a.acc.va + a.acc.size - 1)
    | _, _ => s

/-- Everything that follows an action at once. -/
def State.sweep (s : State) : State := ({ s.warmPort with cur := none }).settleAll.unparkAll.haltAll.preemptAll.replaceSuspects.freeLaunches.cancelLate.reclaimLate.settleEarly.ueFlush

/-! A word placed to be run next -/

/-- A context with nothing but a number and one stall. -/
def Ctx.bare (num : Nat) (p : CtxParams) : Ctx :=
  { num := num, params := p, preempted := false, blocked := false, lostPages := false, pool := [], reserved := [], hentry := 0, flcnt := 0,
    logNext := 0, logUsed := [], port := [], taken := 0, accepted := 0, overrun := 0, packets := [], cqWaiting := [],
    cqTail := 0, cqHead := 0, dropped := 0, grants := [], chain := 0, nimg := 0, loadLog := [],
    bps := List.replicate 8 0, wps := List.replicate 8 0,
    trace := { base := 0, ctl := 0, wptr := 0, lost := 0, lostTotal := 0, walk := 0, waiting := [] }, window := none,
    counters := List.replicate 16 0, tdisp := .unlocked, stuckArmed := true, tdHalt := false, key := none, backings := [], failedParts := [] }

/-- The parameters of that context: every size 0. -/
def bareParams (num st : Nat) : CtxParams :=
  { num := num, rtp := 0, debuggable := false, confid := false, cls := 0, pitch := [st], heatPool := 0, arena := 0, future := ⟨0, 0⟩,
    frameArea := ⟨0, 0⟩, faultLog := ⟨0, 0⟩, cq := ⟨0, 0⟩, trace := ⟨0, 0⟩, redLimit := 0, function := 0 }

/-- A block of one instruction is mapped on stall 0 for context 0, its operands 0, and the schedule issues it next; the context and
the stall are made where the state has none, and run. -/
def State.placeWord (s : State) (w0 w1 : W64) : State :=
  let two := match decodeWord w0 w1 with | .ok i => i.twoSlot | .error _ => false
  let words := if two then [w0, w1] else [w0]
  let s := if (s.ctx? 0).isSome then s.modCtx 0 fun c => { c with preempted := false, blocked := false, tdHalt := false }
    else { s with ctxs := s.ctxs ++ [.bare 0 (bareParams 0 0)] }
  let s := if (s.stall? 0).isSome then s.modStall 0 fun x => { x with saved := false, owner := some 0 }
    else { s with stalls := s.stalls ++ [(0, { Stall.zeroed 0 16 with owner := some 0 })] }
  let s := s.modHall 0 fun h => { h with st := .available }
  let f : Frame := { Frame.blank 0 0 0 0 default with fid := s.nextId, fref := 1, place := .resident, inTable := true }
  let b : Block := { Block.fresh (s.nextId + 1) s.nextId 0 (bytesLE (1 + 16 * words.length) 16) 0 0 with
                     words := words, slots := words.map fun _ => ⟨some 0, some 0, some 0, false⟩ }
  { s with frames := s.frames ++ [f], blocks := s.blocks ++ [b], nextId := s.nextId + 2, sched := .fire (s.nextId + 1) 0 :: s.sched }

end Sys2Proof.Machine
end

