-- ==== Sys2Proof/Machine/Dispatch.lean ====
section
/-! DEFINITION. One arm per instruction and event of the opcode table: each calls its meaning. -/
namespace Sys2Proof.Machine

/-- The meaning of every instruction and event. -/
def exec (i : Instr) (s : State) : Host.Outcome State Fault Refusal :=
  match i with
  | .bro h eid ofs => Sys2Proof.Machine.execBro h eid ofs s
  | .bri h eid => Sys2Proof.Machine.execBri h eid s
  | .call h eid ofs => Sys2Proof.Machine.execCall h eid ofs s
  | .ret h eid => Sys2Proof.Machine.execRet h eid s
  | .fend h => Sys2Proof.Machine.execFend h s
  | .iter h => Sys2Proof.Machine.execIter h s
  | .null h reg => Sys2Proof.Machine.execNull h reg s
  | .mnull h lsid => Sys2Proof.Machine.execMnull h lsid s
  | .grd h reg => Sys2Proof.Machine.execGrd h reg s
  | .gwr h reg => Sys2Proof.Machine.execGwr h reg s
  | .movi h imm => Sys2Proof.Machine.execMovi h imm s
  | .movhi h imm => Sys2Proof.Machine.execMovhi h imm s
  | .mov h => Sys2Proof.Machine.execMov h s
  | .sel h => Sys2Proof.Machine.execSel h s
  | .tst h cc => Sys2Proof.Machine.execTst h cc s
  | .nop h => Sys2Proof.Machine.execNop h s
  | .yld h => Sys2Proof.Machine.execYld h s
  | .add h w => Sys2Proof.Machine.execAdd h w s
  | .sub h w => Sys2Proof.Machine.execSub h w s
  | .mul h w => Sys2Proof.Machine.execMul h w s
  | .mulh h w => Sys2Proof.Machine.execMulh h w s
  | .mulhu h w => Sys2Proof.Machine.execMulhu h w s
  | .div h w => Sys2Proof.Machine.execDiv h w s
  | .divu h w => Sys2Proof.Machine.execDivu h w s
  | .rem h w => Sys2Proof.Machine.execRem h w s
  | .remu h w => Sys2Proof.Machine.execRemu h w s
  | .and h w => Sys2Proof.Machine.execAnd h w s
  | .or h w => Sys2Proof.Machine.execOr h w s
  | .xor h w => Sys2Proof.Machine.execXor h w s
  | .andn h w => Sys2Proof.Machine.execAndn h w s
  | .shl h w => Sys2Proof.Machine.execShl h w s
  | .shr h w => Sys2Proof.Machine.execShr h w s
  | .sar h w => Sys2Proof.Machine.execSar h w s
  | .rotl h w => Sys2Proof.Machine.execRotl h w s
  | .clz h w => Sys2Proof.Machine.execClz h w s
  | .ctz h w => Sys2Proof.Machine.execCtz h w s
  | .popc h w => Sys2Proof.Machine.execPopc h w s
  | .min h w => Sys2Proof.Machine.execMin h w s
  | .max h w => Sys2Proof.Machine.execMax h w s
  | .minu h w => Sys2Proof.Machine.execMinu h w s
  | .maxu h w => Sys2Proof.Machine.execMaxu h w s
  | .abs h w => Sys2Proof.Machine.execAbs h w s
  | .addsh h w k => Sys2Proof.Machine.execAddsh h w k s
  | .addi h w imm => Sys2Proof.Machine.execAddi h w imm s
  | .andi h imm => Sys2Proof.Machine.execAndi h imm s
  | .ori h imm => Sys2Proof.Machine.execOri h imm s
  | .xori h imm => Sys2Proof.Machine.execXori h imm s
  | .shli h w n => Sys2Proof.Machine.execShli h w n s
  | .shri h w n => Sys2Proof.Machine.execShri h w n s
  | .sari h w n => Sys2Proof.Machine.execSari h w n s
  | .sext h n => Sys2Proof.Machine.execSext h n s
  | .zext h n => Sys2Proof.Machine.execZext h n s
  | .bfx h pos wd1 sx => Sys2Proof.Machine.execBfx h pos wd1 sx s
  | .bfi h pos wd1 => Sys2Proof.Machine.execBfi h pos wd1 s
  | .fadd h => Sys2Proof.Machine.execFadd h s
  | .fsub h => Sys2Proof.Machine.execFsub h s
  | .fmul h => Sys2Proof.Machine.execFmul h s
  | .ffma h => Sys2Proof.Machine.execFfma h s
  | .fdiv h => Sys2Proof.Machine.execFdiv h s
  | .fsqrt h => Sys2Proof.Machine.execFsqrt h s
  | .fmin h => Sys2Proof.Machine.execFmin h s
  | .fmax h => Sys2Proof.Machine.execFmax h s
  | .ftst h cc => Sys2Proof.Machine.execFtst h cc s
  | .fcvt h kind w => Sys2Proof.Machine.execFcvt h kind w s
  | .fclass h => Sys2Proof.Machine.execFclass h s
  | .frnd h dir => Sys2Proof.Machine.execFrnd h dir s
  | .fsgn h op => Sys2Proof.Machine.execFsgn h op s
  | .ld h m => Sys2Proof.Machine.execLd h m s
  | .st h m => Sys2Proof.Machine.execSt h m s
  | .ldh h m => Sys2Proof.Machine.execLdh h m s
  | .lds h m => Sys2Proof.Machine.execLds h m s
  | .pref h m => Sys2Proof.Machine.execPref h m s
  | .amoAdd h m => Sys2Proof.Machine.execAmoAdd h m s
  | .amoAnd h m => Sys2Proof.Machine.execAmoAnd h m s
  | .amoOr h m => Sys2Proof.Machine.execAmoOr h m s
  | .amoXor h m => Sys2Proof.Machine.execAmoXor h m s
  | .amoSwap h m => Sys2Proof.Machine.execAmoSwap h m s
  | .amoMin h m => Sys2Proof.Machine.execAmoMin h m s
  | .amoMax h m => Sys2Proof.Machine.execAmoMax h m s
  | .cas h m => Sys2Proof.Machine.execCas h m s
  | .fence h m => Sys2Proof.Machine.execFence h m s
  | .stmc h m => Sys2Proof.Machine.execStmc h m s
  | .htNew h => Sys2Proof.Machine.execHtNew h s
  | .htEnd h => Sys2Proof.Machine.execHtEnd h s
  | .htCancel h => Sys2Proof.Machine.execHtCancel h s
  | .hdInit h m => Sys2Proof.Machine.execHdInit h m s
  | .hdArr h m => Sys2Proof.Machine.execHdArr h m s
  | .hdWait h m => Sys2Proof.Machine.execHdWait h m s
  | .hdTest h m => Sys2Proof.Machine.execHdTest h m s
  | .hdXpct h m => Sys2Proof.Machine.execHdXpct h m s
  | .spawn h extra => Sys2Proof.Machine.execSpawn h extra s
  | .fref h => Sys2Proof.Machine.execFref h s
  | .fdrop h => Sys2Proof.Machine.execFdrop h s
  | .fget h m => Sys2Proof.Machine.execFget h m s
  | .fset h m => Sys2Proof.Machine.execFset h m s
  | .ftest h => Sys2Proof.Machine.execFtest h s
  | .peek h => Sys2Proof.Machine.execPeek h s
  | .launch h => Sys2Proof.Machine.execLaunch h s
  | .lwait h => Sys2Proof.Machine.execLwait h s
  | .cancel h => Sys2Proof.Machine.execCancel h s
  | .send h => Sys2Proof.Machine.execSend h s
  | .tdef h tc => Sys2Proof.Machine.execTdef h tc s
  | .tstate h ta hi => Sys2Proof.Machine.execTstate h ta hi s
  | .ttest h ta => Sys2Proof.Machine.execTtest h ta s
  | .tfree h ta => Sys2Proof.Machine.execTfree h ta s
  | .tzero h tc nb => Sys2Proof.Machine.execTzero h tc nb s
  | .tget h ta nb => Sys2Proof.Machine.execTget h ta nb s
  | .tsetE h tc => Sys2Proof.Machine.execTsetE h tc s
  | .tsetLnk h tc => Sys2Proof.Machine.execTsetLnk h tc s
  | .tsetExp h tc => Sys2Proof.Machine.execTsetExp h tc s
  | .tring h ta tc n => Sys2Proof.Machine.execTring h ta tc n s
  | .tcopy h ta tc nb => Sys2Proof.Machine.execTcopy h ta tc nb s
  | .pld h tc nb cpl => Sys2Proof.Machine.execPld h tc nb cpl s
  | .pst h ta nb cpl => Sys2Proof.Machine.execPst h ta nb cpl s
  | .pcpy h cpl => Sys2Proof.Machine.execPcpy h cpl s
  | .pgat h tc nb cpl => Sys2Proof.Machine.execPgat h tc nb cpl s
  | .psct h ta nb cpl => Sys2Proof.Machine.execPsct h ta nb cpl s
  | .prdc h ta nb cpl => Sys2Proof.Machine.execPrdc h ta nb cpl s
  | .pxpd h tc nb cpl => Sys2Proof.Machine.execPxpd h tc nb cpl s
  | .pcmp h ta nb cpl => Sys2Proof.Machine.execPcmp h ta nb cpl s
  | .pstrmIn h tc cpl => Sys2Proof.Machine.execPstrmIn h tc cpl s
  | .pstrmOut h tc cpl => Sys2Proof.Machine.execPstrmOut h tc cpl s
  | .pbar h tile => Sys2Proof.Machine.execPbar h tile s
  | .ppset h pa pb => Sys2Proof.Machine.execPpset h pa pb s
  | .pmmaI h p => Sys2Proof.Machine.execPmmaI h p s
  | .pmmaS h p => Sys2Proof.Machine.execPmmaS h p s
  | .pmmaX h p => Sys2Proof.Machine.execPmmaX h p s
  | .pmvI h p => Sys2Proof.Machine.execPmvI h p s
  | .pmvS h p => Sys2Proof.Machine.execPmvS h p s
  | .pmvX h p => Sys2Proof.Machine.execPmvX h p s
  | .pzacc h tc sq nb => Sys2Proof.Machine.execPzacc h tc sq nb s
  | .pwmap h ta tc nb => Sys2Proof.Machine.execPwmap h ta tc nb s
  | .spt t acc => Sys2Proof.Machine.execSpt t acc s
  | .spd t one => Sys2Proof.Machine.execSpd t one s
  | .spld h ta nb => Sys2Proof.Machine.execSpld h ta nb s
  | .spst h tc nb => Sys2Proof.Machine.execSpst h tc nb s
  | .spz h sp => Sys2Proof.Machine.execSpz h sp s
  | .spfence h => Sys2Proof.Machine.execSpfence h s
  | .vadd h v => Sys2Proof.Machine.execVadd h v s
  | .vsub h v => Sys2Proof.Machine.execVsub h v s
  | .vmul h v => Sys2Proof.Machine.execVmul h v s
  | .vfma h v => Sys2Proof.Machine.execVfma h v s
  | .vfms h v => Sys2Proof.Machine.execVfms h v s
  | .vmin h v => Sys2Proof.Machine.execVmin h v s
  | .vmax h v => Sys2Proof.Machine.execVmax h v s
  | .vabs h v => Sys2Proof.Machine.execVabs h v s
  | .vneg h v => Sys2Proof.Machine.execVneg h v s
  | .vrcp h v => Sys2Proof.Machine.execVrcp h v s
  | .vrsq h v => Sys2Proof.Machine.execVrsq h v s
  | .vdiv h v => Sys2Proof.Machine.execVdiv h v s
  | .vsqrt h v => Sys2Proof.Machine.execVsqrt h v s
  | .vexp2 h v => Sys2Proof.Machine.execVexp2 h v s
  | .vlog2 h v => Sys2Proof.Machine.execVlog2 h v s
  | .vcvt h v => Sys2Proof.Machine.execVcvt h v s
  | .vqnt h v wm => Sys2Proof.Machine.execVqnt h v wm s
  | .vdqnt h v => Sys2Proof.Machine.execVdqnt h v s
  | .vscl h v dv => Sys2Proof.Machine.execVscl h v dv s
  | .vred h v op all => Sys2Proof.Machine.execVred h v op all s
  | .vscan h v op all => Sys2Proof.Machine.execVscan h v op all s
  | .vbcast h src tc nb => Sys2Proof.Machine.execVbcast h src tc nb s
  | .vperm h v => Sys2Proof.Machine.execVperm h v s
  | .vsel h v => Sys2Proof.Machine.execVsel h v s
  | .vcmp h v cc => Sys2Proof.Machine.execVcmp h v cc s
  | .vand h v => Sys2Proof.Machine.execVand h v s
  | .vor h v => Sys2Proof.Machine.execVor h v s
  | .vxor h v => Sys2Proof.Machine.execVxor h v s
  | .vshl h v cnt => Sys2Proof.Machine.execVshl h v cnt s
  | .vshr h v cnt ar => Sys2Proof.Machine.execVshr h v cnt ar s
  | .vpopc h v => Sys2Proof.Machine.execVpopc h v s
  | .viota h tc nb => Sys2Proof.Machine.execViota h tc nb s
  | .visect h v => Sys2Proof.Machine.execVisect h v s
  | .vpfx h v rank => Sys2Proof.Machine.execVpfx h v rank s
  | .vgat h v bytes => Sys2Proof.Machine.execVgat h v bytes s
  | .vsct h v => Sys2Proof.Machine.execVsct h v s
  | .vdot8 h v => Sys2Proof.Machine.execVdot8 h v s
  | .red h => Sys2Proof.Machine.execRed h s
  | .rdinit h => Sys2Proof.Machine.execRdinit h s
  | .rdinitFree h => Sys2Proof.Machine.execRdinitFree h s
  | .rdwait h => Sys2Proof.Machine.execRdwait h s
  | .rdwaitF h => Sys2Proof.Machine.execRdwaitF h s
  | .xsend h ta nb => Sys2Proof.Machine.execXsend h ta nb s
  | .xrecv h tc nb => Sys2Proof.Machine.execXrecv h tc nb s
  | .svc h imm => Sys2Proof.Machine.execSvc h imm s
  | .trap h imm => Sys2Proof.Machine.execTrap h imm s
  | .bkpt h code => Sys2Proof.Machine.execBkpt h code s
  | .eret h => Sys2Proof.Machine.execEret h s
  | .eretEnd h => Sys2Proof.Machine.execEretEnd h s
  | .eretRedir h => Sys2Proof.Machine.execEretRedir h s
  | .csrr h n => Sys2Proof.Machine.execCsrr h n s
  | .csrw h n => Sys2Proof.Machine.execCsrw h n s
  | .mark h imm => Sys2Proof.Machine.execMark h imm s
  | .markV h imm => Sys2Proof.Machine.execMarkV h imm s
  | .fltrd h => Sys2Proof.Machine.execFltrd h s
  | .hint opc => Sys2Proof.Machine.execHint opc s
  | .frameServe st => Sys2Proof.Machine.execFrameServe st s
  | .blockFetch fid stale => Sys2Proof.Machine.execBlockFetch fid stale s
  | .blockMap fid => Sys2Proof.Machine.execBlockMap fid s
  | .speculativeMap fid addr => Sys2Proof.Machine.execSpeculativeMap fid addr s
  | .operandTokenArrival bid k => Sys2Proof.Machine.execOperandTokenArrival bid k s
  | .blockCommit bid => Sys2Proof.Machine.execBlockCommit bid s
  | .handlerFrameCreate hall => Sys2Proof.Machine.execHandlerFrameCreate hall s
  | .atomicAdmit op => Sys2Proof.Machine.execAtomicAdmit op s
  | .memReadResponse op err => Sys2Proof.Machine.execMemReadResponse op err s
  | .pageWalkDone w => Sys2Proof.Machine.execPageWalkDone w s
  | .storePerform k err => Sys2Proof.Machine.execStorePerform k err s
  | .hurdleUpdatePerform k err => Sys2Proof.Machine.execHurdleUpdatePerform k err s
  | .mcastDelivery k => Sys2Proof.Machine.execMcastDelivery k s
  | .futureCellFset k => Sys2Proof.Machine.execFutureCellFset k s
  | .futureReachChange k => Sys2Proof.Machine.execFutureReachChange k s
  | .producerEnd k => Sys2Proof.Machine.execProducerEnd k s
  | .continuationUnlink k => Sys2Proof.Machine.execContinuationUnlink k s
  | .tokenArrival k => Sys2Proof.Machine.execTokenArrival k s
  | .levelCounterUpdate k => Sys2Proof.Machine.execLevelCounterUpdate k s
  | .reclaimRequest k => Sys2Proof.Machine.execReclaimRequest k s
  | .heatCellsFree ctx tag => Sys2Proof.Machine.execHeatCellsFree ctx tag s
  | .callroomOverflowEntry hall => Sys2Proof.Machine.execCallroomOverflowEntry hall s
  | .paMessageStart st => Sys2Proof.Machine.execPaMessageStart st s
  | .paChunkEnd st ok => Sys2Proof.Machine.execPaChunkEnd st ok s
  | .paMessageComplete st => Sys2Proof.Machine.execPaMessageComplete st s
  | .vecMessageStart st => Sys2Proof.Machine.execVecMessageStart st s
  | .vecRowEnd st ok => Sys2Proof.Machine.execVecRowEnd st ok s
  | .vecMessageComplete st => Sys2Proof.Machine.execVecMessageComplete st s
  | .speMessageIssue st => Sys2Proof.Machine.execSpeMessageIssue st s
  | .speMessageComplete st ok => Sys2Proof.Machine.execSpeMessageComplete st ok s
  | .tileTableOpApply st k => Sys2Proof.Machine.execTileTableOpApply st k s
  | .porterJobAccept st => Sys2Proof.Machine.execPorterJobAccept st s
  | .porterJobStart st => Sys2Proof.Machine.execPorterJobStart st s
  | .porterRoundStart st job => Sys2Proof.Machine.execPorterRoundStart st job s
  | .porterRoundComplete st job err => Sys2Proof.Machine.execPorterRoundComplete st job err s
  | .porterJobComplete st job => Sys2Proof.Machine.execPorterJobComplete st job s
  | .tilePageRefill st page err => Sys2Proof.Machine.execTilePageRefill st page err s
  | .xmsgArrive k => Sys2Proof.Machine.execXmsgArrive k s
  | .redContributionArrive k => Sys2Proof.Machine.execRedContributionArrive k s
  | .redPartForwardArrive k => Sys2Proof.Machine.execRedPartForwardArrive k s
  | .redResultArrive k => Sys2Proof.Machine.execRedResultArrive k s
  | .stuckDetection ctx => Sys2Proof.Machine.execStuckDetection ctx s
  | .ingressSlotWrite ctx slot word val ide => Sys2Proof.Machine.execIngressSlotWrite ctx slot word val ide s
  | .launchPacket ctx => Sys2Proof.Machine.execLaunchPacket ctx s
  | .tokenPacket ctx => Sys2Proof.Machine.execTokenPacket ctx s
  | .cancelPacket ctx => Sys2Proof.Machine.execCancelPacket ctx s
  | .startPacket ctx => Sys2Proof.Machine.execStartPacket ctx s
  | .stopPacket ctx => Sys2Proof.Machine.execStopPacket ctx s
  | .imageLoad ctx cut pages => Sys2Proof.Machine.execImageLoad ctx cut pages s
  | .instanceSourceRelease inst allLoaded => Sys2Proof.Machine.execInstanceSourceRelease inst allLoaded s
  | .completionEntryPost ctx => Sys2Proof.Machine.execCompletionEntryPost ctx s
  | .cqHeadWrite ctx head => Sys2Proof.Machine.execCqHeadWrite ctx head s
  | .ctxCreate p => Sys2Proof.Machine.execCtxCreate p s
  | .ctxRun ctx => Sys2Proof.Machine.execCtxRun ctx s
  | .ctxDestroy ctx => Sys2Proof.Machine.execCtxDestroy ctx s
  | .ctxChange ctx c => Sys2Proof.Machine.execCtxChange ctx c s
  | .repitch ctx pitch => Sys2Proof.Machine.execRepitch ctx pitch s
  | .classSet hall slice cls ways rate => Sys2Proof.Machine.execClassSet hall slice cls ways rate s
  | .classGet hall slice cls => Sys2Proof.Machine.execClassGet hall slice cls s
  | .admissionWindow hall slice => Sys2Proof.Machine.execAdmissionWindow hall slice s
  | .tlbInval ctx va len => Sys2Proof.Machine.execTlbInval ctx va len s
  | .drainTokenArrive k => Sys2Proof.Machine.execDrainTokenArrive k s
  | .blockInval ctx => Sys2Proof.Machine.execBlockInval ctx s
  | .pairDelegate ctx hall pair va tables => Sys2Proof.Machine.execPairDelegate ctx hall pair va tables s
  | .pairRelease hall pair => Sys2Proof.Machine.execPairRelease hall pair s
  | .wprWrite k => Sys2Proof.Machine.execWprWrite k s
  | .wprPhase1End hall pair => Sys2Proof.Machine.execWprPhase1End hall pair s
  | .wprChangeEnd hall pair => Sys2Proof.Machine.execWprChangeEnd hall pair s
  | .registerWrite k => Sys2Proof.Machine.execRegisterWrite k s
  | .migrThreshSet n => Sys2Proof.Machine.execMigrThreshSet n s
  | .migrClear page => Sys2Proof.Machine.execMigrClear page s
  | .attest ctx nonce => Sys2Proof.Machine.execAttest ctx nonce s
  | .dbgBp ctx idx entry sealedOk => Sys2Proof.Machine.execDbgBp ctx idx entry sealedOk s
  | .dbgWp ctx idx entry sealedOk => Sys2Proof.Machine.execDbgWp ctx idx entry sealedOk s
  | .dbgHalt ctx slot sealedOk => Sys2Proof.Machine.execDbgHalt ctx slot sealedOk s
  | .dbgResume ctx ref pass stp sealedOk => Sys2Proof.Machine.execDbgResume ctx ref pass stp sealedOk s
  | .dbgRead ctx what sealedOk => Sys2Proof.Machine.execDbgRead ctx what sealedOk s
  | .dbgWrite ctx ref reg val sealedOk => Sys2Proof.Machine.execDbgWrite ctx ref reg val sealedOk s
  | .traceSet ctx w0 w1 sealedOk => Sys2Proof.Machine.execTraceSet ctx w0 w1 sealedOk s
  | .traceRoomReturn ctx => Sys2Proof.Machine.execTraceRoomReturn ctx s
  | .critPathWalkStep k => Sys2Proof.Machine.execCritPathWalkStep k s
  | .cntRead ofStall which counter sealedOk => Sys2Proof.Machine.execCntRead ofStall which counter sealedOk s
  | .pacerOpen hall cmd => Sys2Proof.Machine.execPacerOpen hall cmd s
  | .pacerClose hall cmd => Sys2Proof.Machine.execPacerClose hall cmd s
  | .pacerQuery hall cmd => Sys2Proof.Machine.execPacerQuery hall cmd s
  | .slotTableUpdate hall => Sys2Proof.Machine.execSlotTableUpdate hall s
  | .preempt st => Sys2Proof.Machine.execPreempt st s
  | .stallResume st => Sys2Proof.Machine.execStallResume st s
  | .hallStatus => Sys2Proof.Machine.execHallStatus s
  | .fuseRead => Sys2Proof.Machine.execFuseRead s
  | .hallReset hall cold => Sys2Proof.Machine.execHallReset hall cold s
  | .lostClear hall pa => Sys2Proof.Machine.execLostClear hall pa s
  | .bridgeFlitBadCheck bridge seq => Sys2Proof.Machine.execBridgeFlitBadCheck bridge seq s
  | .replayEntryLost bridge seq retainedOk => Sys2Proof.Machine.execReplayEntryLost bridge seq retainedOk s
  | .uePacketTrimmed pkt => Sys2Proof.Machine.execUePacketTrimmed pkt s
  | .tdispRequest ctx req => Sys2Proof.Machine.execTdispRequest ctx req s
  | .powerGood => Sys2Proof.Machine.execPowerGood s
  | .stageB ok il => Sys2Proof.Machine.execStageB ok il s
  | .stageC hall fuse => Sys2Proof.Machine.execStageC hall fuse s
  | .powerEnvelopeExceeded watts islands => Sys2Proof.Machine.execPowerEnvelopeExceeded watts islands s
  | .junctionLimit hall temp islands => Sys2Proof.Machine.execJunctionLimit hall temp islands s
  | .reservedTypePacket ctx => Sys2Proof.Machine.execReservedTypePacket ctx s
  | .transportParameterSet p => Sys2Proof.Machine.execTransportParameterSet p s
  | .linkLevelRetry port pkt repaired => Sys2Proof.Machine.execLinkLevelRetry port pkt repaired s
  | .mailboxMemoryAccess ctx va len data => Sys2Proof.Machine.execMailboxMemoryAccess ctx va len data s
  | .pageMap ctx va pa lvl flags keep tables => Sys2Proof.Machine.execPageMap ctx va pa lvl flags keep tables s
  | .ingressGrantSet ctx idx target => Sys2Proof.Machine.execIngressGrantSet ctx idx target s

end Sys2Proof.Machine
end

