-- ==== Sys2Proof/Machine/Mailbox.lean ====
section
/-! DEFINITION. What the host reads: the counts, logs and states that the rules name as read through the mailbox (R249, R352, R358, R409,
R435, R456, R323, R407), with what R433 shows of a confidential context, and the ingress port page (R351). -/
namespace Sys2Proof.Machine

/-- A load log entry as it is read (R358). -/
def LoadEntry.words (e : LoadEntry) : List Nat := [e.code, e.hall, e.stall, e.blk, e.slot, e.item, e.part]

/-- A firmware log entry as the mailbox shows it: of a confidential context its class, context, stall and sequence number (R409, R433). -/
def FwLog.shown (e : FwLog) : BitVec 256 := (if e.conf then { e with pa := 0, eng := 0 } else e).word

/-- An entry of a completion queue as the mailbox shows it: of a confidential context STATUS and KIND, beside the pass parity, and COOKIE,
JOB and DETAIL read 0 (R356, R433). -/
def shownEntry (confid : Bool) (v : Nat) : Nat := if confid then v / 2 ^ 80 % 2 ^ 16 * 2 ^ 80 + v % 2 else v

/-- A read that concerns one context; of a confidential one it is sealed (R433). -/
def State.readOf (s : State) (ctx : Nat) (k : Ctx → List Nat) : State :=
  match s.ctx? ctx with
  | none => s.reply 1 []
  | some c => if c.params.confid then s.reply 3 [] else s.reply 0 (k c)

/-- A read of the mailbox. -/
def State.mailRead (s : State) : MailRead → State
  | .droppedDeliveries ctx => s.readOf ctx fun c => [c.dropped]
  | .overruns ctx => s.readOf ctx fun c => [c.overrun]
  | .loadLog ctx => s.readOf ctx fun c => c.loadLog.flatMap LoadEntry.words
  | .firmwareLog hall => s.reply 0 ((s.hallD hall).fwlog.map fun e => e.shown.toNat)
  | .droppedReports hall => s.reply 0 [(s.hallD hall).dropped]
  | .correctedErrors hall => s.reply 0 [(s.hallD hall).corrected]
  | .droppedNotices => s.reply 0 [s.pkg.noticeDropped]
  | .links => s.reply 0 ((List.range 8).map fun k => (s.portUp k).toNat)
  | .completion ctx index =>
    match s.ctx? ctx with
    | none => s.reply 1 []
    | some c => s.reply 0 [shownEntry c.params.confid (s.vaRead ctx (c.params.cq.va + 16 * (index % max 1 c.cqSize)) 16)]
  | .power hall => s.reply 0 (s.pkg.watts :: (s.hallD hall).temp :: ((s.hallD hall).islands ++
      (List.range 512).map fun k => (s.stallD (512 * hall + k)).freq))

/-- A read of the ingress port page: ACC in bits [31:0] of word 0 of every slot, zero elsewhere (R351). -/
def State.portRead (s : State) (ctx ofs : Nat) : State :=
  match s.ctx? ctx with
  | none => s
  | some c => s.reply 0 [if ofs % 64 = 0 && ofs < 4096 then c.accepted % 2 ^ 32 else 0]

end Sys2Proof.Machine
end

