-- ==== Sys2Proof/Machine/Step.lean ====
section
/-! DEFINITION. One step: the next action of the schedule, and after it the sweep that brings every object to rest. -/
namespace Sys2Proof.Machine

/-- Runs one action of the schedule. An instruction word runs only through `fire`, on the block and slot it stands in; without power
only POWER_GOOD happens (R460). -/
def State.act (s : State) : Act → Out
  | .fire bid slot => s.holdTrace (s.fire bid slot exec)
  | .event i => if i.isWord || (s.pkg.stage == 0 && i != .powerGood) then .next s else if endsContext i then exec i s else s.holdTrace (exec i s)
  | .clock st n => .next (s.clock st n)
  | .hostWrite pa b => .next (s.hostWrite pa b)
  | .noticesTaken n => .next (s.takeNotices n)
  | .mailRead what => .next (s.mailRead what)
  | .portRead ctx ofs => .next (s.portRead ctx ofs)
  | .ueArrive port x => .next (s.ueArrive port x)
  | .softError x => .next (s.softError x)

/-- One step of the machine. -/
def step (s : State) : Out :=
  match s.nextAct.1.act s.nextAct.2 with
  | .next t => .next t.sweep
  | .fault e => .fault e
  | .refused r => .refused r

/-- The state in which the next step fires exactly the instruction of these bits, in slot 0 of a block of its own. -/
def State.withFetchWord (s : State) (nbits w : Nat) : State :=
  s.placeWord (tableWords (w % 2 ^ nbits)).1 (tableWords (w % 2 ^ nbits)).2

end Sys2Proof.Machine
end

