-- ==== Sys2Proof/Safety.lean ====
section
/-! DEFINITION. The terms claims are stated in: data in canonical form, what changes when an instruction word executes, and what it leaves
for its block's targets and its block's commit. -/
namespace Sys2Proof.Machine

/-- The state's data are in their canonical form: DRAM and host bytes, heat cells, and four halls (R2, R85, R211). -/
def State.ok (s : State) : Bool :=
  Memory.wf s.mem && spOk (0 : Byte) 0 s.cells && s.halls.length == 4

/-- The stores of every stall are in their canonical form: tile store and SPE scratch (R32, R35). -/
def State.storesOk (s : State) : Bool :=
  s.stalls.all fun e => spOk (0 : Byte) 0 e.2.store && spOk (0 : W32) 0 e.2.scratch

/-- Every frame, block and record carries a number that has been given out. -/
def State.numbersOk (s : State) : Bool :=
  (s.frames.all fun f => decide (f.fid < s.nextId)) && (s.blocks.all fun b => decide (b.bid < s.nextId)) &&
    s.recs.all fun r => decide (r.rid < s.nextId)

/-! What an instruction word changes -/

/-- The word of a mapped block is current and is not predicated off (R42, R43). -/
def Runs (s : State) (h : Hd) (c : Cx) : Prop := s.cx? = some c ∧ h.off c = false

/-- A counter advances, modulo 2^64 (R431). -/
def bump (n : Nat) : Nat → Nat := fun v => (v + n) % 2 ^ 64

/-- From `s` to `t` nothing changes but one mapped block, which becomes `b`. -/
structure OnlyBlock (s t : State) (b : Block) : Prop where
  block  : t.block? b.bid = some b
  others : ∀ i, i ≠ b.bid → t.block? i = s.block? i
  rest   : t = { s with blocks := t.blocks }

/-- From `s` to `t` nothing changes but counter `k` of stall `st` and of the context that owns it, which advance by one (R431). -/
structure OnlyCounter (s t : State) (st k : Nat) : Prop where
  stall : ∀ n, t.stall? n =
    (s.stall? n).map fun x => { x with counters := if n = st then x.counters.modify k (bump 1) else x.counters }
  ctx   : ∀ n, t.ctx? n =
    (s.ctx? n).map fun x => { x with counters := if (s.stallD st).owner = some n then x.counters.modify k (bump 1) else x.counters }
  rest  : t = { s with stalls := t.stalls, ctxs := t.ctxs }

/-- A word has executed: its block becomes `b`, counter INSTR advances (R431), and every register, flag, tile, byte of memory and
other piece of state stands as before. -/
def Ran (s t : State) (c : Cx) (b : Block) : Prop := ∃ u, OnlyBlock s u b ∧ OnlyCounter u t c.f.stall 3

/-- The block once its slot has fired (R42, R43). -/
def fired (c : Cx) (executed : Bool) : Block :=
  { c.b with slots := c.b.slots.modify c.slot fun x => { x with fired := true },
             waits := c.b.waits.filter fun w => w.1 != c.slot,
             ninstr := if executed then c.b.ninstr + 1 else c.b.ninstr }

/-- The tokens of a value that slot `n` delivers, one for each named target (R53, R368). -/
def tokens (n : Nat) (h : Hd) (v : W64) (a : Arrival) : List Transit :=
  (h.t0.toList ++ h.t1.toList).map fun t => { src := n, slot := t.slot.toNat, fld := t.fld, val := v, arr := a }

/-- The word has executed with the result `v`, which is on its way to each named target. -/
def Delivers (s t : State) (c : Cx) (h : Hd) (v : W64) : Prop :=
  ∃ a, Ran s t c { fired c true with transit := c.b.transit ++ tokens c.slot h v a }

/-- The word has executed, and its block has one more effect to apply at its commit (R46). -/
def Records (s t : State) (c : Cx) (e : Effect) : Prop :=
  Ran s t c { fired c true with effs := c.b.effs ++ [(c.slot, e)] }

/-- Wherever the word runs it executes with the result `v`. -/
def Gives (i : Instr) (h : Hd) (v : Cx → W64) : Prop :=
  ∀ s c, Runs s h c → ∃ t, exec i s = .next t ∧ Delivers s t c h (v c)

/-- The word waits: only the block's list of waits changes (R48). -/
def WaitsOn (s t : State) (c : Cx) (w : Wait) : Prop :=
  OnlyBlock s t { c.b with waits := (c.slot, w) :: c.b.waits.filter fun x => x.1 != c.slot }

/-- The word's memory operation is the first of its LSID (R46). -/
def FirstOf (c : Cx) (n : BitVec 5) : Prop := ∀ e ∈ c.b.lsids, e.1 ≠ n.toNat

/-- The block once a memory word of LSID `n` has executed with a checked access (R46, R396, R418). -/
def accessed (c : Cx) (n : BitVec 5) (x : Seen) : Block :=
  { fired c true with lsids := c.b.lsids ++ [(n.toNat, c.slot)], seen := c.b.seen ++ [x] }

/-- The access a memory word makes passes every check of R234. -/
def Passes (s : State) (c : Cx) (m : MF) (n : Need) (store : Bool) (a : Acc) : Prop :=
  s.checkAccess c.f.stall c.f.ctx c.b.bid n store (m.ea (m.base c)) m.wid.bytes (m.heat c) = .ok a

/-- Nothing but counters (R431), the services counted by the class tables (R378) and the lines held by the cache (R398) differs. -/
structure OnlyCounts (s t : State) : Prop where
  rest  : t = { s with stalls := t.stalls, ctxs := t.ctxs, classes := t.classes, l2 := t.l2 }
  stall : ∀ n, (t.stall? n).map (fun x => { x with counters := [] }) = (s.stall? n).map fun x => { x with counters := [] }
  ctx   : ∀ n, (t.ctx? n).map (fun x => { x with counters := [] }) = (s.ctx? n).map fun x => { x with counters := [] }

/-- The word takes a fault of its block: the shared operation of R434, in a state `u` that has the word's LSID noted. -/
def FaultsAt (u t : State) (c : Cx) (i : FaultInfo) : Prop := t = u.blockFault c.b.bid c.slot i

/-- The state with the word's LSID noted in its block (R46). -/
def noted (s : State) (c : Cx) (n : BitVec 5) : State :=
  s.modBlock c.b.bid fun b => { b with lsids := b.lsids ++ [(n.toNat, c.slot)] }

/-- A report of a context can be entered: its log has a free slot, or fewer than 256 reports wait in its hall (R435, log 26); and every
record has a number that has been given out. -/
def CanReport (s : State) (o : Org) : Prop :=
  (∀ r ∈ s.recs, r.rid < s.nextId) ∧ ∃ x, s.ctx? o.ctx = some x ∧ (x.freeLogSlot ≠ none ∨
    (s.recs.filter fun r => r.hall == hallOfStall o.stall && r.status == 0 && r.heldFid.isNone).length < 256)

/-- From `s` to `t` a report is entered for `o`: a new record with the class, the address and the rest that `i` names, which holds no frame
(R434, R438, R439). -/
def Reported (s t : State) (o : Org) (i : FaultInfo) : Prop :=
  ∃ r ∈ t.recs, s.nextId ≤ r.rid ∧ r.ctx = o.ctx ∧ r.hall = hallOfStall o.stall ∧ r.stall = o.stall ∧ r.slot = o.slot ∧ r.cls = i.cls ∧
    r.va = i.va.getD 0 ∧ r.heat = i.heat.getD o.heat ∧ r.extra = i.extra ∧ r.eng = i.eng ∧ r.heldFid = none ∧ r.org.iter = 0 ∧
    r.flags = (if i.straddle then 1 else 0) + (if i.specOrigin then 2 else 0) + 8 + (if i.wr then 32 else 0) + (if o.hnd then 64 else 0)

/-- From `s` to `t` the hurdle that a pair names in WPR_HURDLE gets its arrival: an update by 1 is on its way to it, or the class that stops
it is reported for a hall unit, as a write (R235, R404, log 77). -/
def PairArrives (s t : State) (p : Pair) (o : Org) : Prop :=
  let o' := { o with stall := p.hall * 512 + 0x1FF }
  let bad := fun (c : Cls) => CanReport s o' → Reported s t o' { cls := c, va := some p.hva, eng := 7, wr := true }
  (p.hva % 16 ≠ 0 → bad .address) ∧
  (p.hva % 16 = 0 → (∀ c, s.walkVa o.ctx p.hva = .error c → bad c) ∧
    ∀ l, s.walkVa o.ctx p.hva = .ok l →
      (∀ c, s.pageCheck ⟨true, true, true, false, false⟩ l.pa l.attr = some c → bad c) ∧
      (s.pageCheck ⟨true, true, true, false, false⟩ l.pa l.attr = none → ∃ w ∈ t.flight, s.nextId ≤ w.id ∧ w.org = o' ∧
        w.cargo = .hurdle ⟨o.ctx, 0, p.hva, 16, locsFrom p.hva l.pa 16 false⟩ 1 1 true))

/-! Words on sync pages, and what changes beside counters -/

/-- From `s` to `t` one mapped block becomes `b`; beside it only counters, class services and cache lines differ. -/
def Changes (s t : State) (b : Block) : Prop := ∃ u, OnlyBlock s u b ∧ OnlyCounts u t

/-- A sync access of 16 bytes passes its checks (R234, R246, R331, R334). -/
def SyncPasses (s : State) (c : Cx) (r w : Bool) (ea : W64) (heat : Nat) (a : Acc) : Prop :=
  ea.toNat % 16 = 0 ∧ s.checkAccess c.f.stall c.f.ctx c.b.bid ⟨r, w, true, false, false⟩ false ea 16 heat = .ok a

/-- The word's block once its access to a home has been made, by a word with an LSID or one without (R46, R396, R418). -/
def saw (c : Cx) (n : Option (BitVec 5)) (x : Seen) : Block :=
  { c.b with lsids := c.b.lsids ++ n.toList.map fun i => (i.toNat, c.slot), seen := c.b.seen ++ [x] }

/-- The word has read at its home and delivers `v`. -/
def ReadGives (s t : State) (c : Cx) (n : Option (BitVec 5)) (x : Seen) (h : Hd) (v : W64) : Prop :=
  ∃ a, Changes s t { fired { c with b := saw c n x } true with transit := c.b.transit ++ tokens c.slot h v a }

/-- The word has read at its home and faults. -/
def ReadFaults (s t : State) (c : Cx) (n : Option (BitVec 5)) (x : Seen) (i : FaultInfo) : Prop :=
  ∃ u, Changes s u (saw c n x) ∧ FaultsAt u t c i

/-- The word waits at a cell or hurdle word: its record is the first of the list there, its place is the new head and never 0, the record
stands at that place (where its page is there, and it is not the word itself) with the old head as its NEXT, and no other bit of memory
changes (R255, R257, R328, R329, R334). -/
def Links (s t : State) (c : Cx) (n : Option (BitVec 5)) (x : Seen) (a : Acc) (hurdle : Bool) : Prop :=
  ∃ m at_, let k : Cont := ⟨a.va, c.f.ctx, c.f.fid, c.b.bid, c.slot, false, hurdle, at_⟩
    let place := s.walkVa c.f.ctx (at_ * 16)
    Changes { s with conts := k :: s.conts, mem := m } t
      { saw c n x with waits := (c.slot, .cont a.va) :: c.b.waits.filter fun w => w.1 != c.slot } ∧ 0 < at_ ∧ at_ < 2 ^ 52 ∧
    readLE (spGet 0 m) a.pa 16 = headWord (s.rdLE a.pa 16) at_ hurdle ∧
    (∀ l, place = .ok l → l.pa + 16 ≤ a.pa ∨ a.pa + 16 ≤ l.pa →
      readLE (spGet 0 m) l.pa 16 = s.contWord k (contHead (s.contList c.f.ctx a.va))) ∧
    ∀ p, p < a.pa ∨ a.pa + 16 ≤ p → (∀ l, place = .ok l → p < l.pa ∨ l.pa + 16 ≤ p) → spGet 0 m p = s.rd8 p

/-- 16 bytes become the word `w`, and every other byte of memory stands. -/
def WordBecomes (s t : State) (pa w : Nat) : Prop :=
  t.rdLE pa 16 = w % 2 ^ 128 ∧ ∀ p, p < pa ∨ pa + 16 ≤ p → t.rd8 p = s.rd8 p

/-- The list at a cell or hurdle word is empty, and each of its waiters that is not DEAD has got `v` for its targets (1 for FTEST and
HD.TEST: R257, R329, R330, R335). -/
def Wakes (s t : State) (ctx va : Nat) (v : W64) : Prop :=
  t.conts = s.conts.filter (fun k => !(k.ctx == ctx && k.va == va)) ∧
  ∀ k ∈ s.conts, k.ctx = ctx → k.va = va → k.dead = false → ∀ b f i, s.block? k.bid = some b → s.frame? k.fid = some f →
    b.instr? k.slot = some i → ∃ b' a, t.block? k.bid = some b' ∧ ∀ x ∈ tokens k.slot i.hd (wakeValue i v) a, x ∈ b'.transit

/-- Everything but memory, blocks, waiting records, origins and counters, and what is in flight, stands. -/
def OnlyHome (s t : State) (k : Nat) : Prop :=
  OnlyCounts { s with flight := s.flight.eraseIdx k, mem := t.mem, blocks := t.blocks, conts := t.conts, origins := t.origins } t

/-! Engine instructions, tiles and stalls -/

/-- An engine instruction whose checks `bad` and tile states `ready` are given: it faults with the class a check names; under NB it faults
TILE_NOT_READY where the states do not hold; else it executes, and its message leaves at the commit with its operands (R54, R128, R262). -/
def Issues (i : Instr) (h : Hd) (nb : Bool) (bad : Cx → Stall → Option Cls) (ready : Cx → Stall → Bool) : Prop :=
  ∀ s c, Runs s h c → ∃ t, exec i s = .next t ∧
    (∀ k, bad c (s.stallD c.f.stall) = some k → FaultsAt s t c { cls := k }) ∧
    (bad c (s.stallD c.f.stall) = none → nb = true → ready c (s.stallD c.f.stall) = false → FaultsAt s t c { cls := .tileNotReady }) ∧
    (bad c (s.stallD c.f.stall) = none → (nb = true → ready c (s.stallD c.f.stall) = true) → Records s t c (.msg i c.l c.r))

/-- Stall `st` becomes `y`, and every other stall stands. -/
def StallBecomes (s t : State) (st : Nat) (y : Stall) : Prop :=
  t.stall? st = some y ∧ ∀ n, n ≠ st → t.stall? n = s.stall? n

/-- The folds of a message are taken: the flags of each tile it owes enter its frame's AF (R106). -/
def FoldsTaken (s t : State) (m : Msg) : Prop :=
  t.frames = s.frames.map fun f =>
    if f.fid = m.org.fid then
      { f with af := m.folds.foldl (fun a n => a ||| ((s.stallD m.org.stall).srcTile n).afl) f.af, folds := f.folds - m.folds.length }
    else f

/-- Tile `n` of a stall becomes `f` of what it was, and nothing else of the stall changes. -/
def Stall.withTile (x : Stall) (n : Nat) (f : Tile → Tile) : Stall := { x with tiles := x.tiles.modify n f }

/-- The head packet of a context's port is accepted with a completion entry of the packet's cookie, type and job (R352, R357); beside it
only the end of its image's instances, whose sources may have stopped, changes anything (R355). -/
def Answered (s t : State) (ctx : Nat) (c : Ctx) (p : Packet) (status detail : Nat) : Prop :=
  t.ctx? ctx = some { c with packets := c.packets.drop 1, accepted := if p.slotted then (c.accepted + 1) % 2 ^ 32 else c.accepted,
                             cqWaiting := c.cqWaiting ++ [⟨p.cookie, status, p.type, p.job, detail, none⟩] } ∧
    t.frames = s.frames ∧ t.blocks = s.blocks ∧ t.mem = s.mem ∧ t.stalls = s.stalls ∧ (∀ n, n ≠ ctx → t.ctx? n = s.ctx? n)

/-! Values at the width W of R134 -/

/-- An operation on two operands at W = 32 or 64; a 32-bit result is sign-extended (R134). -/
def atWidth (w : Bool) (f : (n : Nat) → BitVec n → BitVec n → BitVec n) (l r : W64) : W64 :=
  if w then (f 32 (l.setWidth 32) (r.setWidth 32)).signExtend 64 else f 64 l r

/-! Binary floating point, by value -/

/-- 2 to an integer power. -/
def twoTo (k : Int) : Rat := if 0 ≤ k then ((2 ^ k.toNat : Nat) : Rat) else 1 / ((2 ^ (-k).toNat : Nat) : Rat)

/-- Sign, exponent and fraction fields of a pattern with `eb` exponent and `fb` fraction bits. -/
def signOf (eb fb v : Nat) : Bool := v / 2 ^ (eb + fb) % 2 == 1
def expOf (eb fb v : Nat) : Nat := v / 2 ^ fb % 2 ^ eb
def fracOf (fb v : Nat) : Nat := v % 2 ^ fb

/-- The number a finite pattern stands for; none for an infinity or a NaN (R98). -/
def binValue (eb fb v : Nat) : Option Rat :=
  let e := expOf eb fb v
  let m := if e = 0 then fracOf fb v else 2 ^ fb + fracOf fb v
  let x := (m : Rat) * twoTo ((max e 1 : Nat) - (2 ^ (eb - 1) - 1 : Nat) - (fb : Nat))
  if e = 2 ^ eb - 1 then none else some (if signOf eb fb v then -x else x)

def binNan (eb fb v : Nat) : Bool := expOf eb fb v == 2 ^ eb - 1 && fracOf fb v != 0
def binInf (eb fb v : Nat) : Bool := expOf eb fb v == 2 ^ eb - 1 && fracOf fb v == 0
/-- A signalling NaN has the top fraction bit clear (R99). -/
def binSnan (eb fb v : Nat) : Bool := binNan eb fb v && decide (fracOf fb v < 2 ^ (fb - 1))

/-- FP32 values in order, -0 equal to +0; and with -0 just below +0. -/
def fpOrder (v : Nat) : Int := if signOf 8 23 v then -(v % 2 ^ 31 : Nat) else (v % 2 ^ 31 : Nat)
def fpRank (v : Nat) : Int := if signOf 8 23 v then -(v % 2 ^ 31 : Nat) - 1 else (v % 2 ^ 31 : Nat)

/-- A nonnegative real number, given by which rationals it reaches (`r ≤ a`) and which it equals (`r = a`). -/
structure Cut where
  le : Rat → Prop
  eq : Rat → Prop

def Cut.of (a : Rat) : Cut := ⟨fun r => r ≤ a, fun r => r = a⟩
/-- The square root of `a`. -/
def Cut.sqrt (a : Rat) : Cut := ⟨fun r => r < 0 ∨ r * r ≤ a, fun r => 0 ≤ r ∧ r * r = a⟩
/-- a / u for a positive u. -/
def Cut.per (a : Cut) (u : Rat) : Cut := ⟨fun r => a.le (r * u), fun r => a.eq (r * u)⟩

/-- round_int of R145. -/
def Cut.roundsTo (a : Cut) (rm : Rm) (neg : Bool) (n : Nat) : Prop :=
  ∃ q : Nat, a.le q ∧ ¬a.le (q + 1) ∧
    let half := (q : Rat) + 1 / 2
    let up := match rm with
      | .rne => (a.le half ∧ ¬a.eq half) ∨ (a.eq half ∧ q % 2 = 1)
      | .rmm => a.le half
      | .rtz => False
      | .rup => neg = false ∧ ¬a.eq q
      | .rdn => neg = true ∧ ¬a.eq q
    (up ∧ n = q + 1) ∨ (¬up ∧ n = q)

/-- round_fp32 of R145, for any such format: a nonzero magnitude rounds to the pattern `v` and raises `fl`. -/
def Cut.roundsFp (a : Cut) (eb fb : Nat) (rm : Rm) (neg : Bool) (v : Nat) (fl : FlagSet) : Prop :=
  let bias : Int := (2 ^ (eb - 1) - 1 : Nat)
  ∃ (e : Int) (n : Nat),
    1 - bias ≤ e ∧ (e = 1 - bias ∨ a.le (twoTo e)) ∧ ¬a.le (twoTo (e + 1)) ∧
    (a.per (twoTo (e - fb))).roundsTo rm neg n ∧
    let big := n = 2 ^ (fb + 1)
    let e' := if big then e + 1 else e
    let n' := if big then 2 ^ fb else n
    signOf eb fb v = neg ∧ v < 2 ^ (1 + eb + fb) ∧
    if bias < e' then
      fl = { of_ := true, nx := true } ∧
        (if rm = .rne ∨ rm = .rmm ∨ (rm = .rup ∧ neg = false) ∨ (rm = .rdn ∧ neg = true) then binInf eb fb v
         else expOf eb fb v = 2 ^ eb - 2 ∧ fracOf fb v = 2 ^ fb - 1)
    else
      let x := (n' : Rat) * twoTo (e' - fb)
      binValue eb fb v = some (if neg then -x else x) ∧
        fl.nv = false ∧ fl.dz = false ∧ fl.of_ = false ∧ fl.sat = false ∧
        (fl.nx = true ↔ ¬a.eq ((n : Rat) * twoTo (e - fb))) ∧
        (fl.uf = true ↔ n < 2 ^ fb ∧ ¬a.eq ((n : Rat) * twoTo (e - fb)))

/-- The six arithmetic instructions of R146. -/
inductive FpOp where
  | add | sub | mul | fma | div | sqrt
  deriving DecidableEq, Repr

def FpOp.word (o : FpOp) (h : Hd) : Instr :=
  match o with
  | .add => .fadd h
  | .sub => .fsub h
  | .mul => .fmul h
  | .fma => .ffma h
  | .div => .fdiv h
  | .sqrt => .fsqrt h

/-- FP32 operands of a word: the low 32 bits of its tokens (R134); an operand the word has not counts as 0. -/
def FpOp.args (o : FpOp) (c : Cx) : Nat × Nat × Nat :=
  (c.l.toNat % 2 ^ 32, if o = .sqrt then 0 else c.r.toNat % 2 ^ 32, if o = .fma then c.p.toNat % 2 ^ 32 else 0)

/-- The word has executed with an FP32 result, and its flags stay with the block until commit (R104, R134). -/
def DeliversFp (s t : State) (c : Cx) (h : Hd) (v : W64) (fl : FlagSet) : Prop :=
  ∃ a, Ran s t c { fired c true with transit := c.b.transit ++ tokens c.slot h v a, fflags := c.b.fflags ||| fl.fcsr }

/-- The magnitude of the exact result of R146 on finite operands, and its sign. -/
def FpOp.exact (o : FpOp) (a b p : Rat) : Cut × Bool :=
  let signed := fun (x : Rat) => (Cut.of (if x < 0 then -x else x), decide (x < 0))
  match o with
  | .add => signed (a + b)
  | .sub => signed (a - b)
  | .mul => signed (a * b)
  | .fma => signed (a * b + p)
  | .div => signed (a / b)
  | .sqrt => (Cut.sqrt a, false)

/-- The exact result of R146 is defined and is not zero. -/
def FpOp.regular (o : FpOp) (a b p : Rat) : Prop :=
  match o with
  | .add => a + b ≠ 0
  | .sub => a - b ≠ 0
  | .mul => a * b ≠ 0
  | .fma => a * b + p ≠ 0
  | .div => a ≠ 0 ∧ b ≠ 0
  | .sqrt => 0 < a

/-- The special cases of R147, read from top to bottom: pattern and flags, or none where the result is rounded. -/
def FpOp.special (o : FpOp) (rm : Rm) (l r p : Nat) : Option (Nat × FlagSet) :=
  let nan : Nat := 0x7FC00000
  let neg := signOf 8 23
  let inf := binInf 8 23
  let zero := fun (x : Nat) => x % 2 ^ 31 == 0
  let signed := fun (sg : Bool) (m : Nat) => m + (if sg then 2 ^ 31 else 0)
  let infinity := fun (sg : Bool) => signed sg 0x7F800000
  let value := fun (x : Nat) => (binValue 8 23 x).getD 0
  let sg := neg l != neg r
  let anyS := binSnan 8 23 l || binSnan 8 23 r || binSnan 8 23 p
  let anyN := binNan 8 23 l || binNan 8 23 r || binNan 8 23 p
  let sum := fun (inf1 neg1 inf2 neg2 isZero : Bool) =>
    if inf1 && inf2 then (if neg1 == neg2 then some (infinity neg1, {}) else some (nan, { nv := true }))
    else if inf1 then some (infinity neg1, {})
    else if inf2 then some (infinity neg2, {})
    else if isZero then some (signed (if neg1 == neg2 then neg1 else rm == .rdn) 0, {})
    else none
  if anyS then some (nan, { nv := true })
  else if (o == .mul || o == .fma) && ((zero l && inf r) || (inf l && zero r)) then some (nan, { nv := true })
  else if anyN then some (nan, {})
  else
    match o with
    | .add => sum (inf l) (neg l) (inf r) (neg r) (decide (value l + value r = 0))
    | .sub => sum (inf l) (neg l) (inf r) (!neg r) (decide (value l - value r = 0))
    | .fma => sum (inf l || inf r) sg (inf p) (neg p) (decide (value l * value r + value p = 0))
    | .mul => if inf l || inf r then some (infinity sg, {}) else if zero l || zero r then some (signed sg 0, {}) else none
    | .div =>
      if (zero l && zero r) || (inf l && inf r) then some (nan, { nv := true })
      else if !inf l && zero r then some (infinity sg, { dz := true })
      else if inf l then some (infinity sg, {})
      else if inf r || zero l then some (signed sg 0, {})
      else none
    | .sqrt => if zero l then some (l, {}) else if neg l then some (nan, { nv := true }) else if inf l then some (l, {}) else none

/-! What engine messages compute -/

/-- The first of a list of breaches names the class; where none holds no class is named. -/
def Faults (o : Option Cls) : List (Prop × Cls) → Prop
  | [] => o = none
  | (p, c) :: l => (p → o = some c) ∧ (¬p → Faults o l)

/-- Two tiles share a row of the tile store (R34, R157). -/
def Stall.shares (x : Stall) (a b : Tile) : Prop := ∃ k, (x.span a).1 ≤ k ∧ k < (x.span a).2 ∧ (x.span b).1 ≤ k ∧ k < (x.span b).2

/-- Element `e`, of `n` bits, of an image (R103). -/
def imageElem (n : Nat) (bs : List Byte) (e : Nat) : Nat := ofBytes ((bs.drop (e * (n / 8))).take (n / 8))

/-- Byte `k` of a tile's image (R90). -/
def Stall.byteAt (x : Stall) (t : Tile) (k : Nat) : Nat := ((x.tileBytes t k 1).headD 0).toNat

/-- Bit `p` of element `e` of group `g` of a planar tile (R88, R90). -/
def Stall.planeBit (x : Stall) (t : Tile) (g p e : Nat) : Bool := (x.byteAt t (128 * (t.width * g + p) + e / 8)).testBit (e % 8)

/-- The width-map entry of a group; the declared width where no map is read (R91, R92, R93). -/
def Stall.groupWidth (x : Stall) (t : Tile) (g : Nat) : Nat := if t.wmv && t.fmt != 2 then x.byteAt (x.tileD t.wml) g % 32 else t.width

/-- elem_int (R93). -/
def Stall.elemInt (x : Stall) (t : Tile) (g e : Nat) : Int :=
  let v := min (x.groupWidth t g) t.width
  let u := ((List.range v).map fun p => if x.planeBit t g p e then (2 : Int) ^ p else 0).sum
  if t.fmt ≠ 0 ∧ v = t.width ∧ x.planeBit t g (t.width - 1) e = true then u - (2 : Int) ^ t.width else u

/-- The value an operand element takes with `q` planes used (R86, R113, R116). -/
def Stall.opv (x : Stall) (t : Tile) (g e q : Nat) : Int :=
  if t.fmt = 2 then (if x.planeBit t g 0 e then 1 else -1)
  else x.elemInt t g e / (2 : Int) ^ (t.width - q) * (2 : Int) ^ (t.width - q)

/-- Element `e`, of `n` bits, of what a vector message writes into TC. -/
def Stall.vecElem (x : Stall) (m : Msg) (n e : Nat) : Nat := imageElem n ((x.vecRun m).outs.headD (0, [])).2 e

/-- The element of TB that serves element `e`: a single row serves every row (R157). -/
def castIx (b c : Tile) (e : Nat) : Nat := if b.rows = c.rows then e else e % 256

/-- Exponent and fraction widths of a class F format (R98). -/
def fieldsOf (f : Nat) : Nat × Nat :=
  match f with
  | 5 => (8, 7)
  | 6 => (5, 10)
  | 7 => (4, 3)
  | 8 => (5, 2)
  | 9 => (2, 1)
  | _ => (8, 23)

/-- NaN, infinity and value of an element of class F: E4M3 has one NaN code for each sign and no infinity, E2M1 neither (R98). -/
def elemNan (f v : Nat) : Bool := if f = 7 then v % 128 == 127 else f != 9 && binNan (fieldsOf f).1 (fieldsOf f).2 v
def elemInf (f v : Nat) : Bool := f != 7 && f != 9 && binInf (fieldsOf f).1 (fieldsOf f).2 v
def elemValue (f v : Nat) : Option Rat :=
  let eb := (fieldsOf f).1
  let fb := (fieldsOf f).2
  let e := expOf eb fb v
  let m := if e = 0 then fracOf fb v else 2 ^ fb + fracOf fb v
  let x := (m : Rat) * twoTo ((max e 1 : Nat) - (2 ^ (eb - 1) - 1 : Nat) - (fb : Nat))
  if elemNan f v || elemInf f v then none else some (if signOf eb fb v then -x else x)

/-- An element and an FP32 pattern stand for the same value (R98, R100). -/
structure SameFp (f v w : Nat) : Prop where
  nan  : elemNan f v = binNan 8 23 w
  signalling : (f != 7 && f != 9 && binSnan (fieldsOf f).1 (fieldsOf f).2 v) = binSnan 8 23 w
  inf  : elemInf f v = binInf 8 23 w
  sign : elemNan f v = true ∨ signOf (fieldsOf f).1 (fieldsOf f).2 v = signOf 8 23 w
  val  : elemValue f v = binValue 8 23 w

/-- The canonical NaN of a format (R99). -/
def canonicalNan (f : Nat) : Nat := if f = 5 then 0x7FC0 else if f = 6 then 0x7E00 else 0x7FC00000

/-- The element of format `f` that an exact number becomes, and its flags: one rounding; zero is +0 (R158). -/
def RoundsTo (f : Nat) (rm : Rm) (y : Rat) (v : Nat) (fl : FlagSet) : Prop :=
  if y = 0 then v = 0 ∧ fl = {} else (Cut.of (if y < 0 then -y else y)).roundsFp (fieldsOf f).1 (fieldsOf f).2 rm (decide (y < 0)) v fl

/-- The element of format `f` that the value of an FP32 pattern becomes, and its flags (R99, R158). -/
def Becomes (f : Nat) (rm : Rm) (w v : Nat) (fl : FlagSet) : Prop :=
  (binNan 8 23 w = true → v = canonicalNan f ∧ fl = { nv := binSnan 8 23 w }) ∧
    (binInf 8 23 w = true ∨ binValue 8 23 w = some 0 → SameFp f v w ∧ fl = {}) ∧
    ∀ y, binValue 8 23 w = some y → y ≠ 0 → RoundsTo f rm y v fl

/-- The element of format `f` that an instruction of R146 gives on operands with the values of FP32 patterns (R147, R158). -/
def FpOp.elem (o : FpOp) (f : Nat) (rm : Rm) (l r p v : Nat) (fl : FlagSet) : Prop :=
  (∀ w fw, o.special rm l r p = some (w, fw) → (if binNan 8 23 w then v = canonicalNan f else SameFp f v w) ∧ fl = fw) ∧
    ∀ a b c, binValue 8 23 l = some a → binValue 8 23 r = some b → binValue 8 23 p = some c → o.special rm l r p = none →
      (o.exact a b c).1.roundsFp (fieldsOf f).1 (fieldsOf f).2 rm (o.exact a b c).2 v fl

/-- FMIN, and FMAX where `max`, of FP32 patterns (R148). -/
def pickFp (max : Bool) (l r : Nat) : Nat :=
  if binNan 8 23 l && binNan 8 23 r then 0x7FC00000 else if binNan 8 23 l then r else if binNan 8 23 r then l
  else if max then (if fpRank l < fpRank r then r else l) else if fpRank r < fpRank l then r else l

/-- 1 / √a, for a above 0. -/
def Cut.rsqrt (a : Rat) : Cut := ⟨fun r => r < 0 ∨ r * r * a ≤ 1, fun r => 0 ≤ r ∧ r * r * a = 1⟩

/-- A vector message leaves `n` elements of `bits` bits and their flags, which join what TC held where the instruction merges (R107, R158). -/
def Stall.VecGives (x : Stall) (m : Msg) (bits n : Nat) (base : BitVec 5) (rule : Nat → Nat → FlagSet → Prop) : Prop :=
  ∃ fl : Nat → FlagSet, (∀ e, e < n → x.vecElem m bits e < 2 ^ bits ∧ rule e (x.vecElem m bits e) (fl e)) ∧
    ∀ k, k < 5 → ((x.vecRun m).flags.getLsbD k = true ↔ base.getLsbD k = true ∨ ∃ e, e < n ∧ (fl e).afl.getLsbD k = true)

/-- The value of an element that VQNT reads; none for an infinity or a NaN (R173). -/
def elemReal (f v : Nat) : Option Rat :=
  if f = 11 then some (((BitVec.ofNat 32 v).toInt : Int) : Rat) else if f = 12 then some (((BitVec.ofNat 64 v).toInt : Int) : Rat) else elemValue f v

/-- rne_int, saturated to a range, with its flags (R95, R173). -/
def Saturates (lo hi : Int) (y : Rat) (q : Int) (fl : FlagSet) : Prop :=
  ∃ n : Nat, (Cut.of (if y < 0 then -y else y)).roundsTo .rne (decide (y < 0)) n ∧
    let r : Int := if y < 0 then -(n : Int) else n
    q = max lo (min hi r) ∧ fl = { nx := decide ((r : Rat) ≠ y), sat := decide (q ≠ r) }

/-- The fixed tree over `n` positions: the aligned block of 2^k from `lo` (R176). -/
def treeOf {α : Type} (f : α → α → α) (x : Nat → α) (n : Nat) : Nat → Nat → Option α
  | 0, lo => if lo < n then some (x lo) else none
  | k + 1, lo =>
    if n ≤ lo then none
    else
      match treeOf f x n k lo, treeOf f x n k (lo + 2 ^ k) with
      | some a, some b => some (f a b)
      | some a, none => some a
      | none, b => b

/-- The inclusive prefix of element `j` over the blocks of the binary form of j + 1, largest first (R178). -/
def scanOf {α : Type} (f : α → α → α) (x : Nat → α) (n j : Nat) : Option α :=
  ((List.range (j + 1)).reverse.foldl (fun (e : Option α × Nat) k =>
    if (j + 1).testBit k then
      ((match e.1, treeOf f x n k e.2 with | some a, some b => some (f a b) | some a, none => some a | none, b => b), e.2 + 2 ^ k)
    else e) (none, 0)).1

/-- The number an SP32 pattern stands for (R101). -/
def sp32Num (v : Nat) : Rat :=
  if v / 2 ^ 23 = 511 then 0 else (1 + ((v % 2 ^ 23 : Nat) : Rat) / ((2 ^ 23 : Nat) : Rat)) * twoTo (-((v / 2 ^ 23 : Nat) : Int))

/-- sp32_round (R102). -/
def Sp32Rounds (y : Rat) (v : Nat) (fl : FlagSet) : Prop :=
  if y = 0 then v = 0xFF800000 ∧ fl = {}
  else ∃ (k : Int) (n : Nat), twoTo k ≤ y ∧ y < twoTo (k + 1) ∧ ((Cut.of y).per (twoTo (k - 23))).roundsTo .rne false n ∧
    let k' := if n = 2 ^ 24 then k + 1 else k
    let n' := if n = 2 ^ 24 then 2 ^ 23 else n
    if 1 ≤ k' then v = 0x7FFFFF ∧ fl = { of_ := true, nx := true }
    else if k' < -510 then v = 0xFF800000 ∧ fl = { uf := true, nx := true }
    else v = (-k').toNat * 2 ^ 23 + (n' - 2 ^ 23) ∧ fl = { nx := decide ((n' : Rat) * twoTo (k' - 23) ≠ y) }

/-- The nodes' values of a subtree over its leaves (R189, R192). -/
def NodesHave (fmt : Nat) (t : SF) (leaf val : Nat → Nat) : Prop :=
  (∀ k, k < 3 → val k = (speNode fmt (t.op k) (val (2 * k + 1)) (val (2 * k + 2))).1) ∧
    ∀ k, 3 ≤ k → k < 7 → val k = (speNode fmt (t.op k) (leaf (2 * (k - 3))) (leaf (2 * (k - 3) + 1))).1

/-- A node is its parent's left child, or its parent evaluates its right child too (R190). -/
def nodeGoes (t : SF) (k : Nat) : Prop := k % 2 = 1 ∨ t.op ((k - 1) / 2) ≠ 3
/-- reach (R190). -/
def nodeReached (t : SF) (k : Nat) : Prop := k = 0 ∨ (nodeGoes t k ∧ (k < 3 ∨ nodeGoes t ((k - 1) / 2)))
/-- read (R190). -/
def leafTaken (t : SF) (j : Nat) : Prop := nodeReached t (3 + j / 2) ∧ (t.op (3 + j / 2) ≠ 3 ∨ j % 2 = 0)

/-- The FP32 pattern of the value of an FP32 or BF16 entry. -/
def widened (fmt v : Nat) : Nat := if fmt = 1 then v * 2 ^ 16 else v
/-- MAX returns its right child (R191, R193). -/
def takesRight (fmt l r : Nat) : Bool :=
  if fmt = 2 then decide (sp32Num l < sp32Num r)
  else
    let a := widened fmt l
    let b := widened fmt r
    !binNan 8 23 b && (binNan 8 23 a || decide (fpRank a < fpRank b))
/-- What a node with an adjoint gives its left and its right child, from their values (R193). -/
def adjoints (fmt op l r : Nat) : Option Nat → Option Nat × Option Nat
  | none => (none, none)
  | some d =>
    if op = 0 then (some d, some d)
    else if op = 1 then (some (speNode fmt 1 d r).1, some (speNode fmt 1 d l).1)
    else if op = 2 then (if takesRight fmt l r then (none, some d) else (some d, none))
    else (some d, none)

end Sys2Proof.Machine
end

