-- ==== Sys2Proof/Certificates/Slice0/Obligations.lean ====
section
/-! DEFINITION. The statements for the provers. Each says what a rule of the specification says of the model's machine; a statement
of several parts is their conjunction, in the order its text gives. -/
open Sys2Proof Sys2Proof.Machine

/-- 1. ADD, SUB, MUL, ADDSH and ADDI deliver the sum, difference, product and scaled sum at the width of their form (R134, R141, R143).

2. MULH and MULHU deliver the high W bits of the signed and of the unsigned product (R141).

3. The bitwise operations on two tokens and on a token and an immediate (R141, R143).

4. Shifts and the rotation by a token's value modulo W, and shifts by an immediate (R141, R143).

5. CLZ, CTZ and POPC count within W bits (R141).

6. MIN, MAX, MINU, MAXU and ABS (R141).

7. SEXT, ZEXT, BFX and BFI, for the field sizes their encodings admit (R143, R144). -/
def Obligations.IntegerArithmetic : Prop :=
  ((∀ h w, Gives (.add h w) h fun c => atWidth w (fun _ a b => a + b) c.l c.r) ∧
    (∀ h w, Gives (.sub h w) h fun c => atWidth w (fun _ a b => a - b) c.l c.r) ∧
    (∀ h w, Gives (.mul h w) h fun c => atWidth w (fun _ a b => a * b) c.l c.r) ∧
    (∀ h w k, Gives (.addsh h w k) h fun c => atWidth w (fun _ a b => a + b <<< k.toNat) c.l c.r) ∧
    (∀ h w imm, Gives (.addi h w imm) h fun c => atWidth w (fun n a _ => a + imm.signExtend n) c.l c.r)) ∧
  ((∀ h w, Gives (.mulh h w) h fun c =>
      atWidth w (fun n a b => (a.signExtend (2 * n) * b.signExtend (2 * n)).extractLsb' n n) c.l c.r) ∧
    (∀ h w, Gives (.mulhu h w) h fun c =>
      atWidth w (fun n a b => (a.setWidth (2 * n) * b.setWidth (2 * n)).extractLsb' n n) c.l c.r)) ∧
  ((∀ h w, Gives (.and h w) h fun c => atWidth w (fun _ a b => a &&& b) c.l c.r) ∧
    (∀ h w, Gives (.or h w) h fun c => atWidth w (fun _ a b => a ||| b) c.l c.r) ∧
    (∀ h w, Gives (.xor h w) h fun c => atWidth w (fun _ a b => a ^^^ b) c.l c.r) ∧
    (∀ h w, Gives (.andn h w) h fun c => atWidth w (fun _ a b => a &&& ~~~b) c.l c.r) ∧
    (∀ h imm, Gives (.andi h imm) h fun c => c.l &&& imm.signExtend 64) ∧
    (∀ h imm, Gives (.ori h imm) h fun c => c.l ||| imm.signExtend 64) ∧
    (∀ h imm, Gives (.xori h imm) h fun c => c.l ^^^ imm.signExtend 64)) ∧
  ((∀ h w, Gives (.shl h w) h fun c => atWidth w (fun n a b => a <<< (b.toNat % n)) c.l c.r) ∧
    (∀ h w, Gives (.shr h w) h fun c => atWidth w (fun n a b => a >>> (b.toNat % n)) c.l c.r) ∧
    (∀ h w, Gives (.sar h w) h fun c => atWidth w (fun n a b => a.sshiftRight (b.toNat % n)) c.l c.r) ∧
    (∀ h w, Gives (.rotl h w) h fun c => atWidth w (fun n a b => a.rotateLeft (b.toNat % n)) c.l c.r) ∧
    (∀ h w k, Gives (.shli h w k) h fun c => atWidth w (fun _ a _ => a <<< k.toNat) c.l c.r) ∧
    (∀ h w k, Gives (.shri h w k) h fun c => atWidth w (fun _ a _ => a >>> k.toNat) c.l c.r) ∧
    (∀ h w k, Gives (.sari h w k) h fun c => atWidth w (fun _ a _ => a.sshiftRight k.toNat) c.l c.r)) ∧
  ((∀ h w, Gives (.clz h w) h fun c => atWidth w (fun _ a _ => a.clz) c.l c.r) ∧
    (∀ h w, Gives (.ctz h w) h fun c => atWidth w (fun _ a _ => a.ctz) c.l c.r) ∧
    (∀ h w, Gives (.popc h w) h fun c => atWidth w (fun _ a _ => a.cpop) c.l c.r)) ∧
  ((∀ h w, Gives (.min h w) h fun c => atWidth w (fun _ a b => if a.slt b then a else b) c.l c.r) ∧
    (∀ h w, Gives (.max h w) h fun c => atWidth w (fun _ a b => if a.slt b then b else a) c.l c.r) ∧
    (∀ h w, Gives (.minu h w) h fun c => atWidth w (fun _ a b => if a.ult b then a else b) c.l c.r) ∧
    (∀ h w, Gives (.maxu h w) h fun c => atWidth w (fun _ a b => if a.ult b then b else a) c.l c.r) ∧
    (∀ h w, Gives (.abs h w) h fun c => atWidth w (fun _ a _ => a.abs) c.l c.r)) ∧
  ((∀ h n, (Instr.sext h n).valuesOk = true → Gives (.sext h n) h fun c => (c.l.setWidth n.toNat).signExtend 64) ∧
    (∀ h n, (Instr.zext h n).valuesOk = true → Gives (.zext h n) h fun c => (c.l.setWidth n.toNat).setWidth 64) ∧
    (∀ h pos wd1 sx, (Instr.bfx h pos wd1 sx).valuesOk = true → Gives (.bfx h pos wd1 sx) h fun c =>
      let f := c.l.extractLsb' pos.toNat (wd1.toNat + 1)
      if sx then f.signExtend 64 else f.setWidth 64) ∧
    (∀ h pos wd1, (Instr.bfi h pos wd1).valuesOk = true → ∀ s c, Runs s h c →
      ∃ t v, exec (.bfi h pos wd1) s = .next t ∧ Delivers s t c h v ∧
        ∀ i, v.getLsbD i =
          if pos.toNat ≤ i ∧ i < pos.toNat + wd1.toNat + 1 then c.r.getLsbD (i - pos.toNat) else c.l.getLsbD i))

/-- Division and remainder, with the results of R142 for a zero divisor; the most negative number divided by -1 gives itself, with
remainder 0, as `sdiv` and `srem` do. The four share opcode 0x14 with SUB 0 to 3. -/
def Obligations.IntegerDivision : Prop :=
  (∀ h w, Gives (.div h w) h fun c => atWidth w (fun n a b => if b = 0 then BitVec.allOnes n else a.sdiv b) c.l c.r) ∧
  (∀ h w, Gives (.divu h w) h fun c => atWidth w (fun n a b => if b = 0 then BitVec.allOnes n else a.udiv b) c.l c.r) ∧
  (∀ h w, Gives (.rem h w) h fun c => atWidth w (fun _ a b => if b = 0 then a else a.srem b) c.l c.r) ∧
  (∀ h w, Gives (.remu h w) h fun c => atWidth w (fun _ a b => if b = 0 then a else a.umod b) c.l c.r) ∧
  (∀ h w, [Instr.div h w, .divu h w, .rem h w, .remu h w].map (fun i => (opcOf (encode i).1, subA (payOf (encode i).1))) =
    [(0x14, 0), (0x14, 1), (0x14, 2), (0x14, 3)])

/-- 1. MOV, MOVI, MOVHI, SEL, ITER and TST deliver what R139 says: SEL chooses by bit 0 of the third operand, ITER gives the iteration
index in a loop block and 0 elsewhere, TST gives 1 or 0 on the full 64 bits.

2. NOP and a hint execute and do nothing else; YIELD leaves one effect for the commit (R62, R140).

3. GRD delivers the register as the frame holds it at block entry; GWR and NULL satisfy the register's mask bit, and MNULL its
LSID's; the register itself changes at the commit only (R23, R139). In a block mapped ahead, GRD delivers what the block before it
writes to the register, the fall-through address for g30 where that block leaves by CALL, and waits until that exists (R370).

4. A predicated-off word of any kind consumes its tokens and has no effect: nothing changes but its slot, which has fired (R43). A
hint, SPT and SPD have no predicate. -/
def Obligations.DataWords : Prop :=
  ((∀ h, Gives (.mov h) h fun c => c.l) ∧
    (∀ h imm, Gives (.movi h imm) h fun _ => imm.signExtend 64) ∧
    (∀ h imm, Gives (.movhi h imm) h fun c => imm ++ c.l.setWidth 32) ∧
    (∀ h, Gives (.sel h) h fun c => if c.p.getLsbD 0 then c.l else c.r) ∧
    (∀ h, Gives (.iter h) h fun c => if c.b.isLoop then BitVec.ofNat 64 c.b.iter else 0) ∧
    (∀ h cc, Gives (.tst h cc) h fun c =>
      let holds := match cc with
        | .eq => decide (c.l = c.r)
        | .ne => decide (c.l ≠ c.r)
        | .lt => decide (c.l.toInt < c.r.toInt)
        | .ge => decide (c.l.toInt ≥ c.r.toInt)
        | .ltu => decide (c.l.toNat < c.r.toNat)
        | .geu => decide (c.l.toNat ≥ c.r.toNat)
      if holds then 1 else 0)) ∧
  ((∀ h s c, Runs s h c → ∃ t, exec (.nop h) s = .next t ∧ Ran s t c (fired c true)) ∧
    (∀ opc s c, s.cx? = some c → ∃ t, exec (.hint opc) s = .next t ∧ Ran s t c (fired c true)) ∧
    (∀ h s c, Runs s h c → ∃ t, exec (.yld h) s = .next t ∧ Records s t c .yld)) ∧
  ((∀ h reg s c, Runs s h c → c.b.pred = none →
      ∃ t, exec (.grd h reg) s = .next t ∧ Delivers s t c h (c.f.regs.get ⟨reg.toNat, reg.isLt⟩)) ∧
    (∀ h (reg : BitVec 5) s c q p, Runs s h c → c.b.pred = some q → s.block? q = some p → p.isLoop = false →
      (reg ≠ 30 → ∀ k v, p.gws.find? (fun e => e.1 == reg.toNat) = some (reg.toNat, k, some v) →
        ∃ t, exec (.grd h reg) s = .next t ∧ Delivers s t c h v) ∧
      (reg = 30 → ∀ k a ret, p.exits = [(k, .call a ret)] →
        ∃ t, exec (.grd h reg) s = .next t ∧ Delivers s t c h (BitVec.ofNat 64 ret)) ∧
      (reg ≠ 30 → (∀ e ∈ p.gws, e.1 ≠ reg.toNat) → p.wmask.testBit reg.toNat = true →
        ∃ t, exec (.grd h reg) s = .next t ∧ WaitsOn s t c .order)) ∧
    (∀ h reg s c, Runs s h c → (∀ e ∈ c.b.gws, e.1 ≠ reg.toNat) →
      ∃ t, exec (.gwr h reg) s = .next t ∧ Ran s t c { fired c true with gws := c.b.gws ++ [(reg.toNat, c.slot, some c.l)] }) ∧
    (∀ h reg s c, Runs s h c → (∀ e ∈ c.b.gws, e.1 ≠ reg.toNat) →
      ∃ t, exec (.null h reg) s = .next t ∧ Ran s t c { fired c true with gws := c.b.gws ++ [(reg.toNat, c.slot, none)] }) ∧
    (∀ h n s c, Runs s h c → (∀ e ∈ c.b.lsids, e.1 ≠ n.toNat) →
      ∃ t, exec (.mnull h n) s = .next t ∧ Ran s t c { fired c true with lsids := c.b.lsids ++ [(n.toNat, c.slot)] })) ∧
  (∀ i s c, i.isWord = true → i.twoSlot = false → i.isHint = false → s.cx? = some c → i.hd.off c = true →
      ∃ t, exec i s = .next t ∧ OnlyBlock s t (fired c false))

/-- 1. Every result of FADD, FSUB, FMUL, FFMA, FDIV and FSQRT on finite operands whose exact result is not zero is that result rounded once
under FCSR.RM as it stood at block entry, with the flags of round_fp32 (R145, R146).

2. The special cases of R147, read from top to bottom: NaN operands, invalid operations, division by zero, infinite operands, exact
zeros and square roots of zeros. -/
def Obligations.FloatArithmetic : Prop :=
  (∀ (o : FpOp) h s c, Runs s h c → ∀ a b p : Rat,
      binValue 8 23 (o.args c).1 = some a → binValue 8 23 (o.args c).2.1 = some b → binValue 8 23 (o.args c).2.2 = some p →
      o.regular a b p →
      ∃ t v fl, exec (o.word h) s = .next t ∧ DeliversFp s t c h (BitVec.ofNat 64 v) fl ∧
        (o.exact a b p).1.roundsFp 8 23 (.ofCode (c.f.fcsr.extractLsb' 0 3)) (o.exact a b p).2 v fl) ∧
  (∀ (o : FpOp) h s c, Runs s h c → ∀ r, o.special (.ofCode (c.f.fcsr.extractLsb' 0 3)) (o.args c).1 (o.args c).2.1 (o.args c).2.2 = some r →
      ∃ t, exec (o.word h) s = .next t ∧ DeliversFp s t c h (BitVec.ofNat 64 r.1) r.2)

/-- 1. FMIN and FMAX return one operand's bits, ordering -0 below +0, the other operand beside one NaN, and the canonical NaN for two;
a signalling NaN raises NV (R148). The opcodes are 0x36 and 0x37.

2. FTST compares values, -0 equal to +0; a NaN operand makes every test false but `un`, and raises NV as R149 says. Its opcode is
0x38, and SUB 0 to 3 name the conditions.

3. FCLASS delivers one bit by class and raises no flag; FSGN moves a sign bit, and gives the canonical NaN for a NaN (R150, R151). Their
opcodes are 0x3A and 0x3C, with SUB 0, and SUB 0 to 2. -/
def Obligations.FloatComparisons : Prop :=
  (∀ h s c, Runs s h c →
      let l := c.l.toNat % 2 ^ 32
      let r := c.r.toNat % 2 ^ 32
      let fl : FlagSet := { nv := binSnan 8 23 l || binSnan 8 23 r }
      let pick := fun (first : Bool) => if binNan 8 23 l && binNan 8 23 r then 0x7FC00000 else if binNan 8 23 l then r
        else if binNan 8 23 r then l else if first then l else r
      (∃ t, exec (.fmin h) s = .next t ∧ DeliversFp s t c h (BitVec.ofNat 64 (pick (decide (fpRank l ≤ fpRank r)))) fl) ∧
      (∃ t, exec (.fmax h) s = .next t ∧ DeliversFp s t c h (BitVec.ofNat 64 (pick (decide (fpRank r ≤ fpRank l)))) fl) ∧
      opcOf (encode (.fmin h)).1 = 0x36 ∧ opcOf (encode (.fmax h)).1 = 0x37) ∧
  (∀ h cc s c, Runs s h c →
      let l := c.l.toNat % 2 ^ 32
      let r := c.r.toNat % 2 ^ 32
      let nan := binNan 8 23 l || binNan 8 23 r
      let snan := binSnan 8 23 l || binSnan 8 23 r
      let holds := match cc with
        | .eq => nan = false ∧ fpOrder l = fpOrder r
        | .lt => nan = false ∧ fpOrder l < fpOrder r
        | .le => nan = false ∧ fpOrder l ≤ fpOrder r
        | .un => nan = true
      let nv := match cc with
        | .eq | .un => snan
        | .lt | .le => nan
      ∃ t v, exec (.ftst h cc) s = .next t ∧ DeliversFp s t c h v { nv := nv } ∧ (holds → v = 1) ∧ (¬holds → v = 0) ∧
        opcOf (encode (.ftst h cc)).1 = 0x38 ∧
        subA (payOf (encode (.ftst h cc)).1) = match cc with | .eq => 0 | .lt => 1 | .le => 2 | .un => 3) ∧
  ((∀ h, Gives (.fclass h) h fun c =>
      let v := c.l.toNat % 2 ^ 32
      let e := expOf 8 23 v
      let f := fracOf 23 v
      let neg := signOf 8 23 v
      BitVec.ofNat 64 (2 ^ (if e = 255 then (if f = 0 then (if neg then 0 else 7) else if f < 2 ^ 22 then 8 else 9)
        else if e ≠ 0 then (if neg then 1 else 6) else if f ≠ 0 then (if neg then 2 else 5) else if neg then 3 else 4))) ∧
    (∀ h op, Gives (.fsgn h op) h fun c =>
      let sign := match op with
        | .cp => c.r.getLsbD 31
        | .cn => !c.r.getLsbD 31
        | .cx => c.l.getLsbD 31 ^^ c.r.getLsbD 31
      if binNan 8 23 (c.l.toNat % 2 ^ 32) then 0x7FC00000
      else (0 : W32) ++ BitVec.ofBool sign ++ c.l.extractLsb' 0 31) ∧
    (∀ h, (opcOf (encode (.fclass h)).1, subA (payOf (encode (.fclass h)).1)) = (0x3A, 0)) ∧
    (∀ h op, opcOf (encode (.fsgn h op)).1 = 0x3C ∧ subA (payOf (encode (.fsgn h op)).1) = match op with | .cp => 0 | .cn => 1 | .cx => 2))

/-- 1. FCVT to an integer rounds under RM and saturates, a NaN gives 0; NV marks what does not fit, NX an inexact result that does (R152).

2. FCVT from an integer, to BF16 and binary16, and from them, and FRND (R100, R152, R153). -/
def Obligations.FloatConversions : Prop :=
  (∀ h w (sg : Bool) s c, Runs s h c →
      let v := c.l.toNat % 2 ^ 32
      let n := if w then 32 else 64
      let lo : Int := if sg then -(2 ^ (n - 1) : Nat) else 0
      let hi : Int := if sg then (2 ^ (n - 1) : Nat) - 1 else (2 ^ n : Nat) - 1
      let token := fun (i : Int) => if w then (BitVec.ofInt 32 i).signExtend 64 else BitVec.ofInt 64 i
      ∃ t i fl, exec (.fcvt h (if sg then .f2i else .f2u) w) s = .next t ∧ DeliversFp s t c h (token i) fl ∧
        (binNan 8 23 v → i = 0 ∧ fl = { nv := true }) ∧
        (binInf 8 23 v → i = (if signOf 8 23 v then lo else hi) ∧ fl = { nv := true }) ∧
        ∀ x, binValue 8 23 v = some x →
          ∃ m : Nat, (Cut.of (if x < 0 then -x else x)).roundsTo (.ofCode (c.f.fcsr.extractLsb' 0 3)) (signOf 8 23 v) m ∧
            let y : Int := if signOf 8 23 v then -(m : Int) else m
            if hi < y then i = hi ∧ fl = { nv := true } else if y < lo then i = lo ∧ fl = { nv := true }
            else i = y ∧ fl = { nx := decide ((y : Rat) ≠ x) }) ∧
  ((∀ h w (sg : Bool) s c, Runs s h c →
      let x : Int := if sg then (if w then (c.l.setWidth 32).toInt else c.l.toInt)
        else if w then ((c.l.setWidth 32).toNat : Int) else (c.l.toNat : Int)
      ∃ t v fl, exec (.fcvt h (if sg then .i2f else .u2f) w) s = .next t ∧ DeliversFp s t c h (BitVec.ofNat 64 v) fl ∧
        if x = 0 then v = 0 ∧ fl = {} else
        (Cut.of ((x.natAbs : Nat) : Rat)).roundsFp 8 23 (.ofCode (c.f.fcsr.extractLsb' 0 3)) (decide (x < 0)) v fl) ∧
    (∀ h (bf : Bool) w s c, Runs s h c →
      let u := c.l.toNat % 2 ^ 32
      let eb := if bf then 8 else 5
      let fb := if bf then 7 else 10
      ∃ t v fl, exec (.fcvt h (if bf then .f2bf else .f2h) w) s = .next t ∧ DeliversFp s t c h (BitVec.ofNat 64 v) fl ∧
        (binNan 8 23 u → v = (if bf then 0x7FC0 else 0x7E00) ∧ fl = { nv := binSnan 8 23 u }) ∧
        (binInf 8 23 u → binInf eb fb v ∧ signOf eb fb v = signOf 8 23 u ∧ v < 2 ^ 16 ∧ fl = {}) ∧
        (∀ x, binValue 8 23 u = some x → x = 0 → binValue eb fb v = some 0 ∧ signOf eb fb v = signOf 8 23 u ∧ v < 2 ^ 16 ∧ fl = {}) ∧
        (∀ x, binValue 8 23 u = some x → x ≠ 0 →
          (Cut.of (if x < 0 then -x else x)).roundsFp eb fb (.ofCode (c.f.fcsr.extractLsb' 0 3)) (decide (x < 0)) v fl)) ∧
    (∀ h (bf : Bool) w s c, Runs s h c →
      let u := c.l.toNat % 2 ^ 16
      let eb := if bf then 8 else 5
      let fb := if bf then 7 else 10
      ∃ t v fl, exec (.fcvt h (if bf then .bf2f else .h2f) w) s = .next t ∧ DeliversFp s t c h (BitVec.ofNat 64 v) fl ∧
        v < 2 ^ 32 ∧ (binNan eb fb u = false → signOf 8 23 v = signOf eb fb u ∧ fl = {}) ∧
        (binNan eb fb u → v = 0x7FC00000 ∧ fl = { nv := binSnan eb fb u }) ∧ (binInf eb fb u → binInf 8 23 v) ∧
        ∀ x, binValue eb fb u = some x → binValue 8 23 v = some x) ∧
    (∀ h dir s c, Runs s h c →
      let u := c.l.toNat % 2 ^ 32
      let rm := match dir with
        | .rm => Rm.ofCode (c.f.fcsr.extractLsb' 0 3)
        | .rne => .rne
        | .rtz => .rtz
        | .rdn => .rdn
        | .rup => .rup
        | .rmm => .rmm
      ∃ t v fl, exec (.frnd h dir) s = .next t ∧ DeliversFp s t c h (BitVec.ofNat 64 v) fl ∧
        (binNan 8 23 u → v = 0x7FC00000 ∧ fl = { nv := binSnan 8 23 u }) ∧ (binInf 8 23 u → v = u ∧ fl = {}) ∧
        ∀ x, binValue 8 23 u = some x →
          ∃ n : Nat, (Cut.of (if x < 0 then -x else x)).roundsTo rm (signOf 8 23 u) n ∧
            v < 2 ^ 32 ∧ signOf 8 23 v = signOf 8 23 u ∧
            binValue 8 23 v = some (if signOf 8 23 u then -(n : Rat) else n) ∧
            fl = { nx := decide ((if signOf 8 23 u then -(n : Rat) else n) ≠ x) }))

/-- 1. BRO, CALL and FEND record their exit; the target of BRO and CALL is the block's address plus the signed offset times 16, and CALL
records the fall-through address too (R44, R136). No other exit of the block has fired. That the sum is taken modulo 2^56 is the model's
choice (log 126).

2. BRI takes its successor from its left operand and RET from g30 as at block entry, in a block mapped ahead as it will be then (R370);
a successor with any of bits 63 to 56 set faults ADDRESS, another that is not a multiple of 16 faults FETCH_ALIGN, and any other is
recorded (R136, R137).

3. A second writer of a register, a second operation of an LSID and a second exit, of every kind and with a successor that is none of its own
faults, fault BLOCK_FORM with subcodes 2, 3 and 4, in the slot that was second to act (R47, R136, R450). -/
def Obligations.Exits : Prop :=
  ((∀ h eid ofs s c, Runs s h c → c.b.exits = [] → ∃ t, exec (.bro h eid ofs) s = .next t ∧
      Ran s t c { fired c true with exits := [(c.slot, .to (BitVec.ofNat 56 c.b.addr + ofs.signExtend 56 * 16).toNat)] }) ∧
    (∀ h eid ofs s c, Runs s h c → c.b.exits = [] → ∃ t, exec (.call h eid ofs) s = .next t ∧
      Ran s t c { fired c true with exits := [(c.slot, .call (BitVec.ofNat 56 c.b.addr + ofs.signExtend 56 * 16).toNat
        (c.b.addr + 16 + 16 * ((c.b.icnt + 1) / 2)))] }) ∧
    (∀ h s c, Runs s h c → c.b.exits = [] → ∃ t, exec (.fend h) s = .next t ∧
      Ran s t c { fired c true with exits := [(c.slot, .fend)] })) ∧
  (∀ h eid s c, Runs s h c → c.b.exits = [] → ∀ i a,
      (i = Instr.bri h eid ∧ a = c.l) ∨ (i = Instr.ret h eid ∧ c.b.pred = none ∧ a = c.f.regs.get ⟨30, by decide⟩) ∨
        (i = Instr.ret h eid ∧ c.b.pred ≠ none ∧ s.regAt c 30 = some a) →
      ∃ t, exec i s = .next t ∧
        if a.extractLsb' 56 8 ≠ 0 then FaultsAt s t c { cls := .address, va := (a.extractLsb' 0 56).toNat }
        else if a.extractLsb' 0 4 ≠ 0 then FaultsAt s t c { cls := .fetchAlign, va := a.toNat }
        else Ran s t c { fired c true with exits := [(c.slot, .to a.toNat)] }) ∧
  ((∀ h reg s c, Runs s h c → (∃ e ∈ c.b.gws, e.1 = reg.toNat) →
      (∃ t, exec (.gwr h reg) s = .next t ∧ FaultsAt s t c { cls := .blockForm, extra := 2 }) ∧
      (∃ t, exec (.null h reg) s = .next t ∧ FaultsAt s t c { cls := .blockForm, extra := 2 })) ∧
    (∀ i h n s c, Runs s h c → i.hd = h → i.lsid? = some n → (∃ e ∈ c.b.lsids, e.1 = n.toNat ∧ e.2 ≠ c.slot) →
      ∃ t, exec i s = .next t ∧ FaultsAt s t c { cls := .blockForm, extra := 3 }) ∧
    (∀ i h s c, Runs s h c → c.b.exits ≠ [] →
      (∃ eid ofs, i = Instr.bro h eid ofs ∨ i = Instr.call h eid ofs) ∨ i = Instr.fend h ∨ (c.f.handler = true ∧ (i = .eret h ∨ i = .eretEnd h)) ∨
        (∃ a, (i = .eretRedir h ∧ c.f.handler = true ∧ a = c.l ∨
            ∃ eid, i = .bri h eid ∧ a = c.l ∨ i = .ret h eid ∧ (if c.b.pred = none then a = c.f.regs.get ⟨30, by decide⟩ else s.regAt c 30 = some a)) ∧
          a.extractLsb' 56 8 = 0 ∧ a.extractLsb' 0 4 = 0) →
      ∃ t, exec i s = .next t ∧ FaultsAt s t c { cls := .blockForm, extra := 4 }))

/-- 1. LD, LDH and LDS whose access passes its checks become outstanding reads of their LSID; the value comes with the response, and in a block
mapped ahead LD and LDH behave as LDS and leave no trace (R234, R238, R240, R370). Which of several failed checks comes first is the model's
reading (log 23).

2. A failed check faults a load or a store in its slot with the class, the first failing byte and the heat; LDS delivers 0 and leaves no
other trace, and so does LD in a block mapped ahead, which is then mapped again (R234, R240, R370). That it is mapped again, and the order
of the checks, are the model's reading (logs 15 and 23).

3. What the check of an access refuses before it looks at a page: an address above 56 bits, then one that runs past the top, then a heat
that is not live, which is HEAT_RANGE on every page (R36, R38). The order, and the class ADDRESS for an access that runs past the top, are
the model's reading (logs 23 and 24).

4. The response of a read delivers the bytes of its access, zero-extended, whole or sign-extended, to the load's targets; no byte of
memory and no frame changes (R213, R238). Bytes that earlier writes of the same frame cover come from those writes. A misaligned access
is read byte by byte, in any order, and delivers with its last byte (R210). -/
def Obligations.MemoryReads : Prop :=
  (∀ h (m : MF) s c a, Runs s h c → FirstOf c m.lsid →
      let op := fun (acq quiet : Bool) =>
        ({ oid := s.nextId, bid := c.b.bid, slot := c.slot, lsid := m.lsid.toNat, kind := .load m.wid.signed acq quiet, acc := a,
           old := none, org := c.org, part := [] } : MemOp)
      let with_ := fun (o : MemOp) => ({ s with ops := s.ops ++ [o], nextId := s.nextId + 1 } : State)
      let plain := m.wid == .d && m.ord == .plain
      let acq := m.ord == .acq || m.ord == .acqRel
      (Passes s c m ⟨true, false, false, plain, c.f.handler⟩ false a → ∃ t, exec (.ld h m) s = .next t ∧
        Ran (with_ (op acq c.b.spec)) t c (accessed c m.lsid ⟨a, true, false, !c.b.spec⟩)) ∧
      (Passes s c m ⟨true, false, false, false, c.f.handler⟩ false a → ∃ t, exec (.ldh h m) s = .next t ∧
        Ran (with_ (op acq c.b.spec)) t c (accessed c m.lsid ⟨a, true, false, !c.b.spec⟩)) ∧
      (Passes s c m ⟨true, false, false, false, false⟩ false a → ¬c.b.zeroed.contains c.slot →
        ∃ t, exec (.lds h m) s = .next t ∧ Ran (with_ (op false true)) t c (accessed c m.lsid ⟨a, true, false, false⟩))) ∧
  (∀ h (m : MF) s c cls va heat, Runs s h c → FirstOf c m.lsid →
      let plain := m.wid == .d && m.ord == .plain
      let straddle := va != (m.ea (m.base c)).toNat % 2 ^ 56 && cls != .address
      let fails := fun (n : Need) (store : Bool) =>
        s.checkAccess c.f.stall c.f.ctx c.b.bid n store (m.ea (m.base c)) m.wid.bytes (m.heat c) = .fault cls va heat
      (fails ⟨true, false, false, plain, c.f.handler⟩ false → c.b.spec = true →
        ∃ t a, exec (.ld h m) s = .next t ∧ Ran s t c { fired c true with
          lsids := c.b.lsids ++ [(m.lsid.toNat, c.slot)], transit := c.b.transit ++ tokens c.slot h 0 a, guess := true }) ∧
      (fails ⟨true, false, false, plain, c.f.handler⟩ false → c.b.spec = false →
        ∃ t, exec (.ld h m) s = .next t ∧ FaultsAt (noted s c m.lsid) t c { cls := cls, va := va, heat := some heat, straddle := straddle }) ∧
      (fails ⟨false, true, false, plain, c.f.handler⟩ true →
        ∃ t, exec (.st h m) s = .next t ∧
          FaultsAt (noted s c m.lsid) t c { cls := cls, va := va, heat := some heat, wr := true, straddle := straddle }) ∧
      (fails ⟨true, false, false, false, false⟩ false → ¬c.b.zeroed.contains c.slot →
        ∃ t a, exec (.lds h m) s = .next t ∧
          Ran s t c { fired c true with lsids := c.b.lsids ++ [(m.lsid.toNat, c.slot)], transit := c.b.transit ++ tokens c.slot h 0 a })) ∧
  (∀ (s : State) st ctx bid n store (ea : W64) size heat,
      let r := s.checkAccess st ctx bid n store ea size heat
      (ea.extractLsb' 56 8 ≠ 0 → r = .fault .address (ea.extractLsb' 0 56).toNat heat) ∧
      (ea.extractLsb' 56 8 = 0 → ea.toNat + size ≤ 2 ^ 56 → heat ≠ 0 → (∀ x ∈ s.heats, ¬(x.ctx = ctx ∧ x.tag = heat ∧ x.live = true)) →
        r = .fault .heatRange ea.toNat heat) ∧
      ∀ a, r = .ok a → ea.toNat + size ≤ 2 ^ 56 ∧ (heat = 0 ∨ ∃ x ∈ s.heats, x.ctx = ctx ∧ x.tag = heat ∧ x.live = true) ∧
        a.va = ea.toNat ∧ a.size = size ∧ a.heat = heat ∧ a.locs.map (·.va) = (List.range size).map (ea.toNat + ·)) ∧
  (∀ (s : State) id (m : MemOp) b f sg acq quiet i, s.ops.find? (·.oid == id) = some m → m.kind = .load sg acq quiet →
      s.block? m.bid = some b → s.frame? b.fid = some f → b.instr? m.slot = some i →
      s.stallRuns f.stall = true → s.readReady b f m = true → s.accGone m.acc = false → s.accLost m.acc true = false →
      let value := fun (bytes : List Byte) =>
        let n := 8 * m.acc.size
        if sg then (BitVec.ofNat n (ofBytes bytes)).signExtend 64 else (BitVec.ofNat n (ofBytes bytes)).setWidth 64
      let done := fun (s t : State) (bytes : List Byte) => ∃ u a, OnlyCounts u t ∧
        OnlyBlock { s with ops := s.ops.filter (·.oid != id), copies := t.copies, early := t.early } u
          { b with transit := b.transit ++ tokens m.slot i.hd (value bytes) a }
      (m.acc.va % m.acc.size = 0 → ∃ t, exec (.memReadResponse id false) s = .next t ∧
        let bytes := s.readBytes m.acc (s.ownWrites b f m.lsid)
        done s t bytes ∧ (s.ownWrites b f m.lsid = [] → paKind m.acc.pa ≠ .control → bytes = m.acc.locs.map (s.rdLoc m.acc.ctx m.acc.heat))) ∧
      (m.acc.va % m.acc.size ≠ 0 → ∀ todo, todo = (List.range m.acc.size).filter (fun k => !m.part.any (·.1 == k)) → todo ≠ [] →
        ∃ t k n, exec (.memReadResponse id false) s = .next t ∧ k ∈ todo ∧
          let x := m.acc.byte k
          let part := (k, (s.readBytes x (s.ownWrites b f m.lsid)).headD 0) :: m.part
          (1 < todo.length → t = { s with draws := n, copies := t.copies,
                                          ops := s.ops.map fun o => if o.oid = id then { o with part := part } else o }) ∧
          (todo.length = 1 → done { s with draws := n } t ((List.range m.acc.size).map fun j => ((part.find? (·.1 == j)).map (·.2)).getD 0))))

/-- 1. ST and STMC execute by recording their write, which performs after the commit: no byte of memory changes (R234, R239, R248); FENCE
leaves its mark in the block (R245). PREF changes no value: where its byte passes the checks it executes, and only counters, class
services and the lines a slice holds may differ; where a check fails it has no effect; where no translation is there a walk is made
(R241, R390).

2. A committed store performs at its home: the low bytes of its data stand at the bytes of its access, least significant first, and every
other byte of memory and every heat cell reads as before (R10, R239). The access is not one of a heat's private page, and its frame has
copied no sector.

3. On a page private to heats a store changes only the storing heat's cell: the base bytes stand, so every other heat reads as before,
and the storing heat reads what it stored (R38, R85, R239). -/
def Obligations.Stores : Prop :=
  (∀ h (m : MF) s c a, Runs s h c → FirstOf c m.lsid →
      let seen : Seen := ⟨a, false, true, true⟩
      let line := (m.ea (m.base c)).toNat / 128 * 128
      let entries : Acc := { a with va := line + 8, size := 120, locs := locsFrom (line + 8) (a.pa / 128 * 128 + 8) 120 false }
      let u := noted s c m.lsid
      let rel := m.ord == .rel || m.ord == .acqRel
      (Passes s c m ⟨false, true, false, m.wid == .d && m.ord == .plain, c.f.handler⟩ true a →
        ∃ t, exec (.st h m) s = .next t ∧ Ran (u.reserve c.b.bid a) t c
          { accessed c m.lsid seen with effs := c.b.effs ++ [(c.slot, .store m.lsid.toNat a (m.data c) rel)] }) ∧
      (Passes s c m ⟨false, true, false, false, false⟩ true a → (m.ea (m.base c)).toNat % 128 < 8 →
        (m.ea (m.base c)).toNat % m.wid.bytes = 0 → (∀ l ∈ a.locs, l.hp = false) →
        u.readReady c.b c.f ⟨0, c.b.bid, c.slot, m.lsid.toNat, .load false false false, entries, none, c.org, []⟩ = true →
        s.accLost entries true = false →
        ∃ t es, exec (.stmc h m) s = .next t ∧ Ran s t c
          { accessed c m.lsid seen with effs := c.b.effs ++ [(c.slot, .mcast m.lsid.toNat a (m.data c) rel es)] } ∧
          es.length ≤ 15 ∧ (∀ e ∈ es, e.getLsbD 63 = true) ∧
          (u.ownWrites c.b c.f m.lsid.toNat = [] →
            es = ((List.range 15).map fun i => BitVec.ofNat 64 (s.rdLE (a.pa / 128 * 128 + 8 + 8 * i) 8)).filter (·.getLsbD 63))) ∧
      (let quiet := { fired c true with lsids := c.b.lsids ++ [(m.lsid.toNat, c.slot)] }
       let check := s.checkAccess c.f.stall c.f.ctx c.b.bid ⟨true, false, false, false, false⟩ false (m.ea (m.base c)) 1 (m.heat c)
       ∃ t, exec (.pref h m) s = .next t ∧
         (c.b.zeroed.contains c.slot = true → Ran s t c quiet) ∧
         (c.b.zeroed.contains c.slot = false →
           (∀ b, check = .ok b → ∃ v, Ran s v c quiet ∧ OnlyCounts v t) ∧
           (∀ cls va heat, check = .fault cls va heat → Ran s t c quiet) ∧
           (∀ va, check = .walk va → c.b.spec = false →
             let w : Walk := ⟨s.nextId, c.f.ctx, va, c.f.stall, .slot c.b.bid c.slot true, false, m.heat c, (m.ea (m.base c)).toNat⟩
             OnlyBlock { s with walks := s.walks ++ [w], nextId := s.nextId + 1 } t
               { c.b with lsids := c.b.lsids ++ [(m.lsid.toNat, c.slot)],
                          waits := (c.slot, .walk) :: c.b.waits.filter fun x => x.1 != c.slot }))) ∧
      (∃ t, exec (.fence h m) s = .next t ∧ Ran s t c
        { fired c true with lsids := c.b.lsids ++ [(m.lsid.toNat, c.slot)], fences := c.b.fences ++ [(m.lsid.toNat, m.ord, m.scp)] })) ∧
  (∀ (s : State) k (w : Flight) a d rel mc, s.flight[k]? = some w → w.cargo = .store a d rel mc → s.ok = true →
      (a.heat = 0 ∨ ∀ l ∈ a.locs, l.hp = false) → (∀ e ∈ s.copies, e.fid ≠ w.org.fid) → paKind a.pa ≠ .control → s.writeOrder w = true → s.writeClear w a = true →
      s.wordPending a (fun o => !(o.org.fid == w.org.fid)) (fun e => e.org.fid != w.org.fid) = false →
      (s.land k).accGone a = false → (s.land k).accLost a false = false →
      ∃ t, exec (.storePerform k false) s = .next t ∧ t.flight = s.flight.eraseIdx k ∧ t.frames = s.frames ∧ t.blocks = s.blocks ∧
        t.cells = s.cells ∧ (∀ pa, (∀ l ∈ a.locs, l.pa ≠ pa) → t.rd8 pa = s.rd8 pa) ∧
        ((a.locs.map (·.pa)).Nodup → ∀ i (hi : i < a.locs.length), t.rd8 (a.locs[i].pa) = BitVec.ofNat 8 (d.toNat / 256 ^ i))) ∧
  (∀ (s : State) k (w : Flight) a d rel mc, s.flight[k]? = some w → w.cargo = .store a d rel mc → s.ok = true →
      a.heat ≠ 0 → a.heat < 65536 → s.heatLive a.ctx a.heat = true → (∀ e ∈ s.copies, e.fid ≠ w.org.fid) → (∀ l ∈ a.locs, l.hp = true ∧ l.va < 2 ^ 56) →
      paKind a.pa ≠ .control → s.writeOrder w = true → s.writeClear w a = true →
      s.wordPending a (fun o => !(o.org.fid == w.org.fid)) (fun e => e.org.fid != w.org.fid) = false →
      (s.land k).accGone a = false → (s.land k).accLost a false = false →
      ∃ t, exec (.storePerform k false) s = .next t ∧ t.mem = s.mem ∧
        (∀ h l, h < 65536 → h ≠ a.heat → l.va < 2 ^ 56 → t.rdLoc a.ctx h l = s.rdLoc a.ctx h l) ∧
        ((a.locs.map (·.va)).Nodup → ∀ i (hi : i < a.locs.length),
          t.rdLoc a.ctx a.heat (a.locs[i]) = BitVec.ofNat 8 (d.toNat / 256 ^ i)))

/-- 1. AMO and CAS whose access passes its checks are issued to their home, and hold an effect for the commit (R242, R243).

2. The home admits an atomic: it reads the old value, delivers it zero-extended and holds what is to be written: the sum, the bitwise
result, the operand, or the smaller or larger of both as signed numbers of the access's width (R242, R243).

3. What an atomic leaves for its home: its write, and nothing to write for a CAS whose old value was not the expected one (R242). Such
a CAS changes no byte that is read: memory stands, and its own heat and every other read its bytes as before. -/
def Obligations.Atomics : Prop :=
  (∀ h (m : MF) s c a, Runs s h c → FirstOf c m.lsid → (m.ea (m.base c)).toNat % m.wid.bytes = 0 →
      Passes s c m ⟨true, true, false, false, false⟩ true a →
      let issued := fun (i : Instr) (x new : W64) => ∃ t, exec i s = .next t ∧
        Ran { (noted s c m.lsid).reserve c.b.bid a with
              ops := s.ops ++
                [{ oid := s.nextId, bid := c.b.bid, slot := c.slot, lsid := m.lsid.toNat,
                   kind := .atomic i x new (m.ord == .acq || m.ord == .acqRel) (m.ord == .rel || m.ord == .acqRel), acc := a,
                   old := none, org := c.org, part := [] }],
              nextId := s.nextId + 1 } t c
          { accessed c m.lsid ⟨a, true, true, true⟩ with effs := c.b.effs ++ [(c.slot, .atomic s.nextId)] }
      issued (.amoAdd h m) (m.data c) 0 ∧ issued (.amoAnd h m) (m.data c) 0 ∧ issued (.amoOr h m) (m.data c) 0 ∧
      issued (.amoXor h m) (m.data c) 0 ∧ issued (.amoSwap h m) (m.data c) 0 ∧ issued (.amoMin h m) (m.data c) 0 ∧
      issued (.amoMax h m) (m.data c) 0 ∧
      issued (.cas h m) ((BitVec.ofNat (8 * m.wid.bytes) c.r.toNat).setWidth 64) ((BitVec.ofNat (8 * m.wid.bytes) c.p.toNat).setWidth 64)) ∧
  (∀ (s : State) id (m : MemOp) b f i x nw acq rel, s.ops.find? (·.oid == id) = some m → m.kind = .atomic i x nw acq rel → m.old = none →
      s.block? m.bid = some b → s.frame? b.fid = some f → s.stallRuns f.stall = true → s.readReady b f m = true →
      s.wordPending m.acc (fun _ => true) (fun _ => true) = false → s.barWrites f m.acc = false → s.accGone m.acc = false →
      s.accLost m.acc true = false → m.acc.locs.length = m.acc.size → 0 < m.acc.size → m.acc.size ≤ 8 →
      let n := 8 * m.acc.size
      let old := BitVec.ofNat n (ofBytes (s.readOver m.acc (s.ownWrites b f m.lsid)))
      let opnd := x.setWidth n
      let new : W64 := match i with
        | .cas _ _ => nw
        | .amoAdd _ _ => (old + opnd).setWidth 64
        | .amoAnd _ _ => (old &&& opnd).setWidth 64
        | .amoOr _ _ => (old ||| opnd).setWidth 64
        | .amoXor _ _ => (old ^^^ opnd).setWidth 64
        | .amoMin _ _ => (if old.toInt ≤ opnd.toInt then old else opnd).setWidth 64
        | .amoMax _ _ => (if old.toInt ≥ opnd.toInt then old else opnd).setWidth 64
        | _ => opnd.setWidth 64
      ∃ t u a, exec (.atomicAdmit id) s = .next t ∧ OnlyCounts u t ∧
        OnlyBlock { s with copies := t.copies, early := t.early, ops := s.ops.map fun o =>
            if o.oid = id then { o with old := some (old.setWidth 64), kind := .atomic i x new acq rel } else o } u
          { b with transit := b.transit ++ tokens m.slot i.hd (old.setWidth 64) a }) ∧
  ((∀ (s : State) o pos f n id m i x nw acq rel, s.frame? o.fid = some f → s.ops.find? (·.oid == id) = some m →
      m.kind = .atomic i x nw acq rel →
      ∃ w, (s.applyEffect o pos (n, .atomic id)).flight = s.flight ++ [w] ∧ w.org.fid = o.fid ∧ w.msq = msqOf o.bsq m.lsid ∧
        ((∃ h k, i = .cas h k) → w.cargo = .atomicWrite m.acc (m.old.getD 0) (if m.old.getD 0 = x then some nw else none) rel) ∧
        ((∀ h k, i ≠ .cas h k) → w.cargo = .atomicWrite m.acc (m.old.getD 0) (some nw) rel)) ∧
    ∀ (s : State) k (w : Flight) a o rel, s.flight[k]? = some w → w.cargo = .atomicWrite a o none rel → s.ok = true →
      s.writeOrder w = true → (∀ e ∈ s.copies, e.fid ≠ w.org.fid) → (∀ l ∈ a.locs, l.va < 2 ^ 56) → a.heat < 65536 →
      (s.land k).accGone a = false → (s.land k).accLost a false = false →
      ∃ t, exec (.storePerform k false) s = .next t ∧ t.mem = s.mem ∧ t.flight = s.flight.eraseIdx k ∧ t.blocks = s.blocks ∧
        t.frames = s.frames ∧ (∀ h l, h < 65536 → h ≠ a.heat → l.va < 2 ^ 56 → t.rdLoc a.ctx h l = s.rdLoc a.ctx h l) ∧
        ((a.locs.map (·.va)).Nodup → ∀ l ∈ a.locs, t.rdLoc a.ctx a.heat l = s.rdLoc a.ctx a.heat l))

/-- 1. HT.NEW takes a tag of 1 to the pool's size that no heat of the context has and for whose counter nothing is on its way, delivers it,
and makes it live at the commit; with no such tag it waits. HT.CANCEL faults HEAT_STATE on 0 and on its own heat, and is recorded on every other tag (R250, R251, R253).

2. HT.END faults HEAT_STATE in a frame of heat 0 and while another frame ends the heat; otherwise it executes once its frame is the heat's
only one, no cancel is pending and no job or write of the heat is left, and waits until then (R252).

3. The cells of a cancelled heat are freed with its tag once its count is 0, no cancel is pending and its writes have performed: no cell
of it is left, every other heat reads as before, and every byte of memory stands (R253).

4. HD.INIT, HD.ARR and HD.XPCT execute by recording what performs after the commit; a misaligned word faults ADDRESS (R246, R256).

5. HD.WAIT delivers PHASE when it differs from bit 0 of R, and otherwise is linked at WHEAD and waits; HD.TEST delivers 1 and 0 in these
two cases, and in a DET frame waits as HD.WAIT does (R257).

6. At its home HD.INIT sets EXPECT and clears ARRIVED and PHASE where no record is linked; an arrival and an HD.XPCT add, and each
completion takes EXPECT from ARRIVED, turns PHASE and gives every waiter the first new PHASE (R256). -/
def Obligations.HeatSpacesAndHurdles : Prop :=
  (∀ h s c x, Runs s h c → s.ctx? c.f.ctx = some x →
      let free := fun (tag : Nat) => (∀ y ∈ s.heats, ¬(y.ctx = c.f.ctx ∧ y.tag = tag)) ∧
        ∀ w ∈ s.flight, ∀ k, ¬(w.org.ctx = c.f.ctx ∧ w.cargo = .level 3 tag k)
      (∀ tag, 1 ≤ tag → tag ≤ x.params.heatPool → free tag →
        ∃ t k d a, exec (.htNew h) s = .next t ∧ 1 ≤ k ∧ k ≤ x.params.heatPool ∧ free k ∧
          Ran { s with heats := s.heats ++ [⟨c.f.ctx, k, false, 0, 0, false, none⟩], draws := d } t c
            { fired c true with effs := c.b.effs ++ [(c.slot, .heatNew k)], transit := c.b.transit ++ tokens c.slot h (BitVec.ofNat 64 k) a }) ∧
      ((∀ tag, 1 ≤ tag → tag ≤ x.params.heatPool → ¬free tag) →
        ∃ t, exec (.htNew h) s = .next t ∧ WaitsOn s t c .heatPool) ∧
      (∃ t, exec (.htCancel h) s = .next t ∧
        let tag := c.l.toNat % 65536
        if tag = 0 ∨ tag = c.f.ht then FaultsAt s t c { cls := .heatState, heat := some tag } else Records s t c (.heatCancel tag))) ∧
  (∀ h s c, Runs s h c →
      (c.f.ht = 0 → ∃ t, exec (.htEnd h) s = .next t ∧ FaultsAt s t c { cls := .heatState }) ∧
      ∀ x, s.heat? c.f.ctx c.f.ht = some x → c.f.ht ≠ 0 →
        let u := { s with heats := s.heats.map fun y => if y.ctx = c.f.ctx ∧ y.tag = c.f.ht then { y with ender := some c.f.fid } else y }
        (∀ o, x.ender = some o → o ≠ c.f.fid → ∃ t, exec (.htEnd h) s = .next t ∧ FaultsAt s t c { cls := .heatState }) ∧
        ((x.ender = none ∨ x.ender = some c.f.fid) → ∃ t, exec (.htEnd h) s = .next t ∧
          if x.count = 1 ∧ x.pending = 0 ∧ s.heatQuiet c.f.ctx c.f.ht = true then Records u t c .heatEnd else WaitsOn u t c .heatEnd)) ∧
  (∀ s ctx tag x, s.heat? ctx tag = some x → x.live = true → x.cancelled = true → x.count = 0 → x.pending = 0 → tag < 65536 →
      s.heatQuiet ctx tag = true → ∃ t, exec (.heatCellsFree ctx tag) s = .next t ∧
        t = { s with made := t.made, cells := t.cells, heats := t.heats, ctxs := t.ctxs } ∧ t.heat? ctx tag = none ∧
        (∀ c h, ¬(c = ctx ∧ h = tag) → t.heat? c h = s.heat? c h) ∧ (∀ va, t.hasCell ctx tag va = false) ∧
        (∀ c h l, ¬(c = ctx ∧ h = tag) → h < 65536 → l.va < 2 ^ 56 → t.rdLoc c h l = s.rdLoc c h l)) ∧
  (∀ h (m : MF) s c, Runs s h c → FirstOf c m.lsid →
      let x := fun (a : Acc) => (⟨a, true, true, true⟩ : Seen)
      let records := fun (i : Instr) (kind : Nat) =>
        (∀ a, SyncPasses s c true true (m.ea c.l) (m.heat c) a → ∃ t, exec i s = .next t ∧ Ran s t c
          { accessed c m.lsid (x a) with effs := c.b.effs ++ [(c.slot, .hurdle m.lsid.toNat a kind (c.r.setWidth 32))] }) ∧
        ((m.ea c.l).toNat % 16 ≠ 0 → ∃ t, exec i s = .next t ∧
          FaultsAt (noted s c m.lsid) t c { cls := .address, va := some ((m.ea c.l).toNat % 2 ^ 56), heat := some (m.heat c), wr := true })
      records (.hdInit h m) 0 ∧ records (.hdArr h m) 1 ∧ records (.hdXpct h m) 2) ∧
  (∀ h (m : MF) s c a, Runs s h c → FirstOf c m.lsid → SyncPasses s c true false (m.ea c.l) (m.heat c) a →
      s.ok = true → (noted s c m.lsid).syncReady c m.lsid a true = true → s.accLost a true = false →
      let x : Seen := ⟨a, true, false, true⟩
      let phase := hdPhase (s.rdLE a.pa 16)
      ∃ t u, exec (.hdWait h m) s = .next t ∧ exec (.hdTest h m) s = .next u ∧
        (phase ≠ c.r.toNat % 2 → ReadGives s t c (some m.lsid) x h (BitVec.ofNat 64 phase) ∧ ReadGives s u c (some m.lsid) x h 1) ∧
        (phase = c.r.toNat % 2 → Links s t c (some m.lsid) x a true ∧
          (c.f.det = true → Links s u c (some m.lsid) x a true) ∧ (c.f.det = false → ReadGives s u c (some m.lsid) x h 0))) ∧
  (∀ (s : State) k (w : Flight) a kind n, s.ok = true → s.flight[k]? = some w → w.cargo = .hurdle a kind n false → s.writeOrder w = true →
      s.writeClear w a = true → s.accLost a true = false →
      let old := s.rdLE a.pa 16
      let arrived := if kind = 1 then hdArrived old + n.toNat else hdArrived old
      let expect := if kind = 1 then hdExpect old else hdExpect old + n.toNat
      (kind = 0 → hdHead old = 0 → ∃ t, exec (.hurdleUpdatePerform k false) s = .next t ∧ OnlyHome s t k ∧
        WordBecomes s t a.pa (hdWord old n.toNat 0 0 0) ∧ t.conts = s.conts ∧ t.blocks = s.blocks) ∧
      ((kind = 1 ∨ kind = 2) → arrived < 2 ^ 32 → expect < 2 ^ 32 → (expect = 0 ∨ arrived < expect) →
        ∃ t, exec (.hurdleUpdatePerform k false) s = .next t ∧ OnlyHome s t k ∧
          WordBecomes s t a.pa (hdWord old expect arrived (hdPhase old) (hdHead old)) ∧ t.conts = s.conts ∧ t.blocks = s.blocks) ∧
      ((kind = 1 ∨ kind = 2) → arrived < 2 ^ 32 → expect < 2 ^ 32 → 0 < expect → expect ≤ arrived →
        ∃ t, exec (.hurdleUpdatePerform k false) s = .next t ∧ OnlyHome s t k ∧
          WordBecomes s t a.pa (hdWord old expect (arrived % expect) ((hdPhase old + arrived / expect) % 2) 0) ∧
          Wakes s t w.org.ctx a.va (BitVec.ofNat 64 (1 - hdPhase old))))

/-- 1. FGET, FTEST and PEEK by the state of the cell: FULL delivers VALUE and 1, EMPTY waits and delivers 0 (an FTEST of a DET frame waits),
RECLAIMED and FREE fault, and PEEK delivers the ST code, except in a DET frame, where it faults DET_BREACH (R334, R335).

2. FSET, FREF and FDROP execute by recording what the commit does; a count of 0 and kind 3 fault ILLEGAL_OPERAND, and an FDROP of a cell
the frame does not hold faults FUTURE_STATE (R333, R334).

3. What the home of a cell does (R330): an FSET makes an EMPTY cell FULL and delivers; a RECLAIMED one drops it, which changes no waiter
and no VALUE and leaves the cell RECLAIMED, or FREE and in its pool where nothing refers to it and its producer is gone; on a FULL or FREE
one it changes nothing and is reported, FUTURE_STATE. The producer's end makes an EMPTY cell FULL with NOVAL and delivers 0; a change of
REACH adds or subtracts, and a FULL cell without a reference is FREE and in its pool; the home drops the dead records of a list. Which hall
keeps a freed cell, `State.poolHall`, is the model's choice (log 29): the spec says the hall of the cell's home, and not what holds where
the context has no stall there. -/
def Obligations.Futures : Prop :=
  ((∀ h (m : MF) s c a, Runs s h c → FirstOf c m.lsid → SyncPasses s c true false (m.ea c.l) (m.heat c) a →
      s.ok = true → (noted s c m.lsid).syncReady c m.lsid a false = true → s.accLost a true = false →
      let x : Seen := ⟨a, true, false, true⟩
      let w := s.rdLE a.pa 16
      ∃ t, exec (.fget h m) s = .next t ∧
        (cellSt w = 1 → ReadGives s t c (some m.lsid) x h (BitVec.ofNat 64 (cellVal w))) ∧
        (cellSt w = 0 → Links s t c (some m.lsid) x a false) ∧
        (cellSt w = 2 → ReadFaults s t c (some m.lsid) x { cls := .futureReclaimed, va := a.va }) ∧
        (cellSt w = 3 → ReadFaults s t c (some m.lsid) x { cls := .futureState, va := a.va })) ∧
    (∀ h s c a, Runs s h c → SyncPasses s c true false c.l 0 a → s.ok = true → s.accLost a true = false →
      let x : Seen := ⟨a, true, false, true⟩
      let w := s.rdLE a.pa 16
      (s.earlyHolds c.f a (some .sys) = false → ∃ t, exec (.ftest h) s = .next t ∧
        (cellSt w = 1 → ReadGives s t c none x h 1) ∧
        (cellSt w = 0 → c.f.det = true → Links s t c none x a false) ∧
        (cellSt w = 0 → c.f.det = false → ReadGives s t c none x h 0) ∧
        (cellSt w = 2 → ReadFaults s t c none x { cls := .futureReclaimed, va := a.va }) ∧
        (cellSt w = 3 → ReadFaults s t c none x { cls := .futureState, va := a.va })) ∧
      ∃ t, exec (.peek h) s = .next t ∧
        if c.f.det then FaultsAt s t c { cls := .detBreach } else ReadGives s t c none x h (BitVec.ofNat 64 (cellSt w)))) ∧
  ((∀ h (m : MF) s c a, Runs s h c → FirstOf c m.lsid → SyncPasses s c false true (m.ea c.l) (m.heat c) a →
      ∃ t, exec (.fset h m) s = .next t ∧ Ran s t c
        { accessed c m.lsid ⟨a, false, true, true⟩ with effs := c.b.effs ++ [(c.slot, .fset m.lsid.toNat a c.r)] }) ∧
    (∀ h s c, Runs s h c →
      let n := c.r.toNat % 65536
      let kind := c.r.toNat / 65536 % 4
      ((n = 0 ∨ kind = 3) → ∃ t, exec (.fref h) s = .next t ∧ FaultsAt s t c { cls := .illegalOperand }) ∧
      ∀ a, SyncPasses s c true true c.l 0 a →
        let x : Seen := ⟨a, true, true, true⟩
        (n ≠ 0 → kind ≠ 3 → c.holdFault (.fref a.va n kind a) = none → ∃ t, exec (.fref h) s = .next t ∧
          Ran s t c { fired c true with seen := c.b.seen ++ [x], effs := c.b.effs ++ [(c.slot, .fref a.va n kind a)] }) ∧
        (c.holdFault (.fdrop a.va a) = none → ∃ t, exec (.fdrop h) s = .next t ∧
          Ran s t c { fired c true with seen := c.b.seen ++ [x], effs := c.b.effs ++ [(c.slot, .fdrop a.va a)] }) ∧
        ((∀ e ∈ c.f.holds, e.1 ≠ a.va) → (∀ e ∈ c.b.effs, ∀ k n d y, e.2 ≠ .fref k n d y) → (∀ e ∈ c.b.effs, ∀ k b g n, e.2 ≠ .spawn k b g n) →
          (∀ e ∈ c.b.effs, ∀ k y, e.2 ≠ .fdrop k y) →
          ∃ t, exec (.fdrop h) s = .next t ∧ FaultsAt s t c { cls := .futureState, va := a.va }))) ∧
  ((∀ (s : State) k (w : Flight) a v, s.ok = true → s.flight[k]? = some w → w.cargo = .fset a v → s.writeOrder w = true → s.writeClear w a = true →
      s.accLost a true = false →
      let old := s.rdLE a.pa 16
      (cellSt old = 0 → ∃ t, exec (.futureCellFset k) s = .next t ∧ OnlyHome s t k ∧
        WordBecomes s t a.pa (cellWord (cellReach old) 1 (cellProd old) v.toNat false) ∧ Wakes s t w.org.ctx a.va v) ∧
      (cellSt old = 2 → ∃ t, exec (.futureCellFset k) s = .next t ∧
        t = { s with flight := s.flight.eraseIdx k, mem := t.mem, ctxs := t.ctxs, stalls := t.stalls, classes := t.classes, l2 := t.l2 } ∧
        (t.mem = s.mem ∨ WordBecomes s t a.pa (old % 2 ^ 110 + 3 * 2 ^ 110)) ∧
        (cellReach old ≠ 0 → t.mem = s.mem ∧ ∀ i, (t.ctx? i).map (·.pool) = (s.ctx? i).map (·.pool)) ∧
        (cellReach old = 0 → (∀ f ∈ s.frames, ¬(f.ctx = w.org.ctx ∧ f.cell = some a.va)) →
          (∀ e ∈ s.flight.eraseIdx k, (∀ b x, e.cargo = .fset b x → b.va ≠ a.va) ∧ ∀ p q r, e.cargo ≠ .producerEnd a.va p q r) →
          WordBecomes s t a.pa (old % 2 ^ 110 + 3 * 2 ^ 110) ∧
          ∀ x, s.ctx? w.org.ctx = some x → (t.ctx? w.org.ctx).map (·.pool) = some (x.pool ++ [(s.poolHall w.org.ctx a.pa, a.va)]))) ∧
      (cellSt old = 1 ∨ cellSt old = 3 → CanReport s w.org → (a.locs.headD default).va = a.va → ∃ t, exec (.futureCellFset k) s = .next t ∧
        t.frames = s.frames ∧ t.blocks = s.blocks ∧ t.conts = s.conts ∧
        (∀ x, s.ctx? w.org.ctx = some x → x.freeLogSlot = none → t.mem = s.mem) ∧
        Reported s t w.org { cls := .futureState, va := a.va, heat := some a.heat, eng := 5, wr := true })) ∧
    (∀ (s : State) k (w : Flight) va pa prod, s.ok = true → s.flight[k]? = some w → w.cargo = .producerEnd va pa prod false →
      s.behind w.org.fid w.id = true → s.endTurn w = true → paKind pa ≠ .noRegion → s.sectorLost pa = false →
      let old := s.rdLE pa 16
      cellProd old = prod % 2 ^ 24 → cellSt old = 0 → ∃ t, exec (.producerEnd k) s = .next t ∧ OnlyHome s t k ∧
        WordBecomes s t pa (cellWord (cellReach old) 1 (cellProd old) 0 true) ∧ Wakes s t w.org.ctx va 0) ∧
    (∀ (s : State) k (w : Flight) va pa plus n, s.ok = true → s.flight[k]? = some w → w.cargo = .reach va pa plus n →
      (∀ e ∈ s.flight, e.id < w.id → e.org.fid = w.org.fid → ∀ p q m, e.cargo ≠ .reach va p q m) → s.behind w.org.fid w.id = true →
      s.endTurn w = true →
      paKind pa ≠ .noRegion → s.sectorLost pa = false →
      let old := s.rdLE pa 16
      let r : Int := if plus then cellReach old + n else (cellReach old : Int) - n
      (0 < r → r < 65536 → ∃ t, exec (.futureReachChange k) s = .next t ∧ OnlyHome s t k ∧
        WordBecomes s t pa (old % 2 ^ 112 + r.toNat * 2 ^ 112) ∧ t.blocks = s.blocks ∧ t.conts = s.conts) ∧
      (r = 0 → cellSt old = 1 → ∃ t, exec (.futureReachChange k) s = .next t ∧
        OnlyCounts ({ s with flight := s.flight.eraseIdx k, mem := t.mem }.modCtx w.org.ctx fun x =>
          { x with pool := x.pool ++ [(s.poolHall w.org.ctx pa, va)] }) t ∧
        WordBecomes s t pa (old % 2 ^ 110 + 3 * 2 ^ 110))) ∧
    (∀ (s : State) k (w : Flight) va, s.flight[k]? = some w → w.cargo = .unlink va → ∃ t, exec (.continuationUnlink k) s = .next t ∧
      t = { s with flight := s.flight.eraseIdx k, conts := t.conts, mem := t.mem } ∧
      t.conts = s.conts.filter fun c => !(c.ctx == w.org.ctx && c.va == va && c.dead)))

/-- 1. SPAWN takes a cell of its hall's pool, delivers it and records the child; it faults ILLEGAL_OPERAND in a handler frame, ADDRESS on a
bad block address and FUTURE_POOL_EMPTY where the pool has no cell (R332, R436).

2. LAUNCH takes a free slot of the 256, delivers it and records the launch; a reserved bit faults ILLEGAL_OPERAND. LWAIT delivers 0 for
a complete launch and 1 for a cancelled one, waits while it runs, and faults LAUNCH_STATE on a slot that names none (R336, R337). -/
def Obligations.SpawnsAndLaunches : Prop :=
  (∀ h extra s c x, Runs s h c → s.ctx? c.f.ctx = some x →
      let mine := fun (cell : Nat) => (hallOfStall c.f.stall, cell) ∈ x.pool
      (c.f.handler = true → ∃ t, exec (.spawn h extra) s = .next t ∧ FaultsAt s t c { cls := .illegalOperand }) ∧
      (c.f.handler = false → (c.l.extractLsb' 56 8 ≠ 0 ∨ c.l.extractLsb' 0 4 ≠ 0) →
        ∃ t, exec (.spawn h extra) s = .next t ∧ FaultsAt s t c { cls := .address, va := some (c.l.toNat % 2 ^ 56) }) ∧
      (c.f.handler = false → c.l.extractLsb' 56 8 = 0 → c.l.extractLsb' 0 4 = 0 → c.f.det = false →
        c.holdFault (.spawn (2 ^ 56) c.l.toNat c.r extra.toNat) = none →
        ((∀ cell, ¬mine cell) → ∃ t, exec (.spawn h extra) s = .next t ∧ FaultsAt s t c { cls := .futurePoolEmpty }) ∧
        ∀ cell, mine cell → ∃ t k d a, exec (.spawn h extra) s = .next t ∧ mine k ∧
          Ran { s with ctxs := s.ctxs.map fun y => if y.num = c.f.ctx then { y with pool := y.pool.filter fun e => e.2 != k } else y,
                       draws := d } t c
            { fired c true with effs := c.b.effs ++ [(c.slot, .spawn k c.l.toNat c.r extra.toNat)],
                                transit := c.b.transit ++ tokens c.slot h (BitVec.ofNat 64 k) a })) ∧
  (∀ h s c, Runs s h c →
      (c.l.extractLsb' 0 2 ≠ 0 → ∃ t, exec (.launch h) s = .next t ∧ FaultsAt s t c { cls := .illegalOperand }) ∧
      (∀ k, k < 256 → s.launch? c.f.ctx k = none → c.l.extractLsb' 0 2 = 0 → (c.f.det = true → (c.l.extractLsb' 56 8).toNat < 127) →
        ∃ t j d a, exec (.launch h) s = .next t ∧ j < 256 ∧ s.launch? c.f.ctx j = none ∧
          Ran { s with launches := s.launches ++ [{ Launch.taken c.f.ctx j with by_ := some c.f.fid }], draws := d } t c
            { fired c true with effs := c.b.effs ++ [(c.slot, .launch j c.l c.r)], transit := c.b.transit ++ tokens c.slot h (BitVec.ofNat 64 j) a }) ∧
      ((∀ k, k < 256 → s.launch? c.f.ctx k ≠ none) → c.l.extractLsb' 0 2 = 0 → c.f.det = false →
        ∃ t, exec (.launch h) s = .next t ∧ FaultsAt s t c { cls := .launchFull }) ∧
      ∃ t, exec (.lwait h) s = .next t ∧
        match s.launch? c.f.ctx (c.l.extractLsb' 0 8).toNat with
        | none => FaultsAt s t c { cls := .launchState }
        | some l =>
          if l.node then FaultsAt s t c { cls := .launchState }
          else if l.complete then Delivers s t c h (if l.cancelled then 1 else 0)
          else WaitsOn s t c (.launch (c.l.extractLsb' 0 8).toNat))

/-- 1. CANCEL of a launch, level 2: held pending and delivering 0 where the launch is live or cancelled, 1 where it had completed, 2 where
there is none; while another cancel is pending it waits. Levels 0, 1, 6 and 7 fault ILLEGAL_OPERAND, and so do levels 4 and 5 with an R
that is not 0; a level 4 or 5 the frame has none of delivers 2 (R338).

2. SEND faults ILLEGAL_OPERAND on a reserved bit, NODE_RANGE on a node or an input its instance has not, and otherwise records its token
with the tag its word gives; a word that names an ingress faults NODE_RANGE without a grant and KEEP_REQUIRED without KEEP (R339, R340). -/
def Obligations.CancelsAndSends : Prop :=
  (∀ h s c, Runs s h c → ∃ t, exec (.cancel h) s = .next t ∧
      let lvl := c.l.toNat % 8
      let given := fun (base : State) (obj : Nat) (v : Nat) => ∃ a, Ran base t c
        { fired c true with effs := c.b.effs ++ [(c.slot, .cancel lvl obj v)], transit := c.b.transit ++ tokens c.slot h (BitVec.ofNat 64 v) a }
      ((lvl = 0 ∨ lvl = 1 ∨ lvl = 6 ∨ lvl = 7) → FaultsAt s t c { cls := .illegalOperand }) ∧
      ((lvl = 4 ∨ lvl = 5) → c.r ≠ 0 → FaultsAt s t c { cls := .illegalOperand }) ∧
      (lvl = 4 → c.r = 0 → c.f.inst = none → Delivers s t c h 2) ∧
      (lvl = 5 → c.r = 0 → c.f.job = none → Delivers s t c h 2) ∧
      (lvl = 3 → (c.r.toNat % 65536 = 0 ∨ c.r.toNat % 65536 = c.f.ht) → FaultsAt s t c { cls := .heatState }) ∧
      (lvl = 2 →
        let obj := c.r.toNat % 256
        match s.launch? c.f.ctx obj with
        | none => given s obj 2
        | some l =>
          if l.node then given s obj 2
          else if l.live = true ∧ l.complete = true then given s obj (if l.cancelled then 0 else 1)
          else if l.live = true ∧ l.pending = 0 then
            given { s with launches := s.launches.map fun y => if y.ctx = c.f.ctx ∧ y.slot = obj then { y with pending := 1 } else y } obj 0
          else l.live = true → WaitsOn s t c (.cancel 2 obj))) ∧
  (∀ h s c, Runs s h c → ∃ t, exec (.send h) s = .next t ∧
      let reserved := c.l.extractLsb' 36 28 ≠ 0 ∨ c.l.extractLsb' 32 2 ≠ 0 ∨ c.l.getLsbD 19 = true
      let node := (c.l.extractLsb' 20 12).toNat
      let input := (c.l.extractLsb' 16 3).toNat
      let tag : W16 := if c.l.getLsbD 35 then c.l.extractLsb' 0 16 else BitVec.ofNat 16 c.f.ht
      (reserved → FaultsAt s t c { cls := .illegalOperand }) ∧
      (¬reserved → c.l.getLsbD 34 = false →
        (∀ i n nd, c.f.inst = some i → s.inst? i = some n → n.nodes[node]? = some nd → input < nd.nin →
          Records s t c (.send n.iid node input tag c.r)) ∧
        ((∀ i n nd, c.f.inst = some i → s.inst? i = some n → n.nodes[node]? = some nd → nd.nin ≤ input) →
          FaultsAt s t c { cls := .nodeRange })) ∧
      (¬reserved → c.l.getLsbD 34 = true → ∀ x, s.ctx? c.f.ctx = some x →
        ((∀ g ∈ x.grants, g.1 ≠ node) → FaultsAt s t c { cls := .nodeRange }) ∧
        ((∃ g ∈ x.grants, g.1 = node) → c.b.keep = false → FaultsAt s t c { cls := .keepRequired }) ∧
        ∀ g, x.grants.find? (fun e => e.1 == node) = some g → c.b.keep = true → Records s t c (.sendIngress g.2 c.l c.r)))

/-- 1. TFREE, TSET.lnk, TSET.exp, TSET.e, TDEF and TRING execute by recording their operation for the commit, where their checks pass; a
bound port or a ring slot faults TILE_FORMAT (R280, R282, R285, R286).

2. TSTATE delivers the descriptor's low or high half once the frame's work on the tile is complete; TTEST delivers 1 on READY, else 0, and in
a DET frame waits; TGET waits for READY (faults TILE_NOT_READY under NB), faults TILE_RANGE past the last element, and delivers the element,
whose tile's flags its block folds (R281, R284).

3. A tile-table operation applies once nothing before it in stall order meets its tile (R261, R262, R265, R267, R280, R282, R285, R286):
its folds are taken, it leaves the table's queue, and the descriptor it names changes as the operation says; no row of the tile store
changes but by TSET.e. What TFREE of a bound port folds, and that the slot it empties has ARR, AFL and RCH 0, is the model's reading (logs
30 and 46).

4. A tile page that is not resident is refilled: its 4,096 bytes come from the stall's backing in the context's frame area, as the
tables reach it, and it is resident and pinned (R455). How the frame area is laid out is the model's choice (log 118). -/
def Obligations.Tiles : Prop :=
  (∀ h ta tc n,
      Issues (.tfree h ta) h false (fun _ _ => none) (fun _ _ => true) ∧
      Issues (.tsetLnk h tc) h false (fun _ x => if x.ringTile tc.toNat then some .tileFormat else none) (fun _ _ => true) ∧
      Issues (.tsetExp h tc) h false (fun _ x => if x.ringTile tc.toNat then some .tileFormat else none) (fun _ _ => true) ∧
      Issues (.tsetE h tc) h false
        (fun c x => if x.ringTile tc.toNat then some .tileFormat
          else match x.placeFault (x.tileD tc.toNat) with
            | some k => some k
            | none => if (x.tileD tc.toNat).count ≤ c.l.toNat then some .tileRange else none) (fun _ _ => true) ∧
      Issues (.tdef h tc) h false
        (fun c x => match (Tile.ofDef c.l.toNat (c.r.toNat % 2 ^ 20)).defFault x.roles with
          | some k => some k
          | none => if x.ringTile tc.toNat then some .tileFormat else none) (fun _ _ => true) ∧
      Issues (.tring h ta tc n) h false (fun _ x => if x.ringBad ta.toNat tc.toNat n.toNat then some .tileFormat else none) (fun _ _ => true)) ∧
  (∀ h (ta : BitVec 6) s c, Runs s h c →
      let x := s.stallD c.f.stall
      let n := ta.toNat
      (∀ hi, ∃ t, exec (.tstate h ta hi) s = .next t ∧
        if x.frameWork c.f.fid n then WaitsOn s t c (.tileDone n)
        else Delivers s t c h (BitVec.ofNat 64 (if hi then (x.tileD n).pack / 2 ^ 64 else (x.tileD n).pack))) ∧
      (∃ t, exec (.ttest h ta) s = .next t ∧
        if x.frameTops c.f.fid n then WaitsOn s t c (.tops n)
        else if (x.srcTile n).st = .ready then Delivers s t c h 1
        else if c.f.det then WaitsOn s t c (.tile n) else Delivers s t c h 0) ∧
      ∀ nb, ∃ t, exec (.tget h ta nb) s = .next t ∧ (x.frameTops c.f.fid n = true → WaitsOn s t c (.tops n)) ∧
        (x.frameTops c.f.fid n = false → (x.bound n = true → FaultsAt s t c { cls := .tileFormat }) ∧
          (x.bound n = false → (x.tileD n).st ≠ .ready → if nb then FaultsAt s t c { cls := .tileNotReady } else WaitsOn s t c (.tile n)) ∧
          (x.bound n = false → (x.tileD n).st = .ready → x.placeFault (x.tileD n) = none →
            ((x.tileD n).count ≤ c.l.toNat → FaultsAt s t c { cls := .tileRange }) ∧
            (c.l.toNat < (x.tileD n).count → x.pagesIn (x.tileD n) = false → WaitsOn s t c (.page n)) ∧
            (c.l.toNat < (x.tileD n).count → x.pagesIn (x.tileD n) = true → ∃ a,
              Ran (s.modStall c.f.stall fun y => y.pin (x.tileD n)) t c
                { fired c true with
                  effs := c.b.effs ++ [(c.slot, .tgetFold (x.tileD n).afl)],
                  transit := c.b.transit ++ tokens c.slot h (BitVec.ofNat 64
                    (if (x.tileD n).lay then x.elem (x.tileD n) c.l.toNat else ofBytes (x.tileBytes (x.tileD n) c.l.toNat 1))) a })))) ∧
  (∀ (s : State) st k x (m : Msg), s.stall? st = some x → x.tops[k]? = some m → s.stallRuns st = true → x.opClear m = true → x.opState m.i = true →
      s.behindMsg m.org = true →
      let left := { x with tops := x.tops.eraseIdx k }
      let applies := fun (y : Stall) => ∃ t, exec (.tileTableOpApply st k) s = .next t ∧
        t = { s with stalls := t.stalls, frames := t.frames } ∧ FoldsTaken s t m ∧ StallBecomes s t st y
      (∀ h tc, m.i = .tdef h tc → applies (left.withTile tc.toNat fun _ => Tile.ofDef m.l.toNat (m.r.toNat % 2 ^ 20))) ∧
      (∀ h ta, m.i = .tfree h ta → x.bound ta.toNat = false →
        applies (left.withTile ta.toNat fun t => { t with st := .empty, arr := 0, afl := 0, sides := [] })) ∧
      (∀ h ta, m.i = .tfree h ta → x.bound ta.toNat = true →
        applies ((left.withTile (x.srcSlot ta.toNat) fun t => { t with st := .empty, arr := 0, afl := 0, rch := 0, sides := [] }).withTile ta.toNat
          fun p => { p with rdrain := if p.rdrain = p.rcnt then 0 else p.rdrain + 1 })) ∧
      (∀ h tc, m.i = .tsetLnk h tc → applies (left.withTile tc.toNat fun t =>
        { t with wml := (m.l.extractLsb' 0 6).toNat, wmv := m.l.getLsbD 6, scl := (m.l.extractLsb' 8 6).toNat, sc := m.l.getLsbD 14 })) ∧
      (∀ h tc, m.i = .tsetExp h tc → applies (left.withTile tc.toNat fun t => { t with exp := (m.l.extractLsb' 0 20).toNat })) ∧
      (∀ h ta tc n, m.i = .tring h ta tc n → x.ringBad ta.toNat tc.toNat n.toNat = false →
        applies (left.withTile tc.toNat fun p => { p with rslot := if n = 0 then 0 else ta.toNat, rcnt := n.toNat, rfill := 0, rdrain := 0 })) ∧
      (∀ h tc, m.i = .tsetE h tc → m.l.toNat < (x.tileD tc.toNat).count → x.placeFault (x.tileD tc.toNat) = none →
        let d := x.tileD tc.toNat
        let n := elemBits d.fmt
        let i := m.l.toNat
        let o := if d.lay then (if n = 4 then i / 2 else i * (n / 8)) else i
        let at_ := ellAddr x.roles (d.ell x.roles + o / 128) (o % 128)
        let old := (spGet 0 x.store at_).toNat
        let v := m.r.toNat
        applies { left.pin d with
          store := putBytes x.store at_
            (if d.lay then
              (if n = 4 then [BitVec.ofNat 8 (if i % 2 = 1 then old % 16 + v % 16 * 16 else old / 16 * 16 + v % 16)] else bytesLE v (n / 8))
             else bytesLE v 1),
          dirty := x.dirty.set ((d.ell x.roles + o / 128) / 32) true })) ∧
  (∀ (s : State) st page x n c, s.stall? st = some x → x.owner = some n → s.ctx? n = some c → c.num = n → s.stallRuns st = true → page < 128 →
      x.resident.getD page true = false → s.backingLost st page = false →
      let rows := 128 * (tileBanks x.roles).length
      let byte := fun (i : Nat) => match s.walkVa n (c.backingVa st + page * 4096 + i) with | .ok l => s.rd8 l.pa | .error _ => 0
      ∃ t, exec (.tilePageRefill st page false) s = .next t ∧ t = { s with stalls := t.stalls } ∧
        StallBecomes s t st { x with
          resident := x.resident.set page true, pinned := x.pinned.set page true,
          store := (List.range 4096).foldl (fun m i =>
            if (page * 4096 + i) / 128 < rows then
              spPut 0 m (ellAddr x.roles ((page * 4096 + i) / 128) ((page * 4096 + i) % 128)) (byte i)
            else m) x.store })

/-- 1. The plane-array instructions issue under the checks of R109, R111, R130 and R131 and the tile and sequence rules (R120, R128, R264);
PPSET records the planes it sets (R112).

2. The vector instructions issue under the checks of R157, R169 to R186 and the tile rule (R54, R159, R264).

3. The sum-product instructions issue under the checks of R197, R198 and R208; SPT and SPD have no predicate and no check; SPFENCE waits
for the frame's messages and delivers its flags (R192, R193, R198, R199, R200).

4. A product faults TILE_FORMAT where an operand or TC has another format or layout than its form takes, or TC is a bound port;
SCALE_MISMATCH where SC is not as the form wants it; TILE_RANGE where TC is not 4 rows, the group counts differ or pass 128; BANK_ROLE where a
tile or a linked tile leaves the tile store; TILE_RANGE where a linked tile is too short or TC shares a row with an operand or a linked tile.
PZACC and PWMAP fault on their tiles in the same way (R32, R90, R109, R111, R130, R131). The order of classes is the model's (log 106).

5. Every vector instruction faults TILE_FORMAT on a tile outside its class, on a mixture of F and I, on a conversion pair not listed, on a
condition against its class, and on a bound port as the destination of a merging instruction or of one with side destinations;
SCALE_MISMATCH as VQNT and VDQNT say; TILE_RANGE on a shape; BANK_ROLE where a tile leaves the tile store; and TILE_RANGE where a destination
shares a row with a source, a linked tile or another destination (R32, R156, R157, R169 to R186). The order of classes is the model's (log 106).

6. SPLD, SPST and SPZ fault ILLEGAL_OPERAND on a count above 2,048; SPLD and SPST fault TILE_FORMAT on a tile that is not WORD FP32, SP32,
INT32 or BF16, SPST on a bound port too, TILE_RANGE on a tile with fewer elements than the count, and BANK_ROLE on one that leaves the
tile store; SPT and SPD have no check (R32, R197, R198, R208). The order of classes is the model's (log 106). -/
def Obligations.EngineMessages : Prop :=
  (∀ h (p : PF) (ta tc : BitVec 6) (pa pb : BitVec 5) sq nb,
      let issues := fun (i : Instr) (nb : Bool) => Issues i h nb (fun _ x => x.planeCheck i) (fun c x => x.planeReady i (seqOf i c.l))
      issues (.pmmaI h p) p.nb ∧ issues (.pmmaS h p) p.nb ∧ issues (.pmmaX h p) p.nb ∧ issues (.pmvI h p) p.nb ∧ issues (.pmvS h p) p.nb ∧
      issues (.pmvX h p) p.nb ∧ issues (.pzacc h tc sq nb) nb ∧ issues (.pwmap h ta tc nb) nb ∧
      ∀ s c, Runs s h c → ∃ t, exec (.ppset h pa pb) s = .next t ∧ Records s t c (.ppset pa pb)) ∧
  (∀ h (v : VF3) (w : VF2) (tc : BitVec 6) src nb op all wm dv cc cnt ar rank bytes,
      let issues := fun (i : Instr) (nb : Bool) => Issues i h nb (fun _ x => x.vecCheck i) (fun _ x => x.vecReady i)
      issues (.vadd h v) v.nb ∧ issues (.vsub h v) v.nb ∧ issues (.vmul h v) v.nb ∧ issues (.vfma h v) v.nb ∧ issues (.vfms h v) v.nb ∧
      issues (.vmin h v) v.nb ∧ issues (.vmax h v) v.nb ∧ issues (.vabs h w) w.nb ∧ issues (.vneg h w) w.nb ∧ issues (.vrcp h w) w.nb ∧
      issues (.vrsq h w) w.nb ∧ issues (.vdiv h v) v.nb ∧ issues (.vsqrt h w) w.nb ∧ issues (.vexp2 h w) w.nb ∧ issues (.vlog2 h w) w.nb ∧
      issues (.vcvt h w) w.nb ∧ issues (.vqnt h v wm) v.nb ∧ issues (.vdqnt h w) w.nb ∧ issues (.vscl h v dv) v.nb ∧
      issues (.vred h w op all) w.nb ∧ issues (.vscan h w op all) w.nb ∧ issues (.vbcast h src tc nb) nb ∧ issues (.vperm h v) v.nb ∧
      issues (.vsel h v) v.nb ∧ issues (.vcmp h v cc) v.nb ∧ issues (.vand h v) v.nb ∧ issues (.vor h v) v.nb ∧ issues (.vxor h v) v.nb ∧
      issues (.vshl h w cnt) w.nb ∧ issues (.vshr h w cnt ar) w.nb ∧ issues (.vpopc h w) w.nb ∧ issues (.viota h tc nb) nb ∧
      issues (.visect h v) v.nb ∧ issues (.vpfx h w rank) w.nb ∧ issues (.vgat h v bytes) v.nb ∧ issues (.vsct h v) v.nb ∧
      issues (.vdot8 h v) v.nb) ∧
  ((∀ (sf : SF) b s c, s.cx? = some c →
      (∃ t, exec (.spt sf b) s = .next t ∧ Records s t c (.msg (.spt sf b) c.l c.r)) ∧
      (∃ t, exec (.spd sf b) s = .next t ∧ Records s t c (.msg (.spd sf b) c.l c.r))) ∧
    ∀ h (ta : BitVec 6) nb sp,
      Issues (.spld h ta nb) h nb (fun c x => x.speCheck (.spld h ta nb) c.l) (fun _ x => x.srcsReady [ta.toNat]) ∧
      Issues (.spst h ta nb) h nb (fun c x => x.speCheck (.spst h ta nb) c.l) (fun _ x => x.dstReady ta.toNat false) ∧
      Issues (.spz h sp) h false (fun c _ => if 2048 < (c.l.extractLsb' 16 12).toNat then some .illegalOperand else none) (fun _ _ => true) ∧
      ∀ s c, Runs s h c → ∃ t, exec (.spfence h) s = .next t ∧
        if s.speBusy c.f then WaitsOn s t c .spe else Delivers s t c h (c.f.spf.setWidth 64)) ∧
  ((∀ (x : Stall) i form vec (p : PF), i.product? = some (form, vec, p) →
      let a := x.srcTile p.ta.toNat
      let b := x.srcTile p.tb.toNat
      let c := x.tileD p.tc.toNat
      let takes := fun (t : Tile) => t.lay = false ∧ (form = .i → t.fmt = 0 ∨ t.fmt = 1) ∧ (form = .s → t.fmt = 3) ∧ (form = .x → t.fmt = 2)
      let linked := fun (t d : Tile) (n : Nat) => (form ≠ .x ∧ t.wmv = true ∧ d = x.tileD t.wml ∧ n = t.groups) ∨
        (form = .s ∧ d = x.tileD t.scl ∧ n = 32 * t.groups)
      Faults (x.planeCheck i)
        [(¬takes a ∨ ¬takes b ∨ c.lay = false ∨ (form = .s ∧ c.fmt ≠ 13) ∨ (form ≠ .s ∧ c.fmt ≠ 12) ∨ x.bound p.tc.toNat = true, .tileFormat),
         (¬(a.sc = true ↔ form = .s) ∨ ¬(b.sc = true ↔ form = .s), .scaleMismatch),
         (c.rows ≠ 4 ∨ a.groups ≠ b.groups ∨ 128 < a.groups, .tileRange),
         ((∃ t, (t = a ∨ t = b ∨ t = c ∨ ∃ n, linked a t n ∨ linked b t n) ∧ t.inStore x.roles = false), .bankRole),
         ((∃ t n, (linked a t n ∨ linked b t n) ∧ t.bytes < n) ∨ ∃ t, (t = a ∨ t = b ∨ ∃ n, linked a t n ∨ linked b t n) ∧ x.shares c t, .tileRange)]) ∧
    (∀ (x : Stall) h (t : BitVec 6) sq nb, let c := x.dstTile t.toNat
      Faults (x.planeCheck (.pzacc h t sq nb))
        [(c.lay = false ∨ (c.fmt ≠ 12 ∧ c.fmt ≠ 13) ∨ c.rows ≠ 4, .tileFormat), (c.inStore x.roles = false, .bankRole)]) ∧
    ∀ (x : Stall) h (s t : BitVec 6) nb, let a := x.srcTile s.toNat
      let c := x.dstTile t.toNat
      Faults (x.planeCheck (.pwmap h s t nb))
        [(a.lay = true ∨ a.fmt = 2, .tileFormat), (a.inStore x.roles = false ∨ c.inStore x.roles = false, .bankRole),
         (c.bytes < a.groups ∨ x.shares c a, .tileRange)]) ∧
  (∀ (x : Stall) h (v : VF3) (w : VF2) (tc : BitVec 6),
      let S := fun (n : BitVec 6) => x.srcTile n.toNat
      let D := fun (n : BitVec 6) => x.dstTile n.toNat
      let word := fun (t : Tile) (l : List Nat) => t.lay = true ∧ t.fmt ∈ l
      let F := [4, 5, 6, 13]
      let FS := [4, 5, 6, 7, 8, 9, 13]
      let W := [4, 10, 11, 13]
      let M := [4, 5, 6, 10, 11, 12, 13]
      let I := [11]
      -- the checks that follow format, scale and shape, over destinations and over sources with linked tiles
      let rest := fun (ds ss : List Tile) => [((∃ t ∈ ds ++ ss, t.inStore x.roles = false), Cls.bankRole),
        ((∃ d ∈ ds, ∃ t ∈ ss, x.shares d t) ∨ ¬ds.Pairwise (fun a b => ¬x.shares a b), .tileRange)]
      let arith := fun (i : Instr) (srcs : List Tile) (c : Tile) (fOnly merges : Bool) (n : BitVec 6) (shape : Prop) => Faults (x.vecCheck i)
        ([((merges = true ∧ x.bound n.toNat = true) ∨ ¬((word c F ∧ ∀ t ∈ srcs, word t FS) ∨ (fOnly = false ∧ word c I ∧ ∀ t ∈ srcs, word t I)), .tileFormat),
          (shape, .tileRange)] ++ rest [c] srcs)
      let takes := fun (i : Instr) (ok shape : Prop) (c : Tile) (ss : List Tile) => Faults (x.vecCheck i)
        ([(¬ok, .tileFormat), (shape, .tileRange)] ++ rest [c] ss)
      let three := fun (i : Instr) (merges : Bool) => arith i [S v.ta, S v.tb] (D v.tc) false merges v.tc
        ((S v.ta).rows ≠ (D v.tc).rows ∨ ((S v.tb).rows ≠ (D v.tc).rows ∧ (S v.tb).rows ≠ 1))
      let two := fun (i : Instr) (fOnly : Bool) => arith i [S w.ta] (D w.tc) fOnly false w.tc ((S w.ta).rows ≠ (D w.tc).rows)
      let cast := fun (a b c : Tile) => a.rows ≠ c.rows ∨ (b.rows ≠ c.rows ∧ b.rows ≠ 1)
      let raw := fun (a c : Tile) => a.lay = true ∧ word c M ∧ a.fmt = c.fmt
      (three (.vadd h v) false ∧ three (.vsub h v) false ∧ three (.vmul h v) false ∧ three (.vfma h v) true ∧ three (.vfms h v) true ∧
        three (.vmin h v) false ∧ three (.vmax h v) false ∧ three (.vdiv h v) false ∧ two (.vabs h w) false ∧ two (.vneg h w) false ∧
        two (.vrcp h w) true ∧ two (.vrsq h w) true ∧ two (.vsqrt h w) true ∧ two (.vexp2 h w) true ∧ two (.vlog2 h w) true) ∧
      (∀ i ∈ [Instr.vand h v, .vor h v, .vxor h v],
        takes i (word (S v.ta) W ∧ word (S v.tb) W ∧ word (D v.tc) W) (cast (S v.ta) (S v.tb) (D v.tc)) (D v.tc) [S v.ta, S v.tb]) ∧
      takes (.vcvt h w)
        ((S w.ta).lay = true ∧ (D w.tc).lay = true ∧ (((S w.ta).fmt ∈ FS ∧ (D w.tc).fmt ∈ F ++ I) ∨ ((S w.ta).fmt = 11 ∧ (D w.tc).fmt ∈ F ++ [12]) ∨
          ((S w.ta).fmt = 12 ∧ (D w.tc).fmt ∈ F ++ I))) ((S w.ta).rows ≠ (D w.tc).rows) (D w.tc) [S w.ta] ∧
      (∀ wm, let a := S v.ta
        let c := D v.tc
        let ds := c :: (if c.fmt = 3 then [D v.tb] else []) ++ (if wm then [x.dstTile c.wml] else [])
        Faults (x.vecCheck (.vqnt h v wm))
          ([((x.bound v.tc.toNat = true ∨ (c.fmt = 3 ∧ x.bound v.tb.toNat = true) ∨ (wm = true ∧ x.bound c.wml = true)) ∧ (c.fmt = 3 ∨ wm = true) ∨
             ¬(word a (FS ++ [11, 12]) ∧ c.lay = false ∧ c.fmt ≠ 2 ∧ (wm = true → c.wmv = true)), .tileFormat),
            ((c.fmt = 3 ∧ (c.sc = false ∨ c.scl ≠ v.tb.toNat)) ∨ (c.fmt ≠ 3 ∧ c.sc = true), .scaleMismatch),
            (a.rows ≠ 4 * c.groups ∨ (c.fmt = 3 ∧ (x.tileD v.tb.toNat).bytes < 32 * c.groups) ∨ (wm = true ∧ (x.tileD c.wml).bytes < c.groups), .tileRange)] ++
            rest ds [a])) ∧
      (let a := S w.ta
        let c := D w.tc
        let links := (if a.wmv = true ∧ a.fmt ≠ 2 then [(x.tileD a.wml, a.groups)] else []) ++ (if a.sc = true then [(x.tileD a.scl, 32 * a.groups)] else [])
        Faults (x.vecCheck (.vdqnt h w))
          ([(¬(a.lay = false ∧ (word c F ∨ (word c I ∧ a.fmt ≠ 3))), .tileFormat), (a.fmt = 3 ∧ a.sc = false, .scaleMismatch),
            (c.rows ≠ 4 * a.groups ∨ ∃ l ∈ links, l.1.bytes < l.2, .tileRange)] ++ rest [c] (a :: links.map (·.1)))) ∧
      (∀ dv, takes (.vscl h v dv) (word (S v.ta) FS ∧ word (D v.tc) F) ((S v.ta).rows ≠ (D v.tc).rows ∨ (S v.tb).bytes < 8 * (D v.tc).rows) (D v.tc)
        [S v.ta, S v.tb]) ∧
      (∀ op all, takes (.vred h w op all) (word (D w.tc) (F ++ I) ∧ (S w.ta).lay = true ∧ (S w.ta).fmt = (D w.tc).fmt)
        ((D w.tc).rows ≠ if all then 1 else ((S w.ta).rows + 255) / 256) (D w.tc) [S w.ta]) ∧
      (∀ op all, takes (.vscan h w op all) (word (D w.tc) (F ++ I) ∧ (S w.ta).lay = true ∧ (S w.ta).fmt = (D w.tc).fmt)
        ((S w.ta).rows ≠ (D w.tc).rows) (D w.tc) [S w.ta]) ∧
      (∀ nb, takes (.vbcast h none tc nb) (word (D tc) M) False (D tc) []) ∧
      (∀ nb s, takes (.vbcast h (some s) tc nb) (raw (S s) (D tc)) ((S s).rows ≠ 1) (D tc) [S s]) ∧
      takes (.vperm h v) (raw (S v.ta) (D v.tc) ∧ word (S v.tb) I) (cast (S v.ta) (S v.tb) (D v.tc)) (D v.tc) [S v.ta, S v.tb] ∧
      takes (.vsel h v) (x.bound v.tc.toNat = false ∧ raw (S v.ta) (D v.tc) ∧ word (S v.tb) I) (cast (S v.ta) (S v.tb) (D v.tc)) (D v.tc) [S v.ta, S v.tb] ∧
      (∀ cc, takes (.vcmp h v cc)
        (word (D v.tc) I ∧ ((word (S v.ta) I ∧ word (S v.tb) I ∧ cc ≠ .un) ∨ (word (S v.ta) FS ∧ word (S v.tb) FS ∧ cc ≠ .ltu ∧ cc ≠ .leu)))
        (cast (S v.ta) (S v.tb) (D v.tc)) (D v.tc) [S v.ta, S v.tb]) ∧
      (∀ n ar, ∀ i ∈ [Instr.vshl h w (.imm n), .vshr h w (.imm n) ar],
        takes i (word (S w.ta) W ∧ word (D w.tc) W) ((S w.ta).rows ≠ (D w.tc).rows) (D w.tc) [S w.ta]) ∧
      (∀ t ar, ∀ i ∈ [Instr.vshl h w (.tile t), .vshr h w (.tile t) ar],
        takes i (word (S w.ta) W ∧ word (D w.tc) W ∧ word (S t) I) (cast (S w.ta) (S t) (D w.tc)) (D w.tc) [S w.ta, S t]) ∧
      takes (.vpopc h w) (word (S w.ta) W ∧ word (D w.tc) I) ((S w.ta).rows ≠ (D w.tc).rows) (D w.tc) [S w.ta] ∧
      (∀ nb, takes (.viota h tc nb) (word (D tc) I) False (D tc) []) ∧
      takes (.visect h v) (word (S v.ta) I ∧ word (S v.tb) I ∧ word (D v.tc) I) ((S v.ta).rows ≠ (S v.tb).rows) (D v.tc) [S v.ta, S v.tb] ∧
      takes (.vpfx h w none) (word (S w.ta) I ∧ word (D w.tc) I) ((S w.ta).rows ≠ (D w.tc).rows) (D w.tc) [S w.ta] ∧
      (∀ t, takes (.vpfx h w (some t)) (word (S w.ta) I ∧ word (D w.tc) I ∧ word (S t) I) ((S t).rows ≠ (D w.tc).rows) (D w.tc) [S w.ta, S t]) ∧
      takes (.vgat h v false) (raw (S v.ta) (D v.tc) ∧ word (S v.tb) I) ((S v.tb).rows ≠ (D v.tc).rows) (D v.tc) [S v.ta, S v.tb] ∧
      takes (.vgat h v true) (word (S v.ta) I ∧ word (S v.tb) I ∧ word (D v.tc) I) ((S v.tb).rows ≠ 4 * (D v.tc).rows) (D v.tc) [S v.ta, S v.tb] ∧
      takes (.vsct h v) (x.bound v.tc.toNat = false ∧ raw (S v.ta) (D v.tc) ∧ word (S v.tb) I) ((S v.ta).rows ≠ (S v.tb).rows) (D v.tc) [S v.ta, S v.tb] ∧
      takes (.vdot8 h v) (word (S v.ta) I ∧ word (S v.tb) I ∧ word (D v.tc) I)
        ((S v.ta).rows ≠ (S v.tb).rows ∨ (D v.tc).rows ≠ ((S v.ta).rows + 255) / 256) (D v.tc) [S v.ta, S v.tb]) ∧
  (∀ (x : Stall) h (t : BitVec 6) nb sp (l : W64) (sf : SF) b,
      let n := (l.extractLsb' 16 12).toNat
      let tile := fun (i : Instr) (d : Tile) (port : Prop) => Faults (x.speCheck i l)
        [(2048 < n, .illegalOperand), (d.lay = false ∨ d.fmt ∉ [4, 5, 10, 11] ∨ port, .tileFormat), (256 * d.rows < n, .tileRange),
         (d.inStore x.roles = false, .bankRole)]
      tile (.spld h t nb) (x.srcTile t.toNat) False ∧ tile (.spst h t nb) (x.tileD t.toNat) (x.bound t.toNat = true) ∧
      Faults (x.speCheck (.spz h sp) l) [(2048 < n, .illegalOperand)] ∧ x.speCheck (.spt sf b) l = none ∧ x.speCheck (.spd sf b) l = none)

/-- 1. The porter's instructions issue under their checks; a job with a card faults ADDRESS before any other check when the card's address is
not a multiple of 64 below 2^56 (R268, R283, R287 to R295). That a PSTRM of a tile below t56 faults TILE_FORMAT is the model's reading (log
109).

2. XSEND and XRECV issue where their part exists in the instance and their tile lies in the tile store (R314, R315, R316, R318). -/
def Obligations.PorterMessages : Prop :=
  (∀ h (ta tc : BitVec 6) nb (cpl : BitVec 2) tile,
      let carded := fun (i : Instr) (nb : Bool) (bad : Stall → Option Cls) (ready : Stall → Bool) => ∀ s c, Runs s h c →
        ∃ t, exec i s = .next t ∧
          let x := s.stallD c.f.stall
          let good := c.l.toNat % 64 = 0 ∧ c.l.toNat < 2 ^ 56
          (¬good → FaultsAt s t c { cls := .address, va := some (c.l.toNat % 2 ^ 56) }) ∧
          (good → ∀ k, bad x = some k → FaultsAt s t c { cls := k }) ∧
          (good → bad x = none → nb = true → ready x = false → FaultsAt s t c { cls := .tileNotReady }) ∧
          (good → bad x = none → (nb = true → ready x = true) → Records s t c (.msg i c.l c.r))
      let fill := fun (x : Stall) => x.fillReady tc.toNat
      let drain := fun (x : Stall) => x.srcsReady [ta.toNat]
      let form := fun (b : Bool) (k : Option Cls) => if b then some .tileFormat else k
      let place := fun (x : Stall) (t : Tile) => x.placeFault t
      carded (.pld h tc nb cpl) nb (fun x => let t := x.dstTile tc.toNat
        form (!t.lay && t.fmt == 2) (if !t.lay && t.fmt == 3 && !t.sc then some .scaleMismatch else place x t)) fill ∧
      carded (.pst h ta nb cpl) nb (fun x => place x (x.srcTile ta.toNat)) drain ∧
      carded (.pcpy h cpl) false (fun _ => none) (fun _ => true) ∧
      carded (.pgat h tc nb cpl) nb (fun x => place x (x.dstTile tc.toNat)) fill ∧
      carded (.psct h ta nb cpl) nb (fun x => place x (x.srcTile ta.toNat)) drain ∧
      carded (.prdc h ta nb cpl) nb (fun x => let t := x.srcTile ta.toNat; form (!t.lay || (t.fmt != 4 && t.fmt != 11)) (place x t)) drain ∧
      carded (.pxpd h tc nb cpl) nb (fun x => form (!(x.dstTile tc.toNat).packs) (place x (x.dstTile tc.toNat))) fill ∧
      carded (.pcmp h ta nb cpl) nb (fun x => form (!(x.srcTile ta.toNat).packs) (place x (x.srcTile ta.toNat))) drain ∧
      carded (.pstrmIn h tc cpl) false (fun _ => form (tc.toNat < 56) none) (fun _ => true) ∧
      carded (.pstrmOut h tc cpl) false (fun _ => form (tc.toNat < 56) none) (fun _ => true) ∧
      Issues (.pbar h tile) h false (fun _ _ => none) (fun _ _ => true) ∧
      Issues (.tzero h tc nb) h nb (fun _ x => form (x.bound tc.toNat) (place x (x.tileD tc.toNat))) (fun _ x => x.dstReady tc.toNat false) ∧
      Issues (.tcopy h ta tc nb) h nb
        (fun _ x => form (x.bound ta.toNat || x.bound tc.toNat || (x.tileD ta.toNat).copyForm != (x.tileD tc.toNat).copyForm)
          (x.placeFaults [x.tileD ta.toNat, x.tileD tc.toNat])) (fun _ x => x.srcsReady [ta.toNat] && x.dstReady tc.toNat false)) ∧
  (∀ h (t : BitVec 6) nb,
      let part := fun (s : State) (c : Cx) => ((c.f.inst.bind s.inst?).map (·.parts.length)).getD 0
      ∀ s c, Runs s h c →
        let x := s.stallD c.f.stall
        let bad := fun (k : Option Cls) => if part s c ≤ c.l.toNat % 16 then some .illegalOperand else k
        let goes := fun (i : Instr) (u : State) (bad : Option Cls) (ready : Bool) =>
          (∀ k, bad = some k → FaultsAt s u c { cls := k }) ∧
          (bad = none → nb = true → ready = false → FaultsAt s u c { cls := .tileNotReady }) ∧
          (bad = none → (nb = true → ready = true) → Records s u c (.msg i c.l c.r))
        (∃ u, exec (.xsend h t nb) s = .next u ∧
          goes (.xsend h t nb) u (bad (x.placeFault (x.srcTile t.toNat))) (x.srcsReady [t.toNat])) ∧
        (∃ u, exec (.xrecv h t nb) s = .next u ∧
          goes (.xrecv h t nb) u (bad (x.placeFault (x.dstTile t.toNat))) (x.dstReady t.toNat false)))

/-- 1. RDINIT takes a slot of its hall, delivers the handle and records the object; RDINIT.free and RED record what the commit does, RED with a
32-bit value for an FP32 object; RDWAIT and RDWAIT.f deliver the result and the flags of a finished object, wait for one in progress and
fault REDUCTION_STATE for a broken one; a handle that names no live object of the context faults the same (R304, R305, R306, R312).

2. op of a reduction node, the even-indexed value first (R307, R311): INT64 sums saturate with SAT; maximum and minimum of INT64; FP32 sums
round to nearest even. -/
def Obligations.Reductions : Prop :=
  (∀ h s c, Runs s h c →
      (∀ x free, s.ctx? c.f.ctx = some x → free < 4096 → s.red? (hallOfStall c.f.stall) free = none →
        let d := c.l.toNat
        let hall := hallOfStall c.f.stall
        let inst := c.f.inst.bind s.inst?
        let part := if redSplit d = 0 then 0 else (inst.bind fun n => n.part? hall).getD 16
        (s.reds.filter fun r => r.ctx == c.f.ctx && r.hall == hall).length < x.params.redLimit →
        redDescBad d (max 1 ((inst.map (·.parts)).getD []).length) = false → part < 2 ^ redSplit d →
        (redSplit d ≠ 0 → ∀ r ∈ s.redParts c.f.inst (redKey d), r.hall ≠ hall) → (c.f.det = true → redArrival d = false) →
        ∃ t k n a r, exec (.rdinit h) s = .next t ∧ k < 4096 ∧ s.red? hall k = none ∧
          r.rid = s.nextId ∧ r.hall = hall ∧ r.slot = k ∧ r.ctx = c.f.ctx ∧ r.inst = c.f.inst ∧ r.desc = c.l ∧ r.part = part ∧ r.live = false ∧ r.held = [] ∧
          r.acc = none ∧ r.done = false ∧ r.broken = false ∧ r.flags = 0 ∧
          Ran { s with reds := s.reds ++ [r], nextId := s.nextId + 1, draws := n } t c
            { fired c true with effs := c.b.effs ++ [(c.slot, .rdinit k)],
                                transit := c.b.transit ++ tokens c.slot h (BitVec.ofNat 64 (hall * 2 ^ 14 + k)) a }) ∧
      (redDescBad c.l.toNat (max 1 (((c.f.inst.bind s.inst?).map (·.parts)).getD []).length) = true →
        ∃ t, exec (.rdinit h) s = .next t ∧ FaultsAt s t c { cls := .illegalOperand }) ∧
      (∃ t u v, exec (.rdinitFree h) s = .next t ∧ exec (.rdwait h) s = .next u ∧ exec (.rdwaitF h) s = .next v ∧
        match s.redAt c.f.ctx c.l.toNat with
        | none => FaultsAt s t c { cls := .redState, extra := c.l } ∧ FaultsAt s u c { cls := .redState, extra := c.l } ∧
            FaultsAt s v c { cls := .redState, extra := c.l }
        | some r => Records s t c (.rdfree r.hall r.slot r.rid) ∧
            (r.broken = true → FaultsAt s u c { cls := .redState, extra := c.l } ∧ FaultsAt s v c { cls := .redState, extra := c.l }) ∧
            (r.broken = false → r.done = false → WaitsOn s u c (.red r.hall r.slot) ∧ WaitsOn s v c (.red r.hall r.slot)) ∧
            (r.broken = false → r.done = true → ∃ a,
              Ran s u c { fired c true with aflags := c.b.aflags ||| r.flags, transit := c.b.transit ++ tokens c.slot h r.result a } ∧
              Ran s v c { fired c true with aflags := c.b.aflags ||| r.flags, transit := c.b.transit ++ tokens c.slot h (r.flags.setWidth 64) a })) ∧
      ∃ t, exec (.red h) s = .next t ∧
        let lvl := (c.l.extractLsb' 16 5).toNat
        let idx := (c.l.extractLsb' 24 24).toNat
        match s.redAt c.f.ctx (c.l.extractLsb' 0 16).toNat with
        | none => FaultsAt s t c { cls := .redState, extra := (c.l.extractLsb' 0 16).setWidth 64 }
        | some r =>
          if redDepth r.d < lvl ∨ redAbsent r.d lvl idx = true then FaultsAt s t c { cls := .illegalOperand }
          else Records s t c (.red r.hall r.slot r.rid lvl idx (if redInt r.d then c.r else (c.r.setWidth 32).setWidth 64))) ∧
  (∀ d (a b : W64),
      (redInt d = true → redOp d = 0 → redCombine d a b =
        (BitVec.ofInt 64 (max (-(2 ^ 63)) (min (2 ^ 63 - 1) (a.toInt + b.toInt))),
         { sat := decide (a.toInt + b.toInt < -(2 ^ 63) ∨ 2 ^ 63 ≤ a.toInt + b.toInt) })) ∧
      (redInt d = true → redOp d = 1 → redCombine d a b = (if b.toInt ≤ a.toInt then a else b, {})) ∧
      (redInt d = true → redOp d = 2 → redCombine d a b = (if a.toInt ≤ b.toInt then a else b, {})) ∧
      (redInt d = false → redOp d = 0 → ∀ va vb, binValue 8 23 (a.toNat % 2 ^ 32) = some va → binValue 8 23 (b.toNat % 2 ^ 32) = some vb →
        va + vb ≠ 0 → ∃ v fl, redCombine d a b = (BitVec.ofNat 64 v, fl) ∧
          (Cut.of (if va + vb < 0 then -(va + vb) else va + vb)).roundsFp 8 23 .rne (decide (va + vb < 0)) v fl))

/-- 1. A group's elements by its bit planes (R88, R91, R93, R113): plane b of a group of width w weighs 2^b, the top plane of a signed
operand -2^(w-1); planes at or above the map's entry and below the precision count as 0.

2. One run of a product adds one dot product of 32 pairs for each of the 32 by 32 results, column 0 alone for PMV; a chunk of up to eight
runs adds their sums and saturates to 64 bits with SAT (R109, R114, R116, R117).

3. A product's destination becomes what R114 to R117 compute over the K blocks of its operands: .i and .x add the dot products chunk by chunk,
saturating to 64 bits with SAT; .s adds each block's run times 2^(ca + cb - 254) with one rounding to nearest, where neither scale code is
255, the run is not 0 and the element is finite; PMV computes column 0 alone. It costs 4 cycles and the plane pairs of each chunk (R118),
and moves NSQ on with SEQ (R120). PZACC writes zeros in 4 cycles (R130) and PWMAP the effective width of each group (R92, R131). -/
def Obligations.PlanarArithmetic : Prop :=
  (∀ (planes : List (List Byte)) w m low (signed : Bool) e, (∀ p ∈ planes, p.length = 128) → planes.length = w → 0 < w → e < 1024 →
      let bit := fun (b : Nat) => ((planes.getD b []).getD (e / 8) 0).getLsbD (e % 8)
      (groupVals planes w m low signed).length = 1024 ∧
      (groupVals planes w m low signed).getD e 0 =
        ((List.range w).map fun b =>
          if low ≤ b ∧ b < min m w ∧ bit b = true then (if signed = true ∧ min m w = w ∧ b + 1 = w then -(2 : Int) ^ b else (2 : Int) ^ b) else 0).sum) ∧
  ((∀ vec (a b : List Int) i j, a.length = 1024 → b.length = 1024 → i < 32 → j < 32 →
      (blockRuns vec a b).getD (32 * i + j) 0 =
        if vec = true ∧ j ≠ 0 then 0 else ((List.range 32).map fun k => a.getD (32 * i + k) 0 * b.getD (32 * j + k) 0).sum) ∧
    (∀ (cur : List Int) (runs : List (List Int)) e, runs ≠ [] → runs.length ≤ 8 → cur.length = 1024 → (∀ r ∈ runs, r.length = 1024) → e < 1024 →
      let exact := fun (k : Nat) => cur.getD k 0 + (runs.map fun r => r.getD k 0).sum
      let r := addChunks cur {} 1 runs
      r.1.getD e 0 = max (-(2 ^ 63)) (min (2 ^ 63 - 1) (exact e)) ∧
      (r.2 = { sat := true } ∨ r.2 = {}) ∧ (r.2.sat = true ↔ ∃ k, k < 1024 ∧ (exact k < -(2 ^ 63) ∨ 2 ^ 63 ≤ exact k)))) ∧
  ((∀ (x : Stall) (m : Msg) form vec (p : PF), m.i.product? = some (form, vec, p) → x.planeCheck m.i = none →
      let a := x.srcTile p.ta.toNat
      let b := x.srcTile p.tb.toNat
      let c := x.tileD p.tc.toNat
      let r := x.planeRun m
      let used := fun (t : Tile) (n : Nat) => if form = .x then 1 else min n t.width
      let qa := used a (ppA m.pp)
      let qb := used b (ppB m.pp)
      let run := fun (g i j : Nat) => if vec && j != 0 then 0
        else ((List.range 32).map fun k => x.opv a g (32 * i + k) qa * x.opv b g (32 * j + k) qb).sum
      let old := fun (i j : Nat) => if p.acc then x.elem c (32 * i + j) else 0
      let chunks := (a.groups + 7) / 8
      let width := fun (t : Tile) (n : Nat) => (List.range 8).foldl (fun w k => if 8 * n + k < t.groups then max w (x.groupWidth t (8 * n + k)) else w) 0
      let planes := fun (t : Tile) (q n : Nat) => min t.width (width t n) - (t.width - q)
      r.out.length = c.bytes ∧ r.tc = p.tc.toNat ∧ r.nsq = (if p.sq then some ((c.nsq + 1) % 4096) else none) ∧
      r.costs = (List.range chunks).map (fun n => if form = .x then 1 else planes a qa n * planes b qb n) ∧ r.cycles = 4 + r.costs.sum ∧
      (form ≠ .s →
        let chunk := fun (n i j : Nat) => ((List.range 8).map fun k => if 8 * n + k < a.groups then run (8 * n + k) i j else 0).sum
        let after := fun (n i j : Nat) => (List.range n).foldl (fun v k => max (-(2 : Int) ^ 63) (min ((2 : Int) ^ 63 - 1) (v + chunk k i j)))
          (BitVec.ofNat 64 (old i j)).toInt
        (∀ i j, i < 32 → j < 32 → BitVec.ofNat 64 (imageElem 64 r.out (32 * i + j)) = BitVec.ofInt 64 (after chunks i j)) ∧
        ∀ k, k < 5 → (r.flags.getLsbD k = true ↔ (p.acc = true ∧ c.afl.getLsbD k = true) ∨ (k = 3 ∧ ∃ n i j, n < chunks ∧ i < 32 ∧ j < 32 ∧
          (after n i j + chunk n i j < -(2 : Int) ^ 63 ∨ (2 : Int) ^ 63 ≤ after n i j + chunk n i j)))) ∧
      (form = .s → ∃ (v : Nat → Nat → Nat → Nat) (fl : Nat → Nat → Nat → FlagSet),
        (∀ i j, i < 32 → j < 32 →
          (v 0 i j = if binNan 8 23 (old i j) && !(vec && j != 0) then 0x7FC00000 else old i j) ∧
          imageElem 32 r.out (32 * i + j) = v a.groups i j ∧
          ∀ g, g < a.groups →
            let ca := x.byteAt (x.tileD a.scl) (32 * g + i)
            let cb := x.byteAt (x.tileD b.scl) (32 * g + j)
            let still := run g i j = 0 ∨ ca = 255 ∨ cb = 255 ∨ binValue 8 23 (v g i j) = none
            (still → v (g + 1) i j = v g i j ∧ fl g i j = {}) ∧
            (¬still → ∀ y, binValue 8 23 (v g i j) = some y →
              let z := y + (run g i j : Rat) * twoTo ((ca : Int) + cb - 254)
              (z = 0 → v (g + 1) i j = 0 ∧ fl g i j = {}) ∧
              (z ≠ 0 → (Cut.of (if z < 0 then -z else z)).roundsFp 8 23 .rne (decide (z < 0)) (v (g + 1) i j) (fl g i j)))) ∧
        ∀ k, k < 5 → (r.flags.getLsbD k = true ↔ (p.acc = true ∧ c.afl.getLsbD k = true) ∨
          (k = 2 ∧ ∃ i j, i < 32 ∧ j < 32 ∧ (vec = true → j = 0) ∧ binSnan 8 23 (old i j) = true) ∨
          ∃ g i j, g < a.groups ∧ i < 32 ∧ j < 32 ∧ (fl g i j).afl.getLsbD k = true))) ∧
    (∀ (x : Stall) (m : Msg) h (t : BitVec 6) sq nb, m.i = .pzacc h t sq nb → x.planeCheck m.i = none → let r := x.planeRun m
      r.out = List.replicate (x.dstTile t.toNat).bytes 0 ∧ r.flags = 0 ∧ r.nsq = some 0 ∧ r.costs = [] ∧ r.cycles = 4) ∧
    ∀ (x : Stall) (m : Msg) h (s t : BitVec 6) nb, m.i = .pwmap h s t nb → x.planeCheck m.i = none → let r := x.planeRun m
      let a := x.srcTile s.toNat
      let c := x.dstTile t.toNat
      r.out.length = c.bytes ∧ r.flags = 0 ∧ r.nsq = none ∧ r.costs = [] ∧ r.cycles = 4 + (a.width * a.groups + 15) / 16 ∧
      (∀ g, g < a.groups → ∃ n, imageElem 8 r.out g = n % 256 ∧
        n ≤ a.width ∧ (∀ p e, n ≤ p → p < a.width → e < 1024 → x.planeBit a g p e = false) ∧
          (n ≠ 0 → ∃ e, e < 1024 ∧ x.planeBit a g (n - 1) e = true)) ∧
      ∀ g, a.groups ≤ g → imageElem 8 r.out g = 0)

/-- 1. The vector unit's integer instructions give each element of TC what their rule says of the elements of TA, of TB, whose one row
serves all, and of TC as it stood: class I arithmetic wraps at 32 bits and raises no flag, bitwise instructions and shifts work on 32-bit
patterns, and VCMP gives 1 or 0 (R142, R157, R169, R179).

2. The vector unit's moves, trees over integers and bitmap instructions: VBCAST, VPERM, VSEL and VIOTA choose each element as their row says
(R179); VISECT lists the common positions in ascending order and sets SAT where they do not fit (R181); VPFX counts ones before a word or a
position (R182); VGAT and VSCT move through indices, where the empty index moves nothing and one past the end sets INV (R183, R184); VRED and
VSCAN combine the elements of a row or of the tile by the fixed tree (R176 to R178), and VDOT8 sums the products of a row's bytes (R185).

3. The vector unit's floating-point instructions give each element the value FADD, FSUB, FMUL, FFMA, FDIV, FSQRT, FMIN, FMAX, FTST and FSGN
would, on the exact values of the operands and with one rounding to TC's format (R147 to R149, R158, R169, R170, R179). VRSQ rounds 1/√a, VSCL
a·2^(b - 127) or a·2^(127 - b) (R175). VEXP2 and VLOG2 have the special cases of R170, and the exact ones: a power whose exponent is an integer,
and the logarithm of a power of two. VRED and VSCAN round each node of the fixed tree to FP32 and the root to TC's format (R176 to R178). -/
def Obligations.VectorResults : Prop :=
  (let three := fun (i : VF3 → Instr) (ok : Tile → Prop) (f : BitVec 32 → BitVec 32 → BitVec 32 → BitVec 32) =>
      ∀ (x : Stall) (m : Msg) v, m.i = i v → x.vecCheck m.i = none →
        let a := x.srcTile v.ta.toNat
        let b := x.srcTile v.tb.toNat
        let c := x.dstTile v.tc.toNat
        let el := fun (t : Tile) (e : Nat) => BitVec.ofNat 32 (x.elem t e)
        ok a → (∀ e, e < 256 * c.rows → BitVec.ofNat 32 (x.vecElem m 32 e) = f (el a e) (el b (castIx b c e)) (el c e)) ∧
          (x.vecRun m).flags = if m.i.merges then c.afl else 0
    let two := fun (i : VF2 → Instr) (ok : Tile → Prop) (f : BitVec 32 → BitVec 32) => ∀ (x : Stall) (m : Msg) v, m.i = i v → x.vecCheck m.i = none →
        let a := x.srcTile v.ta.toNat
        ok a → (∀ e, e < 256 * (x.dstTile v.tc.toNat).rows → BitVec.ofNat 32 (x.vecElem m 32 e) = f (BitVec.ofNat 32 (x.elem a e))) ∧ (x.vecRun m).flags = 0
    let I := fun (t : Tile) => t.fmt = 11
    let bit := fun (b : Bool) => if b then (1 : BitVec 32) else 0
    ∀ h,
      three (.vadd h) I (fun a b _ => a + b) ∧ three (.vsub h) I (fun a b _ => a - b) ∧ three (.vmul h) I (fun a b _ => a * b) ∧
      three (.vfma h) I (fun a b c => a * b + c) ∧ three (.vfms h) I (fun a b c => c - a * b) ∧
      three (.vmin h) I (fun a b _ => if b.slt a then b else a) ∧ three (.vmax h) I (fun a b _ => if a.slt b then b else a) ∧
      three (.vdiv h) I (fun a b _ => if b = 0 then BitVec.allOnes 32 else a.sdiv b) ∧
      two (.vabs h) I (fun a => if a.slt 0 then -a else a) ∧ two (.vneg h) I (fun a => -a) ∧
      three (.vand h) (fun _ => True) (fun a b _ => a &&& b) ∧ three (.vor h) (fun _ => True) (fun a b _ => a ||| b) ∧
      three (.vxor h) (fun _ => True) (fun a b _ => a ^^^ b) ∧
      (∀ n, two (.vshl h · (.imm n)) (fun _ => True) fun a => a <<< n.toNat) ∧ (∀ n, two (.vshr h · (.imm n) false) (fun _ => True) fun a => a >>> n.toNat) ∧
      (∀ n, two (.vshr h · (.imm n) true) (fun _ => True) fun a => a.sshiftRight n.toNat) ∧
      three (fun v => .vshl h ⟨v.ta, v.tc, v.nb⟩ (.tile v.tb)) (fun _ => True) (fun a b _ => a <<< (b.toNat % 32)) ∧
      three (fun v => .vshr h ⟨v.ta, v.tc, v.nb⟩ (.tile v.tb) false) (fun _ => True) (fun a b _ => a >>> (b.toNat % 32)) ∧
      three (fun v => .vshr h ⟨v.ta, v.tc, v.nb⟩ (.tile v.tb) true) (fun _ => True) (fun a b _ => a.sshiftRight (b.toNat % 32)) ∧
      two (.vpopc h) (fun _ => True) (fun a => BitVec.ofNat 32 ((List.range 32).filter fun k => a.getLsbD k).length) ∧
      three (.vcmp h · .eq) I (fun a b _ => bit (a == b)) ∧ three (.vcmp h · .ne) I (fun a b _ => bit (a != b)) ∧
      three (.vcmp h · .lt) I (fun a b _ => bit (a.slt b)) ∧ three (.vcmp h · .le) I (fun a b _ => bit (a.sle b)) ∧
      three (.vcmp h · .ltu) I (fun a b _ => bit (a.ult b)) ∧ three (.vcmp h · .leu) I (fun a b _ => bit (a.ule b))) ∧
  (∀ (x : Stall) (m : Msg), x.vecCheck m.i = none →
      let S := fun (n : BitVec 6) => x.srcTile n.toNat
      let D := fun (n : BitVec 6) => x.dstTile n.toNat
      let bits := fun (t : Tile) => elemBits t.fmt
      let flags := (x.vecRun m).flags
      let ones := fun (w : Nat) => ((List.range 32).filter fun k => w.testBit k).length
      let none_ := 0xFFFFFFFF
      (∀ h tc nb, m.i = .vbcast h none tc nb → flags = 0 ∧ ∀ e, e < 256 * (D tc).rows → x.vecElem m (bits (D tc)) e = m.l.toNat % 2 ^ bits (D tc)) ∧
      (∀ h s tc nb, m.i = .vbcast h (some s) tc nb → flags = 0 ∧ ∀ e, e < 256 * (D tc).rows → x.vecElem m (bits (D tc)) e = x.elem (S s) (e % 256)) ∧
      (∀ h v, m.i = .vperm h v → flags = 0 ∧ ∀ e, e < 256 * (D v.tc).rows →
        x.vecElem m (bits (D v.tc)) e = x.elem (S v.ta) (e / 256 * 256 + x.elem (S v.tb) (castIx (S v.tb) (D v.tc) e) % 256)) ∧
      (∀ h v, m.i = .vsel h v → flags = (D v.tc).afl ∧ ∀ e, e < 256 * (D v.tc).rows →
        x.vecElem m (bits (D v.tc)) e = x.elem (if (x.elem (S v.tb) (castIx (S v.tb) (D v.tc) e)).testBit 0 then S v.ta else D v.tc) e) ∧
      (∀ h tc nb, m.i = .viota h tc nb → flags = 0 ∧ ∀ e, e < 256 * (D tc).rows → x.vecElem m 32 e = e) ∧
      (∀ h v, m.i = .visect h v →
        let both := (List.range (8192 * (S v.ta).rows)).filter fun p => (x.elem (S v.ta) (p / 32)).testBit (p % 32) && (x.elem (S v.tb) (p / 32)).testBit (p % 32)
        flags = (if 256 * (D v.tc).rows < both.length then 8 else 0) ∧ ∀ e, e < 256 * (D v.tc).rows → x.vecElem m 32 e = both.getD e none_) ∧
      (∀ h v, m.i = .vpfx h v none → flags = 0 ∧ ∀ e, e < 256 * (D v.tc).rows →
        x.vecElem m 32 e = ((List.range e).map fun k => ones (x.elem (S v.ta) k)).sum % 2 ^ 32) ∧
      (∀ h v t, m.i = .vpfx h v (some t) →
        let past := fun (p : Nat) => p ≠ none_ ∧ 8192 * (S v.ta).rows ≤ p
        (flags = 0 ∨ flags = 4) ∧ (flags = 4 ↔ ∃ e, e < 256 * (D v.tc).rows ∧ past (x.elem (S t) e)) ∧
        ∀ e, e < 256 * (D v.tc).rows → let p := x.elem (S t) e
          (p = none_ ∨ past p → x.vecElem m 32 e = none_) ∧
          (p < 8192 * (S v.ta).rows → x.vecElem m 32 e = ((List.range p).filter fun q => (x.elem (S v.ta) (q / 32)).testBit (q % 32)).length)) ∧
      (∀ h v, m.i = .vgat h v false →
        let past := fun (p : Nat) => p ≠ none_ ∧ 256 * (S v.ta).rows ≤ p
        (flags = 0 ∨ flags = 4) ∧ (flags = 4 ↔ ∃ e, e < 256 * (D v.tc).rows ∧ past (x.elem (S v.tb) e)) ∧
        ∀ e, e < 256 * (D v.tc).rows → let p := x.elem (S v.tb) e
          (p = none_ ∨ past p → x.vecElem m (bits (D v.tc)) e = 0) ∧ (p < 256 * (S v.ta).rows → x.vecElem m (bits (D v.tc)) e = x.elem (S v.ta) p)) ∧
      (∀ h v, m.i = .vgat h v true →
        let past := fun (p : Nat) => p ≠ none_ ∧ 1024 * (S v.ta).rows ≤ p
        (flags = 0 ∨ flags = 4) ∧ (flags = 4 ↔ ∃ e, e < 1024 * (D v.tc).rows ∧ past (x.elem (S v.tb) e)) ∧
        ∀ e, e < 1024 * (D v.tc).rows → let p := x.elem (S v.tb) e
          (p = none_ ∨ past p → x.vecElem m 8 e = 0) ∧ (p < 1024 * (S v.ta).rows → x.vecElem m 8 e = x.byteAt (S v.ta) p)) ∧
      (∀ h v, m.i = .vsct h v →
        let n := 256 * (D v.tc).rows
        (∀ k, k < 5 → (flags.getLsbD k = true ↔ (D v.tc).afl.getLsbD k = true ∨
          (k = 2 ∧ ∃ i, i < 256 * (S v.ta).rows ∧ x.elem (S v.tb) i ≠ none_ ∧ n ≤ x.elem (S v.tb) i))) ∧
        ∀ e, e < n →
          (∀ i, i < 256 * (S v.ta).rows → x.elem (S v.tb) i = e → (∀ j, i < j → j < 256 * (S v.ta).rows → x.elem (S v.tb) j ≠ e) →
            x.vecElem m (bits (D v.tc)) e = x.elem (S v.ta) i) ∧
          ((∀ i, i < 256 * (S v.ta).rows → x.elem (S v.tb) i ≠ e) → x.vecElem m (bits (D v.tc)) e = x.elem (D v.tc) e)) ∧
      (let f := fun (op : RedOp) (a b : BitVec 32) =>
          if op = .add then a + b else if op = .max then (if a.slt b then b else a) else if b.slt a then b else a;
        (∀ h v op all, m.i = .vred h v op all → (D v.tc).fmt = 11 →
          let n := if all then 256 * (S v.ta).rows else 256
          let el := fun (e : Nat) => BitVec.ofNat 32 (x.elem (S v.ta) e)
          flags = 0 ∧ ∀ e, e < 256 * (D v.tc).rows →
            (e < (if all then 1 else (S v.ta).rows) → some (BitVec.ofNat 32 (x.vecElem m 32 e)) = treeOf (f op) (fun k => el (256 * e + k)) n n 0) ∧
            ((if all then 1 else (S v.ta).rows) ≤ e → x.vecElem m 32 e = 0)) ∧
        ∀ h v op all, m.i = .vscan h v op all → (D v.tc).fmt = 11 →
          let el := fun (e : Nat) => BitVec.ofNat 32 (x.elem (S v.ta) e)
          flags = 0 ∧ ∀ e, e < 256 * (D v.tc).rows → some (BitVec.ofNat 32 (x.vecElem m 32 e)) =
            if all then scanOf (f op) el (256 * (S v.ta).rows) e else scanOf (f op) (fun k => el (256 * (e / 256) + k)) 256 (e % 256)) ∧
      ∀ h v, m.i = .vdot8 h v → flags = 0 ∧ ∀ e, e < 256 * (D v.tc).rows → BitVec.ofNat 32 (x.vecElem m 32 e) =
        if e < (S v.ta).rows then
          BitVec.ofInt 32 ((List.range 1024).map fun k => (BitVec.ofNat 8 (x.byteAt (S v.ta) (1024 * e + k))).toInt *
            (BitVec.ofNat 8 (x.byteAt (S v.tb) (1024 * e + k))).toInt).sum
        else 0) ∧
  (∀ (x : Stall) (m : Msg), x.vecCheck m.i = none →
      let S := fun (n : BitVec 6) => x.srcTile n.toNat
      let D := fun (n : BitVec 6) => x.dstTile n.toNat
      let rm := Rm.ofCode m.rm
      let F := [4, 5, 6, 7, 8, 9, 13]
      let gives := fun (c : Tile) => x.VecGives m (elemBits c.fmt) (256 * c.rows)
      -- an element of a tile stands for the value of an FP32 pattern
      let has := fun (t : Tile) (e w : Nat) => SameFp t.fmt (x.elem t e) w ∧ w < 2 ^ 32
      let three := fun (i : VF3 → Instr) (rule : Nat → Nat → Nat → Nat → Nat → FlagSet → Prop) => ∀ v, m.i = i v → (D v.tc).fmt ≠ 11 →
        gives (D v.tc) (if m.i.merges then (D v.tc).afl else 0) fun e r fl => ∃ a b c, has (S v.ta) e a ∧ has (S v.tb) (castIx (S v.tb) (D v.tc) e) b ∧
          has (D v.tc) e c ∧ rule (D v.tc).fmt a b c r fl
      let two := fun (i : VF2 → Instr) (rule : Nat → Nat → Nat → FlagSet → Prop) => ∀ v, m.i = i v → (D v.tc).fmt ≠ 11 →
        gives (D v.tc) 0 fun e r fl => ∃ a, has (S v.ta) e a ∧ rule (D v.tc).fmt a r fl
      let extreme := fun (mx : Bool) (f a b r : Nat) (fl : FlagSet) =>
        ∃ fr, Becomes f rm (pickFp mx a b) r fr ∧ fl = { fr with nv := binSnan 8 23 a || binSnan 8 23 b }
      let number := fun (f a r : Nat) (fl : FlagSet) (rule : Rat → Prop) =>
        (binNan 8 23 a = true → r = canonicalNan f ∧ fl = { nv := binSnan 8 23 a }) ∧ ∀ y, binValue 8 23 a = some y → rule y
      let is := fun (f w r : Nat) (fl fw : FlagSet) => SameFp f r w ∧ fl = fw
      ∀ h,
        three (.vadd h) (fun f a b _ r fl => FpOp.add.elem f rm a b 0 r fl) ∧ three (.vsub h) (fun f a b _ r fl => FpOp.sub.elem f rm a b 0 r fl) ∧
        three (.vmul h) (fun f a b _ r fl => FpOp.mul.elem f rm a b 0 r fl) ∧ three (.vfma h) (fun f a b c r fl => FpOp.fma.elem f rm a b c r fl) ∧
        three (.vfms h) (fun f a b c r fl => FpOp.fma.elem f rm (a ^^^ 2 ^ 31) b c r fl) ∧
        three (.vdiv h) (fun f a b _ r fl => FpOp.div.elem f rm a b 0 r fl) ∧
        three (.vmin h) (fun f a b _ r fl => extreme false f a b r fl) ∧ three (.vmax h) (fun f a b _ r fl => extreme true f a b r fl) ∧
        two (.vabs h) (fun f a r fl => Becomes f rm (a % 2 ^ 31) r fl) ∧ two (.vneg h) (fun f a r fl => Becomes f rm (a ^^^ 2 ^ 31) r fl) ∧
        two (.vrcp h) (fun f a r fl => FpOp.div.elem f rm 0x3F800000 a 0 r fl) ∧ two (.vsqrt h) (fun f a r fl => FpOp.sqrt.elem f rm a 0 0 r fl) ∧
        two (.vrsq h) (fun f a r fl => number f a r fl (fun y =>
            (y = 0 → is f (a % 2 ^ 32 / 2 ^ 31 * 2 ^ 31 + 0x7F800000) r fl { dz := true }) ∧ (y < 0 → r = canonicalNan f ∧ fl = { nv := true }) ∧
            (0 < y → (Cut.rsqrt y).roundsFp (fieldsOf f).1 (fieldsOf f).2 rm false r fl)) ∧
          (a = 0x7F800000 → is f 0 r fl {}) ∧ (a = 0xFF800000 → r = canonicalNan f ∧ fl = { nv := true })) ∧
        two (.vexp2 h) (fun f a r fl => number f a r fl (fun y => ∀ k : Int, y = k → RoundsTo f rm (twoTo k) r fl) ∧
          (a = 0x7F800000 → is f a r fl {}) ∧ (a = 0xFF800000 → is f 0 r fl {})) ∧
        two (.vlog2 h) (fun f a r fl => number f a r fl (fun y =>
            (y = 0 → is f 0xFF800000 r fl { dz := true }) ∧ (y < 0 → r = canonicalNan f ∧ fl = { nv := true }) ∧
            ∀ k : Int, y = twoTo k → RoundsTo f rm k r fl) ∧
          (a = 0x7F800000 → is f a r fl {}) ∧ (a = 0xFF800000 → r = canonicalNan f ∧ fl = { nv := true })) ∧
        (∀ v dv, m.i = .vscl h v dv → gives (D v.tc) 0 fun e r fl => ∃ a, has (S v.ta) e a ∧
          let b := x.byteAt (S v.tb) (e / 32)
          number (D v.tc).fmt a r fl (fun y => if b = 255 then r = 0 ∧ fl = {} else
            (y = 0 → is (D v.tc).fmt a r fl {}) ∧ (y ≠ 0 → RoundsTo (D v.tc).fmt rm (y * twoTo (if dv then 127 - (b : Int) else (b : Int) - 127)) r fl)) ∧
          (binInf 8 23 a = true → if b = 255 then r = 0 ∧ fl = {} else is (D v.tc).fmt a r fl {})) ∧
        (∀ v cc, m.i = .vcmp h v cc → (S v.ta).fmt ∈ F → gives (D v.tc) 0 fun e r fl => ∃ a b, has (S v.ta) e a ∧
          has (S v.tb) (castIx (S v.tb) (D v.tc) e) b ∧
          let nan := binNan 8 23 a || binNan 8 23 b
          let holds := match cc with
            | .eq => nan = false ∧ fpOrder a = fpOrder b
            | .ne => nan = true ∨ fpOrder a ≠ fpOrder b
            | .lt => nan = false ∧ fpOrder a < fpOrder b
            | .le => nan = false ∧ fpOrder a ≤ fpOrder b
            | .un => nan = true
            | .ltu | .leu => False
          (holds → r = 1) ∧ (¬holds → r = 0) ∧
            fl = { nv := if cc = .lt ∨ cc = .le then nan else binSnan 8 23 a || binSnan 8 23 b }) ∧
        ∃ g : RedOp → Nat → Nat → Nat × FlagSet,
          (∀ a b, a < 2 ^ 32 → b < 2 ^ 32 → (g .add a b).1 < 2 ^ 32 ∧ FpOp.add.elem 4 rm a b 0 (g .add a b).1 (g .add a b).2 ∧
            g .max a b = (pickFp true a b, { nv := binSnan 8 23 a || binSnan 8 23 b }) ∧
            g .min a b = (pickFp false a b, { nv := binSnan 8 23 a || binSnan 8 23 b })) ∧
          let node := fun (op : RedOp) (a b : Nat × FlagSet) => ((g op a.1 b.1).1, (a.2.join b.2).join (g op a.1 b.1).2)
          -- the leaves: exact FP32 values, a NaN canonical
          let leaves := fun (t : Tile) (w : Nat → Nat × FlagSet) => ∀ e, ∃ a, has t e a ∧
            w e = (if binNan 8 23 a then 0x7FC00000 else a, { nv := binSnan 8 23 a })
          let root := fun (c : Tile) (v : Option (Nat × FlagSet)) (r : Nat) (fl : FlagSet) =>
            ∃ p fr, v = some p ∧ Becomes c.fmt rm p.1 r fr ∧ fl = p.2.join fr
          (∀ v op all, m.i = .vred h v op all → (D v.tc).fmt ≠ 11 → ∃ w, leaves (S v.ta) w ∧ gives (D v.tc) 0 fun e r fl =>
            if e < (if all then 1 else (S v.ta).rows) then
              let n := if all then 256 * (S v.ta).rows else 256
              root (D v.tc) (treeOf (node op) (fun k => w (256 * e + k)) n n 0) r fl
            else r = 0 ∧ fl = {}) ∧
          ∀ v op all, m.i = .vscan h v op all → (D v.tc).fmt ≠ 11 → ∃ w, leaves (S v.ta) w ∧ gives (D v.tc) 0 fun e r fl =>
            root (D v.tc) (if all then scanOf (node op) w (256 * (S v.ta).rows) e else scanOf (node op) (fun k => w (256 * (e / 256) + k)) 256 (e % 256)) r fl)

/-- VCVT, VQNT and VDQNT convert as R171, R173 and R174 say: between floating-point formats and integers with one rounding; to planar integers
by rounding to even and saturating, for BSI on the code that bsi_quantise gives each row of 32 (R95); from planar values exactly, or rounded to
even. VQNT also writes the codes and, with .wm, the effective width of each group (R92). That it writes 0 past the codes of the groups is
the model's choice (log 104). -/
def Obligations.VectorConversions : Prop :=
  ∀ (x : Stall) (m : Msg), x.vecCheck m.i = none →
    let S := fun (n : BitVec 6) => x.srcTile n.toNat
    let D := fun (n : BitVec 6) => x.dstTile n.toNat
    let rm := Rm.ofCode m.rm
    let F := [4, 5, 6, 7, 8, 9, 13]
    let gives := fun (c : Tile) => x.VecGives m (elemBits c.fmt) (256 * c.rows) 0
    let lo : Int := -(2 ^ 31 : Nat)
    let hi : Int := (2 ^ 31 : Nat) - 1
    let signed := fun (t : Tile) (e : Nat) => if t.fmt = 11 then (BitVec.ofNat 32 (x.elem t e)).toInt else (BitVec.ofNat 64 (x.elem t e)).toInt
    (∀ h v, m.i = .vcvt h v →
      ((S v.ta).fmt ∈ F → (D v.tc).fmt ≠ 11 → gives (D v.tc) fun e r fl => ∃ a, SameFp (S v.ta).fmt (x.elem (S v.ta) e) a ∧ a < 2 ^ 32 ∧ Becomes (D v.tc).fmt rm a r fl) ∧
      ((S v.ta).fmt ∈ F → (D v.tc).fmt = 11 → gives (D v.tc) fun e r fl => ∃ a i, SameFp (S v.ta).fmt (x.elem (S v.ta) e) a ∧
        BitVec.ofNat 32 r = BitVec.ofInt 32 i ∧ (binNan 8 23 a = true → i = 0 ∧ fl = { nv := true }) ∧
        (binInf 8 23 a = true → i = (if signOf 8 23 a then lo else hi) ∧ fl = { nv := true }) ∧
        ∀ y, binValue 8 23 a = some y → ∃ n : Nat, (Cut.of (if y < 0 then -y else y)).roundsTo rm (signOf 8 23 a) n ∧
          let z : Int := if signOf 8 23 a then -(n : Int) else n
          if hi < z then i = hi ∧ fl = { nv := true } else if z < lo then i = lo ∧ fl = { nv := true }
          else i = z ∧ fl = { nx := decide ((z : Rat) ≠ y) }) ∧
      ((S v.ta).fmt ∈ [11, 12] → (D v.tc).fmt ∈ F → gives (D v.tc) fun e r fl => RoundsTo (D v.tc).fmt rm (signed (S v.ta) e) r fl) ∧
      ((S v.ta).fmt = 11 → (D v.tc).fmt = 12 → gives (D v.tc) fun e r fl => BitVec.ofNat 64 r = BitVec.ofInt 64 (signed (S v.ta) e) ∧ fl = {}) ∧
      ((S v.ta).fmt = 12 → (D v.tc).fmt = 11 → gives (D v.tc) fun e r fl => let i := signed (S v.ta) e
        BitVec.ofNat 32 r = BitVec.ofInt 32 (max lo (min hi i)) ∧ fl = { sat := decide (i < lo) || decide (hi < i) })) ∧
    (∀ h v, m.i = .vdqnt h v → let a := S v.ta
      let q := fun (e : Nat) => x.opv a (e / 1024) (e % 1024) a.width
      ((D v.tc).fmt = 11 → gives (D v.tc) fun e r fl => BitVec.ofNat 32 r = BitVec.ofInt 32 (q e) ∧ fl = {}) ∧
      ((D v.tc).fmt ≠ 11 → a.fmt ≠ 3 → gives (D v.tc) fun e r fl => RoundsTo (D v.tc).fmt .rne (q e) r fl) ∧
      ((D v.tc).fmt ≠ 11 → a.fmt = 3 → gives (D v.tc) fun e r fl => let code := x.byteAt (x.tileD a.scl) (e / 32)
        RoundsTo (D v.tc).fmt .rne (if code = 255 then 0 else (q e : Rat) * twoTo ((code : Int) - 127)) r fl)) ∧
    ∀ h v wm, m.i = .vqnt h v wm →
      let a := S v.ta
      let c := D v.tc
      let w := c.width
      let r := x.vecRun m
      let out := fun (k : Nat) => (r.outs.getD k (0, [])).2
      let el := fun (e : Nat) => x.elem a e
      let float := a.fmt ≠ 11 ∧ a.fmt ≠ 12
      let nan := fun (e : Nat) => float ∧ elemNan a.fmt (el e) = true
      let inf := fun (e : Nat) => float ∧ elemInf a.fmt (el e) = true
      let neg := fun (e : Nat) => signOf (fieldsOf a.fmt).1 (fieldsOf a.fmt).2 (el e)
      let lo : Int := if c.fmt = 0 then 0 else -(2 ^ (w - 1) : Nat)
      let hi : Int := if c.fmt = 0 then (2 ^ w : Nat) - 1 else (2 ^ (w - 1) : Nat) - 1
      r.outs.map (·.1) = (v.tc.toNat :: (if c.fmt = 3 then [v.tb.toNat] else []) ++ (if wm then [c.wml] else [])).map x.dstSlot ∧
      (out 0).length = c.bytes ∧
      ∃ (q : Nat → Int) (fl : Nat → FlagSet) (code : Nat → Nat) (low : Nat → Bool),
        -- the planes of TC hold the integers
        (∀ e p, e < 1024 * c.groups → p < w →
          (imageElem 8 (out 0) (128 * (w * (e / 1024) + p) + e % 1024 / 8)).testBit (e % 8) = (q e / (2 : Int) ^ p % 2 == 1)) ∧
        (∀ k, k < 5 → (r.flags.getLsbD k = true ↔ (∃ e, e < 1024 * c.groups ∧ ((fl e).afl.getLsbD k = true ∨ (k = 2 ∧ nan e))) ∨
          (k = 0 ∧ ∃ n, n < 32 * c.groups ∧ low n = true))) ∧
        (∀ e, e < 1024 * c.groups → nan e → q e = 0 ∧ fl e = {}) ∧
        (c.fmt ≠ 3 → (∀ n, low n = false) ∧ ∀ e, e < 1024 * c.groups →
          (inf e → q e = (if neg e then lo else hi) ∧ fl e = { sat := true }) ∧ ∀ y, elemReal a.fmt (el e) = some y → Saturates lo hi y (q e) (fl e)) ∧
        (c.fmt = 3 → (out 1).length = (x.tileD v.tb.toNat).bytes ∧ (∀ n, 32 * c.groups ≤ n → imageElem 8 (out 1) n = 0) ∧
          ∀ n, n < 32 * c.groups → imageElem 8 (out 1) n = code n ∧
            let row := fun (e : Nat) => e / 32 = n
            let mag := fun (e : Nat) => let y := (elemReal a.fmt (el e)).getD 0; if y < 0 then -y else y
            let top : Rat := (hi : Rat) + 1 / 2
            let still := ∀ e, row e → ¬inf e ∧ mag e = 0
            (still → code n = 255 ∧ low n = false ∧ ∀ e, row e → q e = 0 ∧ fl e = {}) ∧
            (¬still →
              ((∃ e, row e ∧ inf e) → code n = 254 ∧ low n = false) ∧
              ((∀ e, row e → ¬inf e) → ∃ k : Int, (∀ e, row e → mag e < top * twoTo (k - 127)) ∧ (∃ e, row e ∧ top * twoTo (k - 128) ≤ mag e) ∧
                (code n : Int) = max 0 (min 254 k) ∧ low n = decide (k < 0)) ∧
              ∀ e, row e →
                (inf e → q e = (if neg e then lo else hi) ∧ fl e = { sat := true }) ∧
                ∀ y, elemReal a.fmt (el e) = some y → Saturates lo hi (y * twoTo (127 - (code n : Int))) (q e) (fl e))) ∧
        (wm = true → let map := out (if c.fmt = 3 then 2 else 1)
          map.length = (x.tileD c.wml).bytes ∧ (∀ g, c.groups ≤ g → imageElem 8 map g = 0) ∧
          ∀ g, g < c.groups → ∃ n, imageElem 8 map g = n % 256 ∧ n ≤ w ∧ (∀ e p, e / 1024 = g → n ≤ p → p < w → q e / (2 : Int) ^ p % 2 = 0) ∧
              (n ≠ 0 → ∃ e, e / 1024 = g ∧ q e / (2 : Int) ^ (n - 1) % 2 = 1))

/-- 1. A subtree's nodes are FADD, FMUL and FMAX of its format, each rounded to it with ties to even; MAX of one NaN and another operand gives the
other, PASS a canonical NaN, and a signalling NaN raises INV. SP32 rounds sums and products by sp32_round, and MAX and PASS keep the operand
(R101, R102, R189, R191). That MAX gives the other operand for a signalling NaN too, and that PASS and MAX keep the bits of an SP32 zero, is the
model's choice (log 59).

2. SPT writes its root, or adds it into OUT; SPD adds to the adjoint entry of each leaf it read what the adjoints on the way down give it,
one contribution after the other in leaf order, all reads before any write (R190 to R193); a node or leaf that MAX did not choose receives none
(log 110). SPLD, SPST and SPZ move raw bits (R197, R198). A subtree costs as many cycles as its most used bank has leaves, a move one for each 16
entries, and is complete 7 cycles after the last (R202). -/
def Obligations.SpeResults : Prop :=
  ((∀ fmt a b, fmt < 2 → let f := 4 + fmt
      let bits := if fmt = 1 then 16 else 32
      a < 2 ^ bits → b < 2 ^ bits →
        let wa := widened fmt a
        let wb := widened fmt b
        let canonical := canonicalNan f
        let op := fun (k : Nat) => speNode fmt k a b
        (op 0).1 < 2 ^ bits ∧ FpOp.add.elem f .rne wa wb 0 (op 0).1 (op 0).2 ∧ (op 1).1 < 2 ^ bits ∧ FpOp.mul.elem f .rne wa wb 0 (op 1).1 (op 1).2 ∧
        op 2 = (if binNan 8 23 wa && binNan 8 23 wb then canonical else if takesRight fmt a b then b else if binNan 8 23 wa then b else a,
          { nv := binSnan 8 23 wa || binSnan 8 23 wb }) ∧
        op 3 = (if binNan 8 23 wa then canonical else a, { nv := binSnan 8 23 wa })) ∧
    ∀ a b, a < 2 ^ 32 → b < 2 ^ 32 →
      Sp32Rounds (sp32Num a + sp32Num b) (speNode 2 0 a b).1 (speNode 2 0 a b).2 ∧
      Sp32Rounds (sp32Num a * sp32Num b) (speNode 2 1 a b).1 (speNode 2 1 a b).2 ∧
      speNode 2 2 a b = (if sp32Num a < sp32Num b then b else a, {}) ∧ speNode 2 3 a b = (a, {})) ∧
  (∀ (x : Stall) (m : Msg) second,
      let r := x.speRun m second
      let fmt := (m.spc.extractLsb' 16 2).toNat
      let adj := fun (i : Nat) => (i + (m.spc.extractLsb' 0 11).toNat) % 2048
      let entry := fun (i : Nat) => (spGet 0 x.scratch (i % 2048)).toNat
      let value := fun (i : Nat) => if fmt = 1 then entry i % 2 ^ 16 else entry i
      let base := (m.l.extractLsb' 0 11).toNat
      let count := (m.l.extractLsb' 16 12).toNat
      let at_ := fun (i : Nat) => (base + i) % 2048
      let move := r.flags = 0 ∧ r.cost = max 1 ((count + 15) / 16)
      r.done = x.cyc + r.cost + 7 ∧
      (∀ t one, m.i = .spt t one ∨ m.i = .spd t one →
        let leaf := fun (j : Nat) => t.leaves.getD j 0
        let used := fun (e : Nat) => ∃ j, j < 8 ∧ leafTaken t j ∧ leaf j = e
        -- the most leaves in one bank
        (∀ es : List Nat, es.Nodup → (∀ e ∈ es, used e) → (∃ k, ∀ e ∈ es, e % 16 = k) → es.length ≤ r.cost) ∧
        (r.cost = 1 ∨ ∃ es : List Nat, es.Nodup ∧ (∀ e ∈ es, used e) ∧ (∃ k, ∀ e ∈ es, e % 16 = k) ∧ es.length = r.cost) ∧
        r.tile = none ∧ r.bytes = [] ∧
        ∃ val : Nat → Nat, NodesHave fmt t (fun j => value (leaf j)) val ∧
          let kids := fun (k : Nat) => if k < 3 then (val (2 * k + 1), val (2 * k + 2)) else (value (leaf (2 * (k - 3))), value (leaf (2 * (k - 3) + 1)))
          let up := fun (b : Nat) => ∃ k, k < 7 ∧ nodeReached t k ∧ (speNode fmt (t.op k) (kids k).1 (kids k).2).2.spf.getLsbD b = true
          (m.i = .spt t one → let sum := speNode fmt 0 (value t.out.toNat) (val 0)
            r.writes = [(t.out.toNat, BitVec.ofNat 32 (if one then sum.1 else val 0))] ∧
            ∀ b, b < 4 → (r.flags.getLsbD b = true ↔ up b ∨ (one = true ∧ sum.2.spf.getLsbD b = true))) ∧
          (m.i = .spd t one → ∃ (d c : Nat → Option Nat),
            d 0 = some (if one then (if fmt = 0 then 0x3F800000 else if fmt = 1 then 0x3F80 else 0) else value (adj t.out.toNat)) ∧
            (∀ k, k < 7 → let g := adjoints fmt (t.op k) (kids k).1 (kids k).2 (d k)
              if k < 3 then d (2 * k + 1) = g.1 ∧ d (2 * k + 2) = g.2 else c (2 * (k - 3)) = g.1 ∧ c (2 * (k - 3) + 1) = g.2) ∧
            let given := fun (a : Nat) => (List.range 8).filterMap fun j => if adj (leaf j) = a then c j else none
            let add := fun (v e : Nat) => (speNode fmt 0 v e).1
            (r.writes.map (·.1)).Nodup ∧ (∀ a, a ∈ r.writes.map (·.1) ↔ given a ≠ []) ∧
            (∀ w ∈ r.writes, w.2 = BitVec.ofNat 32 ((given w.1).foldl add (value w.1))) ∧
            ∀ b, b < 4 → (r.flags.getLsbD b = true ↔ up b ∨
              (∃ k v, k < 7 ∧ d k = some v ∧ t.op k = 1 ∧
                ((speNode fmt 1 v (kids k).2).2.spf.getLsbD b = true ∨ (speNode fmt 1 v (kids k).1).2.spf.getLsbD b = true)) ∨
              ∃ a n e, (given a)[n]? = some e ∧ (speNode fmt 0 (((given a).take n).foldl add (value a)) e).2.spf.getLsbD b = true)) ) ∧
      (∀ h t nb, m.i = .spld h t nb → move ∧ r.tile = some (x.srcSlot t.toNat) ∧ r.bytes = [] ∧
        r.writes = (List.range count).map fun i => (at_ i, BitVec.ofNat 32 (x.elem (x.srcTile t.toNat) i))) ∧
      (∀ h t nb, m.i = .spst h t nb → x.speCheck m.i m.l = none → move ∧ r.tile = some t.toNat ∧ r.writes = [] ∧
        let c := x.tileD t.toNat
        r.bytes.length = c.bytes ∧ ∀ e, e < 256 * c.rows → imageElem (elemBits c.fmt) r.bytes e = if e < count then entry (at_ e) % 2 ^ elemBits c.fmt else 0) ∧
      ∀ h sp, m.i = .spz h sp → move ∧ r.tile = none ∧ r.bytes = [] ∧
        r.writes = (List.range count).map fun i => (at_ i, if sp then 0xFF800000 else 0))

/-- 1. The plane array starts its oldest message that can start (R119): its folds are taken, its tiles are taken and their pages pinned
(R455), and it runs with the result
and the cycle count of its tiles as they stand; a message whose checks now fail is dropped with a report (R128).

2. A chunk of a plane-array message ends: with matching residues the next follows, with a failed one it runs again and its cycles count
again, and after the third failure the message stops and ARITH_RETRY_FAIL is reported (R124, R125). The message completes when its
last chunk has ended and its cycles have passed: its tile is READY with the result, the flags and the sequence number (R118, R120, R128). -/
def Obligations.PlaneEngine : Prop :=
  (∀ (s : State) st x m, s.stall? st = some x → s.stallRuns st = true → x.pa = none → x.paNext ≤ x.cyc → s.planePick x = some m →
      s.traceHolds m.org 3 = false →
      (x.planeCheck m.i = none → ∃ u, exec (.paMessageStart st) s = .next (u.engBirty m 3 0 0) ∧
        u = { s with stalls := u.stalls, frames := u.frames } ∧ FoldsTaken s u m ∧
        StallBecomes s u st { (((x.planeTiles m.i).foldl (·.pin ·) x).take m.i.srcTiles.eraseDups m.i.dstTiles) with
          inPa := x.inPa.erase m, pa := some (x.planeRun m) }) ∧
      (∀ k, x.planeCheck m.i = some k → exec (.paMessageStart st) s =
        .next (({ s with stalls := s.stalls.map fun (e : Nat × Stall) => if e.1 = st then (e.1, { e.2 with inPa := e.2.inPa.erase m }) else e }).dropMsg m k 1))) ∧
  (∀ (s : State) st x (r : PaRun), s.stall? st = some x → s.stallRuns st = true → x.pa = some r →
      (r.chunk < r.costs.length → r.chunkEnd ≤ x.cyc + 1 →
        (r.abandoned = true → ∀ ok, exec (.paChunkEnd st ok) s = .next (s.paAbandon st r (r.chunk + 1))) ∧
        (r.abandoned = false →
          (∃ t, exec (.paChunkEnd st true) s = .next t ∧ t = { s with stalls := t.stalls } ∧
            StallBecomes s t st { x with pa := some { r with chunk := r.chunk + 1, retried := 0 } }) ∧
          (r.retried < 2 → ∃ t, exec (.paChunkEnd st false) s = .next t ∧ t = { s with stalls := t.stalls } ∧
            StallBecomes s t st { x with pa := some { r with
              retried := r.retried + 1, redone := r.redone + r.costs.getD r.chunk 0, span := r.span + r.costs.getD r.chunk 0 } }) ∧
          (2 ≤ r.retried → exec (.paChunkEnd st false) s = .next ((s.paAbandon st r (r.chunk + 1)).arithFail r.m 1)))) ∧
      (r.costs.length ≤ r.chunk → r.start + r.span ≤ x.cyc + 1 → x.pagesIn (x.tileD r.tc) = true → s.traceHolds r.m.org 4 = false →
        r.abandoned = false →
        ∃ u, exec (.paMessageComplete st) s =
            .next ((u.count st 4 (if r.costs = [] then 0 else 4 + r.costs.sum + r.redone)).engBirty r.m 4 0 (r.spent + (x.cyc + 1 - r.start))) ∧
          u = { s with stalls := u.stalls } ∧
          StallBecomes s u st { (((x.putTile (x.tileD r.tc) 0 r.out).withTile r.tc fun t =>
            { t with st := .ready, afl := r.flags, rch := 0, nsq := r.nsq.getD t.nsq, origin := r.m.arrival }).release r.srcs) with
              pa := none, paNext := x.cyc + 1 }))

/-- 1. The vector unit's messages start, end their rows and complete in the same way: each destination is READY with its content, TC with the
message's flags and a side destination with none (R158 to R161, R164 to R166).

2. The sum-product engine issues its oldest message once it is free or may pair it, nothing the message depends on is outstanding, and its
tile is ready; an issued message ends when its cycles have passed: its scratch entries and its tile hold its results and its flags join
the frame's; a failed residue check of a subtree runs it again, twice at most, and a move has none (R201 to R203, R207). -/
def Obligations.VectorAndSpeEngines : Prop :=
  (∀ (s : State) st x, s.stall? st = some x → s.stallRuns st = true →
      (∀ m, x.vec = none → x.vecNext ≤ x.cyc → s.vecPick x = some m → s.traceHolds m.org 3 = false →
        (x.vecCheck m.i = none → ∃ u, exec (.vecMessageStart st) s = .next (u.engBirty m 3 1 0) ∧
          u = { s with stalls := u.stalls, frames := u.frames } ∧ FoldsTaken s u m ∧
          StallBecomes s u st { ((((x.vecLinks m.i).map (·.1)).foldl (·.pin ·) x).take m.i.srcTiles.eraseDups (x.vecDsts m.i)) with
            inVec := x.inVec.erase m, vec := some (x.vecRun m) }) ∧
        (∀ k, x.vecCheck m.i = some k → exec (.vecMessageStart st) s =
          .next (({ s with stalls := s.stalls.map fun (e : Nat × Stall) => if e.1 = st then (e.1, { e.2 with inVec := e.2.inVec.erase m }) else e }).dropMsg m k 2))) ∧
      (∀ r, x.vec = some r → r.rowsDone < r.costs.length → r.rowEnd ≤ x.cyc + 1 → r.abandoned = false →
        (∃ u n, exec (.vecRowEnd st true) s = .next (u.count st 5 n) ∧ u = { s with stalls := u.stalls } ∧
          n = (match r.m.i with | .vqnt _ _ _ | .vdqnt _ _ => 4 | _ => 1) ∧
          StallBecomes s u st { x with vec := some { r with rowsDone := r.rowsDone + 1, retried := 0 } }) ∧
        (r.retried < 2 → ∃ t, exec (.vecRowEnd st false) s = .next t ∧ t = { s with stalls := t.stalls } ∧
          StallBecomes s t st { x with vec := some { r with
            retried := r.retried + 1, span := r.span + r.costs.getD r.rowsDone 0 } }) ∧
        (2 ≤ r.retried → exec (.vecRowEnd st false) s = .next ((s.vecAbandon st r).arithFail r.m 2))) ∧
      (∀ r tc b rest, x.vec = some r → r.outs = (tc, b) :: rest → r.costs.length ≤ r.rowsDone → r.start + r.span ≤ x.cyc + 1 →
        (∀ o ∈ r.outs, x.pagesIn (x.tileD o.1) = true) → s.traceHolds r.m.org 4 = false → r.abandoned = false →
        ∃ u, exec (.vecMessageComplete st) s = .next (u.engBirty r.m 4 1 (r.spent + (x.cyc + 1 - r.start))) ∧ u = { s with stalls := u.stalls } ∧
          StallBecomes s u st
            { ((r.outs.foldl (fun (y : Stall) o =>
                (y.putTile (y.tileD o.1) 0 o.2).withTile o.1 fun t =>
                  { t with st := .ready, afl := if o.1 = tc then r.flags else 0, origin := r.m.arrival }) x).release r.srcs) with
              vec := none, vecNext := x.cyc + 1 })) ∧
  (∀ (s : State) st x, s.stall? st = some x →
      (∀ m rest, s.stallRuns st = true → x.inSpe = m :: rest → (x.speNext ≤ x.cyc ∨ x.spePair m = true) →
        (∀ r ∈ x.spe, speConflict m r = false) → x.speFresh m = false → s.behindMsg m.org = true → x.topsClear m = true → x.speReady m = true → s.traceHolds m.org 3 = false →
        x.speCheck m.i m.l = none → x.speLost m = false →
        let r := x.speRun m (x.spePair m)
        ∃ u, exec (.speMessageIssue st) s =
            .next ((if x.spePair m then u else u.count st 6 r.cost).engBirty m 3 2 0) ∧
          u = { s with stalls := u.stalls, frames := u.frames } ∧ FoldsTaken s u m ∧
          StallBecomes s u st { (x.take m.i.srcTiles m.i.dstTiles) with
            inSpe := rest, spe := x.spe ++ [r], speNext := max x.speNext (x.cyc + r.cost) }) ∧
      (∀ r, x.speDue = some r → s.traceHolds r.m.org 4 = false →
        let after := { x with
          spe := x.spe.erase r, speDone := (x.cyc, r.writeSet) :: x.speDone.filter fun e => e.1 == x.cyc }
        (r.m.i.tree? ≠ none → r.retried < 2 → ∃ t, exec (.speMessageComplete st false) s = .next t ∧ t = { s with stalls := t.stalls } ∧
          StallBecomes s t st { x with
            spe := x.spe.map fun q => if q = r then { r with retried := r.retried + 1, done := r.done + r.cost + 8 } else q }) ∧
        ∀ ok, (ok = true ∨ r.m.i.tree? = none) → ∃ u, exec (.speMessageComplete st ok) s = .next (u.engBirty r.m 4 2 (x.cyc + 1 - r.start)) ∧
          u = { s with stalls := u.stalls, frames := s.frames.map fun f => if f.fid = r.m.org.fid then { f with spf := f.spf ||| r.flags } else f } ∧
          StallBecomes s u st
            (match r.m.i with
             | .spld _ _ _ => r.writes.foldl Stall.speStore (after.release r.tile.toList)
             | .spst _ _ _ => r.tile.toList.foldl (fun (y : Stall) t =>
                 (y.putTile (y.tileD t) 0 r.bytes).withTile t fun d => { d with st := .ready, afl := 0, origin := r.m.arrival })
                 (r.writes.foldl Stall.speStore after)
             | _ => r.writes.foldl Stall.speStore after)))

/-- 1. Acceptance (R268, R273, R276, R295): a barrier leaves the inbox; the card of the first entry with one is read, an unreadable card is
rejected with subcode 1 and a bad one with its subcode: no job is made and JOB_FAULT is reported with the subcode, for a region on a SYNC
page with the first address on it (R246). A good one makes an accepted job, held where a pair is giving up scratch it would touch. That a
barrier leaves the inbox past entries without a card is the model's choice (log 49), and so is the order of the subcodes (log 43).

2. The oldest job that may start starts: its folds and tiles are taken, a destination is FILLING, and it is running; where a tile it
works on is not in the tile store it is dropped with BANK_ROLE and touches no tile (R32, R229, R261, R264, R273). Its rounds take up to
4,096 bytes each; a fault of translation or permission pauses it with a record the handler answers, whose EXTRA is the job's handle, a
value the spec leaves open (log 5; R274, R275).

3. A job that has nothing left completes (R261, R266, R273, R274, R277): the tile it filled is READY, with its side tiles, where no other job
still fills it and ARR has reached EXP (or the job had no bytes), and stays as it is otherwise; a ring slot it drained is EMPTY. TZERO
leaves its tile READY and zero, TCOPY READY with the source's image and flags. A job without a completion action then leaves the porter,
its launch and its instance counting down once each.

4. The completion action of a job (R277). `.arr`: an arrival of ACNT, at least 1, is on its way to the hurdle that its word names, or the
breach of HD.ARR's checks is reported. `.snd`: a token with the bytes the job wrote leaves for its node's input and takes a credit; without
a credit the job stays, settled, and nothing is sent. `.dec`: the gate of the launch falls by one, and at 0 its gated frames stand in the
call room; a launch without a gate is reported, LAUNCH_STATE. -/
def Obligations.Porter : Prop :=
  (∀ (s : State) st x m, s.stall? st = some x → s.stallRuns st = true → (x.inPor.find? fun m => m.i.hasCard || m.i.isBar) = some m →
      let left := { s with stalls := s.stalls.map fun (e : Nat × Stall) => if e.1 = st then (e.1, { e.2 with inPor := e.2.inPor.erase m }) else e }
      let rejected := fun (sub va : Nat) => ∃ t y, exec (.porterJobAccept st) s = .next t ∧ t.stall? st = some y ∧ y.jobs = x.jobs ∧
        y.inPor = x.inPor.erase m ∧ y.tiles = x.tiles ∧
        (CanReport s m.org → Reported s t m.org { cls := .jobFault, va := some va, extra := BitVec.ofNat 64 sub, eng := 4 })
      (m.i.isBar = true → ∃ t, exec (.porterJobAccept st) s = .next t ∧ t = { s with stalls := t.stalls } ∧
        StallBecomes s t st { x with inPor := x.inPor.erase m, bars := x.bars ++ [m] }.tidyBars) ∧
      (m.i.isBar = false → s.behindMsg m.org = true → s.footprints (hallOfStall st) < 4096 → s.traceHolds m.org 5 = false →
        (left.readCard m = none → rejected 1 m.l.toNat) ∧
        ∀ a card, left.readCard m = some (a, card) →
          let v := ((left.translated st m.org.ctx m.l.toNat).accessDone st a false).served st m.org.ctx [a.pa] false
          (∀ sub, v.cardReject m card = some sub →
            rejected sub (if sub = 2 then (v.syncAt m.org.stall m.org.ctx card).getD m.l.toNat else m.l.toNat)) ∧
          (v.cardReject m card = none → ∃ u, exec (.porterJobAccept st) s = .next (u.jobBirty m 0 0) ∧
            u = { v with stalls := u.stalls, nextId := v.nextId + 1, pkg := { v.pkg with acceptNo := v.pkg.acceptNo + 1 } } ∧
            ∃ y, v.stall? st = some y ∧
              let sc := v.scratchOf st m.org.ctx card
              let state : JobSt := if v.pairs.any fun p => sc.any p.removing then .held else .accepted
              StallBecomes v u st { y with jobs := y.jobs ++ [Job.made v.nextId (v.pkg.acceptNo + 1) m card state sc] }))) ∧
  (∀ (s : State) st x, s.stall? st = some x → s.stallRuns st = true →
      (∀ m j, (x.jobs.filter fun (k : Job) => k.st == .running || k.st == .paused).length < 4 → s.startPick st = some (m, some j) →
        s.cardReject m j.card = none → j.m = m → j.m.i.isXrecv = false →
        (x.placeFaults (x.jobTiles m.i j.card) = none →
          ∃ t k, exec (.porterJobStart st) s = .next t ∧ t = { s with stalls := t.stalls, frames := t.frames } ∧ FoldsTaken s t m ∧
            k ∈ (t.stallD st).jobs ∧ k.id = j.id ∧ k.st = .running ∧ k.start = x.cyc ∧ k.pos = j.pos ∧ k.card = j.card ∧
            (m.i.port? = none → ∀ n ∈ m.i.dstTiles, x.dstSlot n < x.tiles.length → ((t.stallD st).tileD (x.dstSlot n)).st = .filling)) ∧
        (x.placeFaults (x.jobTiles m.i j.card) ≠ none →
          ∃ t y, exec (.porterJobStart st) s = .next t ∧ t.stall? st = some y ∧ y.tiles = x.tiles ∧ y.store = x.store ∧
            (∀ k ∈ y.jobs, k.id ≠ j.id) ∧ (CanReport s m.org → Reported s t m.org { cls := .bankRole, eng := 4 }))) ∧
      (∀ m, (x.jobs.filter fun (k : Job) => k.st == .running || k.st == .paused).length < 4 → s.startPick st = some (m, none) →
        s.xrecvBad x m = false → (x.placeFaults (m.i.dstTiles.map x.dstTile ++ m.i.srcTiles.map x.srcTile)) = none →
        ∃ t k, exec (.porterJobStart st) s = .next t ∧ FoldsTaken s t m ∧ k ∈ (t.stallD st).jobs ∧ k.id = s.nextId ∧ k.st = .running ∧
          k.m = m ∧ k.start = x.cyc ∧ t.nextId = s.nextId + 1) ∧
      ∀ j, x.roundPick = some j → j.port = none → x.pagesFor ((j.dests ++ j.srcs).map x.tileD) = true →
        let hi := s.roundEnd x j
        (∀ b u, s.roundOf x j j.pos hi = .ok b → s.reserveAll j (b.writes.filterMap (·.acc?)) = .ok u →
          ∃ t y, exec (.porterRoundStart st j.id) s = .next t ∧
            t = { u with stalls := t.stalls, halls := t.halls, ctxs := t.ctxs, classes := t.classes, l2 := t.l2 } ∧ t.stall? st = some y ∧
            { y with utlb := x.utlb, counters := x.counters } =
              { x with turn := j.id }.putJob { j with round := some ⟨b.writes, b.rd, hi, b.spans, b.aux, []⟩ }) ∧
        (∀ e, s.roundOf x j j.pos hi = .error e → e.cls = .pageAbsent ∨ e.cls = .pteInvalid ∨ e.cls = .permission ∨ e.cls = .syncMisuse →
          ∃ u, exec (.porterRoundStart st j.id) s = .next ((u.jobBirty j.m 4 (j.rd + j.wr)).enterRec (.make j.m.org
              { cls := e.cls, va := e.va, heat := some j.heat, extra := (Config.jobHandle j.id).setWidth 64, eng := 4, wr := e.wr } none true
              (some (st, j.id)))) ∧
            u = { s with stalls := u.stalls } ∧ StallBecomes s u st (x.putJob { j with st := .paused, round := none }))) ∧
  (∀ (s : State) st x j, s.stall? st = some x → s.stallRuns st = true → x.jobs.find? (fun (k : Job) => k.id == j.id) = some j →
      x.jobDone j = true → s.traceHolds j.m.org 5 = false → j.settled = false → s.farXsend j = false → s.storesOk = true →
      ∃ t y, exec (.porterJobComplete st j.id) s = .next t ∧ t.stall? st = some y ∧
        (∀ d, j.m.i.joins = true → j.dests.head? = some d → d < x.tiles.length → (x.tileD d).st = .filling →
          if x.filledBy j.id d = false ∧ ((x.tileD d).exp ≤ (x.tileD d).arr ∨ j.total = 0) then
            (y.tileD d).st = .ready ∧ ∀ e ∈ (x.tileD d).sides, e < x.tiles.length → (y.tileD e).st = .ready
          else y.tileD d = x.tileD d) ∧
        (∀ n ∈ j.srcs, n < x.tiles.length → (x.tileD n).st = .draining → n ∉ j.dests → n ∉ (x.tileD (j.dests.headD 64)).sides →
          (y.tileD n).st = .empty ∧ (y.tileD n).arr = 0 ∧ (y.tileD n).afl = 0) ∧
        (∀ h tc nb d, j.m.i = .tzero h tc nb → j.dests = [d] → d < x.tiles.length → (x.tileD d).inStore x.roles = true → (x.tileD d).sides = [] →
          x.filledBy j.id d = false →
          (y.tileD d).st = .ready ∧ y.tileBytes (y.tileD d) 0 (x.tileD d).bytes = List.replicate (x.tileD d).bytes 0) ∧
        (∀ h ta tc nb a d, j.m.i = .tcopy h ta tc nb → j.srcs = [a] → j.dests = [d] → d < x.tiles.length → a ≠ d →
          (x.tileD d).inStore x.roles = true → (x.tileD a).bytes = (x.tileD d).bytes → (x.tileD d).sides = [] → x.filledBy j.id d = false →
          (y.tileD d).st = .ready ∧ (y.tileD d).afl = (x.tileD a).afl ∧ y.tileBytes (y.tileD d) 0 (x.tileD d).bytes = x.image (x.tileD a)) ∧
        (j.m.i.cpl = 0 → (∀ h ta nb, j.m.i ≠ .xsend h ta nb) → (∀ k ∈ y.jobs, k.id ≠ j.id) ∧
          (t.flight.drop s.flight.length).map (·.cargo) =
            (j.m.org.launch.toList.map fun l => .level 2 l 0) ++ j.m.org.inst.toList.map fun i => .level 4 i 0)) ∧
  (∀ (s : State) st x j, s.stall? st = some x → s.stallRuns st = true → x.jobs.find? (fun (k : Job) => k.id == j.id) = some j →
      x.jobDone j = true → s.traceHolds j.m.org 5 = false → s.farXsend j = false → j.m.org.stall = st → (∀ h ta nb, j.m.i ≠ .xsend h ta nb) →
      let o := j.m.org
      let va := j.m.r.toNat
      let slot := j.m.r.toNat % 256
      ∃ t, exec (.porterJobComplete st j.id) s = .next t ∧
        (j.m.i.cpl = 1 → ∀ pa at_, va % 16 = 0 → va < 2 ^ 56 → s.pagePa st o.ctx va = .ok (pa, at_) →
          (s.pageCheck ⟨true, true, true, false, false⟩ pa at_ = none → ∃ w ∈ t.flight, s.nextId ≤ w.id ∧ w.org = o ∧
            w.cargo = .hurdle ⟨o.ctx, o.heat, va, 16, locsFrom va pa 16 false⟩ 1 (BitVec.ofNat 32 (max (cAcnt j.card) 1)) true) ∧
          (∀ k, s.pageCheck ⟨true, true, true, false, false⟩ pa at_ = some k → CanReport s o →
            Reported s t o { cls := k, va := some va, heat := some j.heat, eng := 4, wr := true })) ∧
        (j.m.i.cpl = 1 → va % 16 ≠ 0 ∨ 2 ^ 56 ≤ va → CanReport s o →
          Reported s t o { cls := .address, va := some (va % 2 ^ 56), heat := some j.heat, eng := 4, wr := true }) ∧
        (j.m.i.cpl = 2 → ∀ i n k tag, s.sendTarget o.ctx o.inst o.heat o.keep j.m.r.toNat = .node i n k tag → s.nodeFar i n = false →
          (0 < s.credits i n k → t.credits i n k = s.credits i n k - 1 ∧
            ∃ w ∈ t.flight, s.nextId ≤ w.id ∧ w.cargo = .token i n k tag (BitVec.ofNat 64 j.wr)) ∧
          (s.credits i n k = 0 → t.flight = s.flight ∧ t.credits i n k = 0 ∧ ∃ q ∈ (t.stallD st).jobs, q.id = j.id ∧ (q = j ∨ q.settled = true))) ∧
        (j.m.i.cpl = 2 → ∀ k, s.sendTarget o.ctx o.inst o.heat o.keep j.m.r.toNat = .bad k → CanReport s o → Reported s t o { cls := k, eng := 4 }) ∧
        (j.m.i.cpl = 3 → ∀ l, s.launch? o.ctx slot = some l → 0 < l.gate → (t.launch? o.ctx slot).map (·.gate) = some (l.gate - 1) ∧
          ∀ f ∈ s.frames, f.ctx = o.ctx → f.launch = some slot → f.place = .gated →
            ∃ g ∈ t.frames, g.fid = f.fid ∧ g.place = if l.gate = 1 then .callroom else .gated) ∧
        (j.m.i.cpl = 3 → (∀ l, s.launch? o.ctx slot = some l → l.gate = 0) → CanReport s o → Reported s t o { cls := .launchState, eng := 4 }))

/-- 1. A round that completes performs its writes, and the job goes on after it (R231, R274): the bytes it writes to memory stand there, the
last write of a byte holding, before the access is marked in the tables (R396); bytes it writes to its tile stand in the tile's image, and
ARR counts them; an update of PRDC leaves the sum or the larger, and the flags word the tile's AFL with the job's flags (R292).

2. The bytes of a pattern (R271): byte i0 + N0·(i1 + N1·(i2 + N2·i3)) stands at the base plus i0 + i1·S1 + i2·S2 + i3·S3, and the runs a
round takes the pattern in are those of its bytes, in order, each once.

3. What a round brings to its tile or plans for memory (R288 to R294), for bytes lo to hi of its stream: a WORD PLD the bytes of its
pattern; a planar PLD plane rows as they stand, or zero below XARG and from a group's map entry on; PGAT the block that its index names, zero for
index 0xFFFFFFFF, and JOB_FAULT 6 outside the region; PST, PSCT and PSTRM.out the tile's bytes at their addresses; PCPY one pattern to the
other; PRDC one update for each 4 bytes; PXPD two packed elements at the places its metadata names, with INV where these do not rise; PCMP
the two elements of the greatest magnitude, the lower index first among equals; PSTRM.in the bytes of its ring slots, a last slot filled up with zeros. -/
def Obligations.PorterRounds : Prop :=
  (∀ (s : State) st x j r, s.stall? st = some x → s.stallRuns st = true → x.jobs.find? (fun (k : Job) => k.id == j.id) = some j →
      j.round = some r → s.roundWaits r = false → j.reclaimed = false → s.ok = true → s.storesOk = true →
      (∀ a ∈ r.writes.filterMap (·.acc?), s.accGone a = false ∧ s.accLost a false = false ∧ ∀ l ∈ a.locs, l.hp = false) →
      ∃ t y k, exec (.porterRoundComplete st j.id false) s = .next t ∧ t.stall? st = some y ∧
        y.jobs.find? (fun (e : Job) => e.id == j.id) = some k ∧ k.pos = r.next ∧ k.round = none ∧ k.rd = j.rd + r.rd ∧ k.st = j.st ∧
        let marked := fun (m : List Host.Cell) (h : List Hall) =>
          (r.spans.foldl (fun (v : State) p => v.accessDone st p.1 p.2) { s with mem := m, halls := h }).mem
        ((∀ w ∈ r.writes, ∃ a bs, w = .mem a bs ∧ bs.length = a.locs.length) →
          let puts := r.writes.flatMap fun w => match w with | .mem a bs => (a.locs.map (·.pa)).zip bs | _ => []
          k.wr = j.wr + puts.length ∧ ∃ m h, t.mem = marked m h ∧
            ∀ pa, spGet 0 m pa = match puts.reverse.find? fun e => e.1 == pa with | some e => e.2 | none => s.rd8 pa) ∧
        (∀ d, j.port = none → d < x.tiles.length → (x.tileD d).inStore x.roles = true →
          (∀ w ∈ r.writes, ∃ o bs, w = .tile d o bs ∧ o + bs.length ≤ (x.tileD d).bytes) →
          let puts := r.writes.flatMap fun w => match w with | .tile _ o bs => bs.zipIdx.map fun e => (o + e.2, e.1) | _ => []
          k.wr = j.wr + puts.length ∧ (y.tileD d).arr % 2 ^ 20 = ((x.tileD d).arr + puts.length) % 2 ^ 20 ∧
          ∀ i, i < (x.tileD d).bytes → (y.tileBytes (y.tileD d) i 1).headD 0 =
            match puts.reverse.find? fun e => e.1 == i with | some e => e.2 | none => (x.tileBytes (x.tileD d) i 1).headD 0) ∧
        (∀ a op fp v, r.writes = [.rmw a op fp v] → a.locs.length = 4 → (a.locs.map (·.pa)).Nodup →
          let old := ofBytes (a.locs.map fun l => s.rd8 l.pa)
          ∃ m h new, t.mem = marked m h ∧ (∀ i, i < 4 → spGet 0 m ((a.locs.map (·.pa)).getD i 0) = BitVec.ofNat 8 (new / 256 ^ i)) ∧
            (∀ pa, pa ∉ a.locs.map (·.pa) → spGet 0 m pa = s.rd8 pa) ∧
            (fp = false → op = 0 → new = (old + v.toNat) % 2 ^ 32) ∧
            (fp = false → op = 1 → new = if (BitVec.ofNat 32 old).slt v then v.toNat else old) ∧
            (fp = true → op = 0 → ∀ p q, binValue 8 23 old = some p → binValue 8 23 v.toNat = some q → p + q ≠ 0 → ∃ fl,
              (Cut.of (if p + q < 0 then -(p + q) else p + q)).roundsFp 8 23 (Rm.ofCode j.m.rm) (decide (p + q < 0)) new fl ∧
              k.flags = j.flags ||| fl.afl)) ∧
        (∀ a fl, r.writes = [.word a fl] → a.va = cWb j.card + cWl j.card - 8 → a.size = 8 → a.locs.length = 8 → (a.locs.map (·.pa)).Nodup →
          ∃ m h, t.mem = marked m h ∧ ∀ i, i < 8 → spGet 0 m ((a.locs.map (·.pa)).getD i 0) = BitVec.ofNat 8 ((fl ||| j.flags).toNat / 256 ^ i))) ∧
  (∀ (c : List W64) (b : Nat),
      (∀ i0 i1 i2 i3, i0 < cN0 c → i1 < cN1 c → i2 < cN2 c →
        patAddr c b (i0 + cN0 c * (i1 + cN1 c * (i2 + cN2 c * i3))) = b + i0 + i1 * cS1 c + i2 * cS2 c + i3 * cS3 c) ∧
      ∀ lo hi, 0 < cN0 c → (∀ k, lo ≤ k → k < hi → 0 ≤ patAddr c b k) →
        ((patRuns c b (hi - lo + 1) lo hi).flatMap fun r => (List.range r.2.2).map fun i => (r.1 + i, r.2.1 + i)) =
          (List.range (hi - lo)).map fun k => ((patAddr c b (lo + k)).toNat, lo + k)) ∧
  (∀ (s : State) (x : Stall) (j : Job) lo hi b, lo < hi →
      let c := j.card
      let o := j.m.org
      let read := fun (va n : Nat) => (pagePieces va n).flatMap fun p => match s.pagePa o.stall o.ctx p.1 with
        | .ok (pa, a) => (List.range p.2).map fun i => s.rdLoc o.ctx j.heat ⟨p.1 + i, pa + i, a.heatpriv⟩
        | .error _ => []
      let pattern := fun (base : Nat) => (patRuns c base (hi - lo + 1) lo hi).flatMap fun r => read r.1 r.2.2
      let d := j.dests.headD 0
      let t := x.tileD (j.srcs.headD 0)
      let byte := fun (k : Nat) => (x.tileBytes t k 1).headD 0
      let puts := fun (ws : List JobWrite) => ws.flatMap fun w => match w with | .mem a bs => (a.locs.map (·.va)).zip bs | _ => []
      (s.roundOf x j lo hi = .ok b →
        (jobKind j.m.i c = .raw → b.writes = [.tile d (cTofs c + lo) (pattern (cRb0 c))]) ∧
        (jobKind j.m.i c = .pcpy → puts b.writes = ((List.range (pattern (cRb0 c)).length).map (cWb c + lo + ·)).zip (pattern (cRb0 c))) ∧
        (jobKind j.m.i c = .pst → puts b.writes =
          ((patRuns c (cWb c) (hi - lo + 1) lo hi).flatMap fun r => (List.range r.2.2).map fun i => (r.1 + i, byte (cTofs c + r.2.1 + i))) ++
          if hi = j.total ∧ (cXop c).testBit 0 = true then
            (List.range 8).map fun i => (cWb c + cWl c - 8 + i, BitVec.ofNat 8 (t.afl.toNat / 256 ^ i)) else []) ∧
        (∀ map, jobKind j.m.i c = .planar map → (x.tileD d).fmt ≠ 3 → (map = true → lo = 0) →
          let y := x.tileD d
          let entries := read (cRb1 c) y.groups
          b.writes = (if map = true ∧ y.wmv = true then [JobWrite.tile y.wml 0 entries] else []) ++
            (List.range ((hi - lo) / 128)).map fun i =>
              let r := lo / 128 + i
              let top := if map then min ((entries.getD (r / y.width) 0).toNat % 32) y.width else y.width
              .tile d (128 * r) (if cXarg c ≤ r % y.width ∧ r % y.width < top then read (cRb0 c + 128 * r) 128 else List.replicate 128 0)) ∧
        (jobKind j.m.i c = .prdc → ¬(hi = j.total ∧ (cXop c).testBit 2 = true) →
          (b.writes.map fun w => match w with | .rmw a op fp v => some (a.va, a.size, op, fp, v) | _ => none) =
            (List.range ((hi - lo) / 4)).map fun i => some ((patAddr c (cWb c) (4 * (lo / 4 + i))).toNat, 4, cXop c % 4, decide (t.fmt = 4),
              BitVec.ofNat 32 (ofBytes (x.tileBytes t (cTofs c + 4 * (lo / 4 + i)) 4)))) ∧
        (jobKind j.m.i c = .pxpd → 0 < (x.tileD d).elemBytes → hi = lo + 4 * (x.tileD d).elemBytes → lo % (4 * (x.tileD d).elemBytes) = 0 →
          let es := (x.tileD d).elemBytes
          let g := lo / (4 * es)
          let packed := read (cRb0 c + 2 * es * g) (2 * es)
          let i0 := ((read (cRb1 c + g) 1).headD 0).toNat % 4
          let i1 := ((read (cRb1 c + g) 1).headD 0).toNat / 4 % 4
          (i0 < i1 → b.writes = [.tile d (cTofs c + lo) ((List.range 4).flatMap fun k =>
            if k = i0 then packed.take es else if k = i1 then packed.drop es else List.replicate es 0)]) ∧
          (i1 ≤ i0 → b.writes = [.tile d (cTofs c + lo) (List.replicate (4 * es) 0), .afl d 4])) ∧
        (jobKind j.m.i c = .pcmp → 0 < t.elemBytes → hi = lo + 4 * t.elemBytes → hi ≠ j.total →
          let es := t.elemBytes
          let g := x.tileBytes t (cTofs c + lo) (4 * es)
          ∃ a e, a < e ∧ e < 4 ∧
            puts b.writes = ((List.range (2 * es)).map (cWb c + lo / 2 + ·)).zip ((g.drop (es * a)).take es ++ (g.drop (es * e)).take es) ∧
            (t.fmt = 11 → ∀ k z, k < 4 → k ≠ a → k ≠ e → (z = a ∨ z = e) →
              let mag := fun (n : Nat) => (sext (ofBytes ((g.drop (4 * n)).take 4)) 32).natAbs
              mag k < mag z ∨ (mag k = mag z ∧ z < k)))) ∧
      (jobKind j.m.i c = .pgat ∨ jobKind j.m.i c = .psct → 0 < cN0 c → lo / cN0 c = (hi - 1) / cN0 c →
        ∀ q ix, s.jobRead j {} (cRb1 c + 4 * (lo / cN0 c)) 4 = .ok (q, ix) →
          let base := if jobKind j.m.i c = .pgat then cRb0 c else cWb c
          let len := if jobKind j.m.i c = .pgat then cRl0 c else cWl c
          let a : Int := base + ofBytes ix * cS1 c
          let none_ := ofBytes ix = 0xFFFFFFFF
          ix = read (cRb1 c + 4 * (lo / cN0 c)) 4 ∧
          (¬none_ → ¬((base : Int) ≤ a ∧ a + cN0 c ≤ base + len) →
            s.roundOf x j lo hi = .error ⟨.jobFault, 0, decide (jobKind j.m.i c = .psct), 6⟩) ∧
          (s.roundOf x j lo hi = .ok b → jobKind j.m.i c = .pgat → b.writes = [.tile d (cTofs c + lo)
            (if none_ then List.replicate (hi - lo) 0 else read (a.toNat + lo % cN0 c) (hi - lo))]) ∧
          (s.roundOf x j lo hi = .ok b → jobKind j.m.i c = .psct → puts b.writes =
            if none_ then [] else (List.range (hi - lo)).map fun i => (a.toNat + lo % cN0 c + i, byte (cTofs c + lo + i)))) ∧
      ∀ z, lo % z + (hi - lo) ≤ z →
        (s.roundIn j z lo hi [d] = .ok b → b.writes = .tile d (lo % z) ((pattern (cRb0 c)).take (hi - lo)) ::
          if hi = j.total ∧ hi % z ≠ 0 then [.tile d (hi % z) (List.replicate (z - hi % z) 0)] else []) ∧
        (s.roundOut x j z lo hi [j.srcs.headD 0] = .ok b → puts b.writes =
          (patRuns c (cWb c) (hi - lo + 1) lo hi).flatMap fun r => (List.range r.2.2).map fun i => (r.1 + i, byte (lo % z + (r.2.1 - lo) + i))))

/-- 1. A contribution meets the part that owns its node (R302, R307, R310, R313): it is held until its sibling comes, in the node store as far as
that has room and else in the heat arena, without room in either the object breaks; a second value of one node breaks the object, and with the sibling there the two combine, the result going one level up; the root of an object in one part completes
it. A contribution to a broken object is dropped, and one whose object its slot no longer holds is reported (R305).

2. Traffic between the parts of an object and between parts of an instance (R310, R317): a forwarded node is held as a contribution of its
part is, and waits while its part is not there; a part's value in ARRIVAL mode is added in part 0, a result completes its part; a remote tile enters the store of its hall, waits in flight
while that holds 256, and a second one of its key, there or taken from there, is reported XCHAN_DUP. Traffic of an instance that has ended,
of any of the four kinds, is dropped. The key a report of XCHAN_DUP names and the hall it is posted in are the model's choice (log 85). -/
def Obligations.ReductionTraffic : Prop :=
  (∀ (s : State) k (w : Flight) hall slot rid l j v, s.flight[k]? = some w → w.cargo = .contribution hall slot rid l j v →
      s.behind w.org.fid w.id = true →
      let gone := { s with flight := s.flight.eraseIdx k }
      let becomes := fun (r' : Red) =>
        exec (.redContributionArrive k) s = .next { gone with reds := s.reds.map fun x => if x.hall = hall ∧ x.slot = slot then r' else x }
      ((∀ r, s.red? hall slot = some r → r.rid ≠ rid ∨ r.live = false) → exec (.redContributionArrive k) s =
        .next (gone.hallReport w.org hall .redState (BitVec.ofNat 64 (hall * 2 ^ 14 + slot)))) ∧
      ∀ r, s.red? hall slot = some r → r.rid = rid → r.live = true →
        (r.broken = true → exec (.redContributionArrive k) s = .next gone) ∧
        (r.broken = false → redOwner r.d l j = r.part → redArrival r.d = false → l < r.topLevel →
          ((∃ h ∈ r.held, h.1 = l ∧ h.2.1 = j) → exec (.redContributionArrive k) s = .next (gone.breakRed w.org r)) ∧
          ((∀ h ∈ r.held, ¬(h.1 = l ∧ (h.2.1 = j ∨ h.2.1 = j ^^^ 1))) → redAbsent r.d l (j ^^^ 1) = false →
            let excess := r.held.length + 1 - (16384 - (gone.nodeStore hall - (r.held.length - r.excess)))
            (excess ≤ gone.arenaFree r.ctx + r.excess → becomes { r with held := r.held ++ [(l, j, v)], excess := excess, last := w.org.redArrival }) ∧
            (gone.arenaFree r.ctx + r.excess < excess → exec (.redContributionArrive k) s = .next (gone.breakRed w.org r))) ∧
          (∀ sib, (∀ h ∈ r.held, ¬(h.1 = l ∧ h.2.1 = j)) →
            (r.held.find? fun h => h.1 == l && h.2.1 == j ^^^ 1) = some (l, j ^^^ 1, sib) →
            redAbsent r.d l (j ^^^ 1) = false → redNar r.d = 0 → redSplit r.d = 0 → r.part = 0 → l + 1 = redDepth r.d →
            let c := if j % 2 = 0 then redCombine r.d v sib else redCombine r.d sib v
            becomes { r with
              held := r.held.erase (l, j ^^^ 1, sib), excess := min r.excess (r.held.erase (l, j ^^^ 1, sib)).length, flags := r.flags ||| c.2.afl, done := true, result := c.1,
              last := w.org.redArrival }))) ∧
  ((∀ (s : State) k (w : Flight) i key p l j v d fl, s.flight[k]? = some w → w.cargo = .forward i key p l j v d fl →
      let gone := { s with flight := s.flight.eraseIdx k }
      (s.inst? i = none → exec (.redPartForwardArrive k) s = .next gone) ∧
      (∀ n, s.inst? i = some n → s.redMeet i key.toNat p d = none → (∀ e ∈ n.freed, ¬(e.1 = key.toNat ∧ e.2.1 = p)) →
        gone.nodeStore (n.parts.getD p 0) < 16384 → exec (.redPartForwardArrive k) s = .next { gone with
          insts := s.insts.map fun x => if x.iid = i then { x with waits := x.waits ++ [(⟨key, p, none, l, j, v, d, fl, w.org⟩, false)] } else x }) ∧
      ∀ n r, s.inst? i = some n → s.redMeet i key.toNat p d = some (r, false) → r.broken = false →
        let r' := { r with flags := r.flags ||| fl }
        exec (.redPartForwardArrive k) s =
          .next (gone.redSettle w.org r' w.org.redArrival (if redArrival r.d then r'.runningArrive l j v else r'.arrive 32 l j v))) ∧
    (∀ (s : State) k (w : Flight) i key p c v d fl, s.flight[k]? = some w → w.cargo = .partValue i key p c v d fl →
      (s.inst? i = none → exec (.redPartForwardArrive k) s = .next { s with flight := s.flight.eraseIdx k }) ∧
      ∀ n r, s.inst? i = some n → s.redMeet i key.toNat p d = some (r, false) → r.broken = false →
        exec (.redPartForwardArrive k) s = .next (({ s with flight := s.flight.eraseIdx k }).redSettle w.org
          { r with flags := r.flags ||| fl } w.org.redArrival (({ r with flags := r.flags ||| fl } : Red).gather v c))) ∧
    (∀ (s : State) k (w : Flight) i key p v d fl, s.flight[k]? = some w → w.cargo = .result i key p v d fl →
      (s.inst? i = none → exec (.redResultArrive k) s = .next { s with flight := s.flight.eraseIdx k }) ∧
      ∀ n r, s.inst? i = some n → s.redMeet i key.toNat p d = some (r, false) → r.broken = false →
        exec (.redResultArrive k) s = .next { s with
          flight := s.flight.eraseIdx k,
          reds := s.reds.map fun x => if x.hall = r.hall ∧ x.slot = r.slot then
            { x with done := true, result := v, flags := x.flags ||| fl, last := w.org.redArrival } else x }) ∧
    ∀ (s : State) k (w : Flight) t, s.flight[k]? = some w → w.cargo = .xmsg t →
      (s.inst? t.inst = none → exec (.xmsgArrive k) s = .next { s with flight := s.flight.eraseIdx k }) ∧
      ∀ n h, s.inst? t.inst = some n → s.halls[n.parts.getD t.dst 0]? = some h →
      let dup := (∃ x ∈ h.xstore, x.key = t.key) ∨ t.key ∈ h.xtaken
      (dup → exec (.xmsgArrive k) s = .next (({ s with flight := s.flight.eraseIdx k }).hallReport { w.org with ctx := n.ctx }
        (n.parts.getD t.dst 0) .xchanDup t.recvKey)) ∧
      (¬dup → h.xstore.length < 256 → exec (.xmsgArrive k) s = .next { s with
        flight := s.flight.eraseIdx k, halls := s.halls.set (n.parts.getD t.dst 0) { h with xstore := h.xstore ++ [t] } }) ∧
      (¬dup → 256 ≤ h.xstore.length → exec (.xmsgArrive k) s = .next s))

/-- TRAP, when it executes and is not predicated off, faults its block with class TRAP and its immediate in EXTRA; one that is predicated
off does nothing (R448). -/
def Obligations.Traps : Prop :=
  ∀ h (imm : W32) s c, s.cx? = some c →
    (h.off c = false → ∃ t, exec (.trap h imm) s = .next t ∧ FaultsAt s t c { cls := .trap, extra := imm.setWidth 64 }) ∧
    (h.off c = true → ∃ t, exec (.trap h imm) s = .next t ∧ OnlyBlock s t (fired c false))

/-- 1. SVC, MARK and MARK.v execute by recording what the commit of their block does (R419, R447); a BKPT in a block that has been mapped
past its check does nothing (R419, R422).

2. FLTRD and the ERET forms fault CSR_ACCESS outside a handler frame. In one, FLTRD delivers word L mod 8 of the frame's record, and an
ERET form is its block's exit; ERET.redir checks its successor first (R137, R446, R450). -/
def Obligations.SystemWords : Prop :=
  (∀ h s c, Runs s h c →
      (∀ imm : W32,
        (∃ t, exec (.svc h imm) s = .next t ∧ Records s t c (.svc imm c.l)) ∧
        (∃ t, exec (.mark h imm) s = .next t ∧ Records s t c (.mark imm 0)) ∧
        (∃ t, exec (.markV h imm) s = .next t ∧ Records s t c (.mark imm c.l))) ∧
      ∀ code, ∃ t, exec (.bkpt h code) s = .next t ∧ Ran s t c (fired c true)) ∧
  (∀ h s c, Runs s h c →
      (c.f.handler = false → ∀ i ∈ [Instr.fltrd h, .eret h, .eretEnd h, .eretRedir h],
        ∃ t, exec i s = .next t ∧ FaultsAt s t c { cls := .csrAccess }) ∧
      (c.f.handler = true →
        (∀ r, s.recordOf c.f = some r →
          ∃ t v, exec (.fltrd h) s = .next t ∧ r.words[c.l.toNat % 8]? = some v ∧ Delivers s t c h v) ∧
        (c.b.exits = [] →
          let leaves := fun (e : Exit) (t : State) => Ran s t c { fired c true with exits := [(c.slot, e)] }
          (∃ t, exec (.eret h) s = .next t ∧ leaves (.eret 0 0 0) t) ∧
          (∃ t, exec (.eretEnd h) s = .next t ∧ leaves (.eret 1 0 0) t) ∧
          ∃ t, exec (.eretRedir h) s = .next t ∧
            if 2 ^ 56 ≤ c.l.toNat then FaultsAt s t c { cls := .address, va := some (c.l.toNat % 2 ^ 56) }
            else if c.l.toNat % 16 ≠ 0 then FaultsAt s t c { cls := .fetchAlign, va := c.l.toNat }
            else leaves (.eret 2 c.l.toNat c.r) t)))

/-- 1. CSRR delivers FN, BSQ, HT, PP, FCSR, AF, SPC, SPF, MODE and CYC by their numbers; AF waits while the frame owes folds and SPF while it
has SPE messages; a handler frame reads FRP, and HENTRY, FLCNT, HFREE and HREF as they stood at the entry of its block, for which a block
mapped ahead waits until it is the frame's own; every other read faults CSR_ACCESS (R26, R27, R28, R106, R200, R444, R445).

2. CSRW of PP, FCSR, AF, SPC and SPF records its value for the commit, with AF and SPF waiting as CSRR does; a reserved field value, a
read-only register and an unlisted number fault CSR_ACCESS. HENTRY takes a multiple of 16, in a handler frame or while it is 0 (R26, R444,
R445). -/
def Obligations.ControlRegisters : Prop :=
  (∀ h (n : BitVec 12) s c x, Runs s h c → s.ctx? c.f.ctx = some x →
      let gives := fun (k : Nat) (v : W64) => n.toNat = k → ∃ t, exec (.csrr h n) s = .next t ∧ Delivers s t c h v
      let waits := fun (k : Nat) (w : Wait) => n.toNat = k → ∃ t, exec (.csrr h n) s = .next t ∧ WaitsOn s t c w
      gives 0 c.f.fn ∧ gives 1 (c.f.bsq.setWidth 64) ∧ gives 2 (BitVec.ofNat 64 c.f.ht) ∧ gives 3 (c.f.pp.setWidth 64) ∧
      gives 4 (c.f.fcsr.setWidth 64) ∧ (if c.f.folds = 0 then gives 5 (c.f.af.setWidth 64) else waits 5 .folds) ∧
      gives 6 (c.f.spc.setWidth 64) ∧ (if s.speBusy c.f then waits 7 .spe else gives 7 (c.f.spf.setWidth 64)) ∧
      gives 8 (BitVec.ofNat 64 (c.f.prio % 4 * 16 + (if c.f.handler then 8 else 0) + (if x.params.confid then 4 else 0) +
        (if x.params.debuggable then 2 else 0) + if c.f.det then 1 else 0)) ∧
      gives 9 (BitVec.ofNat 64 (s.stallD c.f.stall).cyc) ∧
      (c.f.handler = true →
        (c.b.spec = false → ∀ k v, k < 4 → c.b.entry[k]? = some v → gives (0x41 + k) v) ∧
        (c.b.spec = true → ∀ k, k < 4 → waits (0x41 + k) .order) ∧
        ∀ r k, s.recordOf c.f = some r → r.ctx = c.f.ctx → r.logSlot = some k →
          gives 0x40 (BitVec.ofNat 64 (x.params.faultLog.va + 64 * k))) ∧
      ((10 ≤ n.toNat ∧ n.toNat < 0x40 ∨ 0x45 ≤ n.toNat ∨ 0x40 ≤ n.toNat ∧ c.f.handler = false) →
        ∃ t, exec (.csrr h n) s = .next t ∧ FaultsAt s t c { cls := .csrAccess })) ∧
  (∀ h (n : BitVec 12) s c x, Runs s h c → s.ctx? c.f.ctx = some x →
      let v := c.l.toNat
      let prec := fun (k : Nat) => 1 ≤ k ∧ k ≤ 16
      let sound := n.toNat = 3 ∧ prec (v % 32) ∧ prec (v / 256 % 32) ∨ n.toNat = 4 ∧ v % 8 ≤ 4 ∨ n.toNat = 5 ∨
        n.toNat = 6 ∧ v / 65536 % 4 ≠ 3 ∨ n.toNat = 7 ∨ n.toNat = 0x41 ∧ (c.f.handler = true ∨ x.hentry = 0) ∧ v % 16 = 0
      (¬sound → ∃ t, exec (.csrw h n) s = .next t ∧ FaultsAt s t c { cls := .csrAccess }) ∧
      (sound → n.toNat = 5 → c.f.folds ≠ 0 → ∃ t, exec (.csrw h n) s = .next t ∧ WaitsOn s t c .folds) ∧
      (sound → n.toNat = 7 → s.speBusy c.f = true → ∃ t, exec (.csrw h n) s = .next t ∧ WaitsOn s t c .spe) ∧
      (sound → (n.toNat = 5 → c.f.folds = 0) → (n.toNat = 7 → s.speBusy c.f = false) →
        ∃ t, exec (.csrw h n) s = .next t ∧ Records s t c (.csrw n.toNat c.l)))

/-- 1. Taking a block fault: the block is gone, its frame is held before it with every register, control register and its position as they
were (one that was in the block engine stands behind its inline children, in the call room, or on the overflow list of a full one: R346,
R361), and a record names the class, the address, the block, the slot, the frame and the iteration (R434, R438, R439). The record
takes the hall's next FSQ as it is entered; where a log slot is free and no record waits it is written into the first free slot in ring
order, and where every slot is in use it waits (R409, R435).

2. The eight words of a record: every field of R438 stands where the table puts it, and every other bit is 0. -/
def Obligations.FaultRecords : Prop :=
  (∀ (s : State) bid slot (i : FaultInfo) b f x, s.block? bid = some b → s.frame? b.fid = some f → s.ctx? f.ctx = some x → b.spec = false →
      (∀ r ∈ s.recs, r.rid < s.nextId ∧ ¬(r.ctx = f.ctx ∧ r.status = 0)) → f.stall / 512 < s.halls.length →
      let t := s.blockFault bid slot i
      let inEngine := f.place = .resident ∨ f.place = .parked
      let room : Place := if f.inlineKids ≠ [] then .inlineWait else if 8192 ≤ s.callRoom (f.stall / 512) f.fid then .overflow else .callroom
      t.block? bid = none ∧
      t.frame? f.fid = some { f with held := true, stp := false, place := if inEngine then room else f.place,
                                     since := if inEngine then (s.stallD f.stall).cyc else f.since } ∧
      ∃ r ∈ t.recs, r.ctx = f.ctx ∧ r.cls = i.cls ∧ r.va = i.va.getD 0 ∧ r.extra = i.extra ∧ r.eng = i.eng ∧ r.slot = slot ∧
        r.stall = f.stall ∧ r.hall = f.stall / 512 ∧ r.org.blk = b.addr ∧ r.org.fn = f.fn ∧ r.org.bsq = f.bsq ∧ r.org.fref = f.fref ∧
        r.org.ctx = f.ctx ∧ r.heat = i.heat.getD f.ht ∧ r.org.iter = (if b.isLoop then b.iter else 0) ∧ r.heldFid = some f.fid ∧
        r.jobRef = none ∧
        r.flags = (if i.straddle then 1 else 0) + (if b.specOrigin then 2 else 0) + 4 + (if i.wr then 32 else 0) +
          (if f.handler then 64 else 0) ∧
        r.fsq = (s.hallD (f.stall / 512)).fsq ∧ (t.hallD (f.stall / 512)).fsq = (s.hallD (f.stall / 512)).fsq + 1 ∧
        match x.freeLogSlot with
        | some k => r.logSlot = some k ∧
            r.status = (if f.handler = true ∨ x.hentry = 0 then 3 else 1) ∧
            (t.ctx? f.ctx).map (·.flcnt) = some (x.flcnt + 1) ∧
            (f.handler = true ∨ x.hentry = 0 → (t.ctx? f.ctx).map (·.blocked) = some true)
        | none => r.logSlot = none ∧ r.status = 0 ∧ (t.ctx? f.ctx).map (·.flcnt) = some x.flcnt) ∧
  (∀ r : Rec, r.cls < 65536 → r.slot < 256 → r.eng < 16 → r.stall < 2048 → r.flags < 256 → r.org.blk < 2 ^ 56 → r.va < 2 ^ 56 →
      r.org.ctx < 512 → r.org.fref < 2 ^ 24 → r.heat < 65536 → r.org.iter < 2 ^ 32 →
      r.words = [(0 : BitVec 8) ++ BitVec.ofNat 8 r.flags ++ (0 : BitVec 5) ++ BitVec.ofNat 11 r.stall ++ (0 : BitVec 4) ++
          BitVec.ofNat 4 r.eng ++ BitVec.ofNat 8 r.slot ++ BitVec.ofNat 16 r.cls,
        (0 : BitVec 8) ++ BitVec.ofNat 56 r.org.blk, r.org.fn, r.fsq ++ r.org.bsq, (0 : BitVec 8) ++ BitVec.ofNat 56 r.va,
        (0 : BitVec 15) ++ BitVec.ofNat 9 r.org.ctx ++ BitVec.ofNat 24 r.org.fref ++ BitVec.ofNat 16 r.heat, r.extra,
        (0 : BitVec 32) ++ BitVec.ofNat 32 r.org.iter])

/-- 1. Of the records of a hall that wait in a log, the one first in FSQ order gets a handler frame as soon as a record is free for one: it enters at HENTRY with
MODE.HANDLER 1, DET 0, class 0, heat 0 and FN 0, g0 the VA of the record, g1 the reference of the held frame or 0, and every other
register as at reset, on the stall R436 names (R435, R436). That the free records counted are those of that stall's hall, and that FSQ
order is taken modulo 2^32, are the model's choice (logs 39 and 131).

2. At the commit of its block an ERET ends the handler frame and its record, and the held frame resumes: ERET at its resume point,
ERET.redir at block L with g0 := R and out of its loop, each with its BSQ unchanged; ERET.end, and a handler frame that ends by FEND,
end the held frame (R450). The held frame waits where it was held, and its next block is behind the writes of the handler frame (R472; log 35). -/
def Obligations.HandlerRuns : Prop :=
  (∀ (s : State) hall r x, r ∈ s.recs → r.hall = hall → r.status = 1 →
      (∀ q ∈ s.recs, q.hall = hall → q.status = 1 →
        q = r ∨ (r.fsq - (s.hallD hall).fsq).toNat < (q.fsq - (s.hallD hall).fsq).toNat) →
      s.ctx? r.ctx = some x → x.hentry ≠ 0 →
      let named := r.eng ≠ 7 ∧ r.org.stall ∈ x.params.pitch
      let st := if named then r.org.stall else ((x.params.pitch.filter (· / 512 = hall)) ++ x.params.pitch).headD 0
      0 < (s.hallD (st / 512)).hfree → st / 512 < s.halls.length → (∀ g ∈ s.frames, g.fid < s.nextId) →
      ∃ t f, exec (.handlerFrameCreate hall) s = .next t ∧ t.frame? s.nextId = some f ∧ f.ctx = x.num ∧ f.stall = st ∧ f.next = x.hentry ∧
        f.handler = true ∧ f.det = false ∧ f.prio = 0 ∧ f.ht = 0 ∧ f.fn = 0 ∧ f.bsq = 0 ∧ f.fcsr = 0 ∧ f.af = 0 ∧ f.spc = 0 ∧ f.spf = 0 ∧
        f.pp = 0x1010 ∧ f.record = some r.rid ∧ f.launch = none ∧ f.inst = none ∧ f.job = none ∧ f.cell = none ∧
        f.regs = ((Vector.replicate 32 0).set 0 (BitVec.ofNat 64 (s.recordVa r))).set 1 (BitVec.ofNat 64 (s.heldRef r)) ∧
        f.place = (if 8192 ≤ s.callRoom (st / 512) s.nextId then .overflow else .callroom) ∧
        (t.hallD (st / 512)).hfree = (s.hallD (st / 512)).hfree - 1 ∧ (∀ y ∈ t.recs, y.rid = r.rid → y.status = 2) ∧
        t.mem = s.mem ∧ t.blocks = s.blocks ∧ ∀ i g, s.frame? i = some g → t.frame? i = some g) ∧
  (∀ (s : State) bid b f r g e, s.block? bid = some b → s.frame? b.fid = some f → s.stallRuns f.stall = true → s.mayCommit b f = true →
      b.effs = [] → f.handler = true → f.parent = none → f.inlineKids = [] → f.cell = none → s.recordOf f = some r → r.jobRef = none → r.heldFid = some g.fid →
      s.frame? g.fid = some g → g.held = true → g.fid ≠ f.fid → b.exits = [e] →
      let since := (s.stallD g.stall).cyc
      let ends := fun (t : State) => t.frame? f.fid = none ∧ ∀ y ∈ t.recs, y.rid ≠ r.rid
      (e.2 = .eret 0 0 0 → ∃ t n, exec (.blockCommit bid) s = .next t ∧ ends t ∧ s.nextId ≤ n ∧
        t.frame? g.fid = some { g with held := false, since := since, resumer := some (f.fid, n) }) ∧
      (∀ l g0, e.2 = .eret 2 l g0 → ∃ t n, exec (.blockCommit bid) s = .next t ∧ ends t ∧ s.nextId ≤ n ∧
        t.frame? g.fid = some { g with held := false, since := since, resumer := some (f.fid, n), regs := g.regs.set 0 g0, next := l, loop := none, fetched := none }) ∧
      ((e.2 = .eret 1 0 0 ∨ e.2 = .fend) → g.parent = none → ∃ t, exec (.blockCommit bid) s = .next t ∧ ends t ∧ t.frame? g.fid = none))

/-- 1. A stall whose block engine has room takes a ready frame (R363, R364): one that has waited 65,536 cycles, the longest first; otherwise
one of the least priority class, DET frames by least FN and FREE frames by longest wait, the two kinds alternating.

2. An overflowed frame or matching-store key of least serving key enters the call room while it holds fewer than 8,192 entries (R361,
R363): one that has waited 65,536 cycles, the longest first; otherwise one of the least priority class, DET frames by least FN and FREE
frames by longest wait, the two kinds alternating. A frame of a gated launch enters gated; a key that is full by then fires. That a key
ranks as a FREE frame of its node's class is the model's choice (log 128).

3. A delivery of STMC enters a tile of its context's pitch that is WORD laid out, long enough, bound to no port and EMPTY or FILLING: its bytes
stand there, ARR rises, and the tile is READY once EXP has arrived; any other is dropped and counted (R226, R249). One of a release comes
behind the writes before it; a tile that an engine message writes is left alone until its end (R161; log 101), and one of a stall that is
saved, or whose page is out, until that is over (R452, R455).

4. The first token of those on their way to an input joins the matching store of its live instance; when every input of the node then holds the
tokens it consumes, the node fires: a frame with the tokens in g0 onwards, by input and by arrival, HT the tag, depth 5, and the FN of
R348, and the credits return. A tag that is not 0 and not live reports HEAT_RANGE and loses its tokens; a DET instance's 128th firing
reports DEPTH (R340, R347, R348). A key whose first token finds the call room full stands on the overflow list and fires only once it is in
the room (R361; log 128). -/
def Obligations.FrameServing : Prop :=
  (∀ (s : State) st, s.stallRuns st = true → s.engineUse st < 4 → (s.frames.filter fun f => f.stall == st && f.inTable).length < 64 →
      let ready := fun (f : Frame) => f ∈ s.frames ∧ f.stall = st ∧ s.frameReady f = true
      let aged := fun (f : Frame) => f.since + 65536 ≤ (s.stallD st).cyc
      (∃ f, ready f) →
      ∃ t f, exec (.frameServe st) s = .next t ∧ ready f ∧
        (∀ g, ready g → aged g → aged f ∧ f.since ≤ g.since) ∧
        ((∀ g, ready g → ¬aged g) → (∀ g, ready g → f.prio ≤ g.prio) ∧
          (∀ g, ready g → g.prio = f.prio → g.det = f.det → if f.det then f.fn.toNat ≤ g.fn.toNat else f.since ≤ g.since) ∧
          (∀ g, ready g → g.prio = f.prio → g.det ≠ f.det →
            (f.det = true ↔ (s.stallD st).detTurn = false) ∧ ((s.stall? st).isSome → (t.stallD st).detTurn = f.det))) ∧
        (s.blockOf f.fid = none → ∀ g, s.frame? f.fid = some g → t.frame? f.fid = some { g with place := .resident, inTable := true, spill := none }) ∧
        ∀ b, s.blockOf f.fid = some b → s.block? b.bid = some b → b.transit ≠ [] → t.block? b.bid = some { b with parked := false }) ∧
  (∀ (s : State) hall, s.callRoom hall 0 < 8192 →
      let waits := fun (f : Frame) => (f ∈ s.frames ∧ f.stall / 512 = hall ∧ f.place = .overflow) ∨ f ∈ s.overKeys hall
      let aged := fun (f : Frame) => f.since + 65536 ≤ (s.stallD f.stall).cyc
      (∃ f, waits f) → ∃ t f turn, exec (.callroomOverflowEntry hall) s = .next t ∧ waits f ∧
        (∀ g, waits g → aged g → aged f ∧ s.waitKey f ≤ s.waitKey g) ∧
        ((∀ g, waits g → ¬aged g) → (∀ g, waits g → f.prio ≤ g.prio) ∧
          (∀ g, waits g → g.prio = f.prio → g.det = f.det → if f.det then f.fn.toNat ≤ g.fn.toNat else s.waitKey f ≤ s.waitKey g) ∧
          (∀ g, waits g → g.prio = f.prio → g.det ≠ f.det →
            (f.det = true ↔ (s.hallD hall).overTurn = false) ∧ turn = f.det)) ∧
        let turned := { s with halls := s.halls.modify hall fun h => { h with overTurn := turn } }
        (f.fid ≠ 0 → t = { turned with frames := t.frames } ∧ ∀ i, t.frame? i =
          (s.frame? i).map fun g => if g.fid = f.fid then { g with place := if s.launchGated f then .gated else .callroom } else g) ∧
        (f.fid = 0 → ∀ i x, f.inst = some i → s.inst? i = some x →
          let y := { x with ovf := x.ovf.filter fun e => !(e.1 == f.next && e.2.1 == BitVec.ofNat 16 f.ht) }
          (x.released = false ∨ y.takes f.next (BitVec.ofNat 16 f.ht) = none → t = { turned with insts := t.insts } ∧ t.inst? i = some y) ∧
          (x.released = true → t = ({ turned with insts := s.insts.map fun (z : Inst) => if z.iid = i then
              { z with ovf := z.ovf.filter fun e => !(e.1 == f.next && e.2.1 == BitVec.ofNat 16 f.ht) } else z }).fireKey i f.next
                (BitVec.ofNat 16 f.ht) x.toks.length))) ∧
  (∀ (s : State) k (w : Flight) e size d rel x c, s.flight[k]? = some w → w.cargo = .mcast e size d rel →
      let st := (e.extractLsb' 0 11).toNat
      let n := (e.extractLsb' 11 6).toNat
      let ofs := (e.extractLsb' 18 19).toNat
      s.stall? st = some x → s.ctx? w.org.ctx = some c →
      let y := x.tileD n
      let fits := st ∈ c.params.pitch ∧ y.lay = true ∧ x.bound n = false ∧ ofs + size ≤ y.bytes ∧ (y.st = .empty ∨ y.st = .filling)
      let waits := (rel = true ∧ ∃ e ∈ s.flight, e.cargo.isWrite = true ∧ e.org.fid = w.org.fid ∧ msqLt e.msq w.msq = true) ∨
        st ∈ c.params.pitch ∧ (x.saved = true ∨ x.pagesIn y = false ∨ x.engineWrites n = true)
      (waits → exec (.mcastDelivery k) s = .next s) ∧
      (¬waits → ∃ t, exec (.mcastDelivery k) s = .next t ∧
        (fits → t = { s with flight := s.flight.eraseIdx k, stalls := t.stalls } ∧ (∀ i, i ≠ st → t.stall? i = s.stall? i) ∧
          ∃ z, t.stall? st = some z ∧
            (n < x.tiles.length → ((z.tileD n).arr = (y.arr + size) % 2 ^ 20 ∧
              ((z.tileD n).st = .ready ↔ y.exp ≤ (y.arr + size) % 2 ^ 20 ∧ ∀ j ∈ x.jobs, ¬(j.settled = false ∧ n ∈ j.dests)))) ∧
            z = { (x.pin y).putTile y ofs (bytesLE d.toNat size) with tiles := z.tiles }) ∧
        (¬fits → ∃ c', t.ctx? w.org.ctx = some c' ∧ c' = { c with dropped := c.dropped + 1 } ∧
          t = { s with flight := s.flight.eraseIdx k, ctxs := t.ctxs }))) ∧
  (∀ (s : State) k (w : Flight) i n inp tag v x, s.flight[k]? = some w → w.cargo = .token i n inp tag v → s.inst? i = some x → x.live = true →
      (∀ e ∈ s.flight, e.id < w.id → ∀ g u, e.cargo ≠ .token i n inp g u) → s.behind w.org.fid w.id = true →
      let arr : Arrival := ⟨if w.org.fid = 0 ∧ w.org.stall < 2048 then 7 else 5, w.org.fn, w.org.bsq, w.org.stall, decide (2048 ≤ w.org.stall)⟩
      let home := (x.nodes.getD n default).home
      let full := (∀ u ∈ x.toks, ¬(u.node = n ∧ u.tag = tag)) ∧ 8192 ≤ s.callRoom (home / 512) 0
      let y := { x with toks := x.toks ++ [⟨n, inp, tag, v, w.org.capt, arr, w.org⟩],
                        ovf := if full then x.ovf ++ [(n, tag, ((s.stallD home).cyc : Int))] else x.ovf }
      let out := ∃ e ∈ y.ovf, e.1 = n ∧ e.2.1 = tag
      ∃ t, exec (.tokenArrival k) s = .next t ∧
        ((x.released = false ∨ y.takes n tag = none ∨ x.takes n tag ≠ none ∨ out) → t.inst? i = some y ∧
          t = { s with flight := s.flight.eraseIdx k, insts := t.insts }) ∧
        ∀ ts nd, x.released = true → x.takes n tag = none → y.takes n tag = some ts → ¬out → x.nodes[n]? = some nd →
          let reports := fun (cls : Cls) =>
            let o : Org := { Org.ofHall x.ctx 0 with stall := nd.home, heat := tag.toNat, inst := some i }
            CanReport s o → Reported s t o { cls := cls, eng := 6, heat := some tag.toNat }
          let m := x.firings n tag + 1
          (s.heatLive x.ctx tag.toNat = true → m < 128 → (∀ f ∈ s.frames, f.fid < s.nextId) →
            ∃ f z, t.frame? s.nextId = some f ∧ f.ctx = x.ctx ∧ f.stall = nd.home ∧ f.next = nd.blk ∧ f.ht = tag.toNat ∧ f.depth = 5 ∧
              f.pinned = true ∧ f.prio = nd.prio ∧ f.det = x.det ∧ f.inst = some i ∧ f.launch = none ∧ f.nodeLaunch = some x.nodeSlot ∧
              f.fn = BitVec.ofNat 64 (x.nodeSlot * 2 ^ 56 + n * 2 ^ 44 + tag.toNat * 2 ^ 28 + m * 2 ^ 21) ∧
              (∀ r : Fin 32, f.regs[r] = (ts.map (·.val)).getD r 0) ∧
              t.inst? i = some z ∧ z.toks.length = x.toks.length + 1 - ts.length ∧ z.firings n tag = m) ∧
          (s.heatLive x.ctx tag.toNat = true → x.det = true → 128 ≤ m → t.inst? i = some y ∧ t.frames = s.frames ∧ reports .depth) ∧
          (s.heatLive x.ctx tag.toNat = false → reports .heatRange ∧ t.frames = s.frames ∧ ∀ z, t.inst? i = some z → z.toks.length = x.toks.length + 1 - ts.length))

/-- 1. A resident frame's next block is fetched whole through the translation of its page, where every byte is executable (R366, R442); a
breakpoint at its address stops a watched frame first, with a notice (R417, R420). A page without X holds the frame before the block
(R442), and a page with no translation at hand is walked for (R390). A frame that is held or stopped leaves the block engine (R346, R361).

2. A walk that finds a leaf fills the TLBs of its hall and stall with that page and lets its waiter go on; one that ends in a fault faults
the instruction with its class, STRADDLE for a later page, or lets an LDS deliver 0, or holds the fetching frame (R240, R390, R394, R442).
The entries it reads are served by their slices (R378, R398). Of a hall's walks the 128 first requested go on at once; a further one waits (R390). -/
def Obligations.BlockFetches : Prop :=
  (∀ (s : State) f x, s.frame? f.fid = some f → f.place = .resident → f.fetched = none → f.fetching = false → s.blockOf f.fid = none →
      s.stallRuns f.stall = true → s.ctx? f.ctx = some x →
      let stops := x.params.debuggable = true ∧ f.pass = false ∧ (∀ i n, f.loop = some (i, n) → i = 0) ∧
        ∃ e ∈ x.bps, e.getLsbD 0 = true ∧ (e.extractLsb' 4 52).toNat = f.next / 16
      let room : Place := if f.inlineKids ≠ [] then .inlineWait else if 8192 ≤ s.callRoom (f.stall / 512) f.fid then .overflow else .callroom
      let since := (s.stallD f.stall).cyc
      (stops → ∀ stale, ∃ t y, exec (.blockFetch f.fid stale) s = .next t ∧
        t.frame? f.fid = some { f with stopped := some 1, place := room, since := since, halt := false, stp := false } ∧ t.ctx? f.ctx = some y ∧
        y.cqWaiting = x.cqWaiting ++ ⟨0, 0, 7, 0, f.fref + 2 ^ 24, none⟩ ::
          if f.halt then [⟨0, 0, 7, 0, f.fref + 7 * 2 ^ 24, none⟩] else []) ∧
      (¬stops →
        (∀ pa a, s.lookupVa f.stall f.ctx f.next = some (pa, a) →
          let n := bits (readLE s.rd8 pa 16) 11 4
          f.next % 4096 + 16 + 8 * n ≤ 4096 → 0 < n → n ≤ 128 → (∀ p, pa ≤ p → p < pa + 16 + 8 * n → s.sectorLost p = false) →
          if a.x = true then
            ∃ t, exec (.blockFetch f.fid false) s = .next t ∧
              t.frame? f.fid = some { f with fetched := some (f.next, (List.range (16 + 8 * n)).map fun i => s.rd8 (pa + i)) }
          else ∃ t, exec (.blockFetch f.fid false) s = .next t ∧
            t.frame? f.fid = some { f with held := true, stp := false, place := room, since := since }) ∧
        (s.lookupVa f.stall f.ctx f.next = none → ∀ stale,
          ∃ t, exec (.blockFetch f.fid stale) s = .next t ∧
            t = { s with walks := s.walks ++ [⟨s.nextId, f.ctx, f.next, f.stall, .fetch f.fid, false, f.ht, f.next⟩], nextId := s.nextId + 1,
                         frames := t.frames } ∧
            t.frame? f.fid = some { f with fetching := true }))) ∧
  (∀ (s : State) (k : Walk), s.walks.find? (·.id == k.id) = some k →
      let gone := s.walks.filter fun w => !(w.id == k.id)
      let waits := ((s.walks.filter fun x => x.stall / 512 == k.stall / 512).take 128).any (·.id == k.id) = false
      (waits → exec (.pageWalkDone k.id) s = .next s) ∧
      (¬waits → ∀ l, s.walkVa k.ctx k.va = .ok l → k.stall / 512 < s.halls.length → (s.stall? k.stall).isSome → k.va < 2 ^ 56 →
        ∃ t, exec (.pageWalkDone k.id) s = .next t ∧ t.walks = gone ∧
          t = { s with walks := gone, halls := t.halls, stalls := t.stalls, blocks := t.blocks, frames := t.frames, ctxs := t.ctxs,
                       classes := t.classes, l2 := t.l2 } ∧
          (let e : Tlb := ⟨k.ctx, k.va / 2 ^ l.lg * 2 ^ l.lg, l.lg, l.pa / 2 ^ l.lg * 2 ^ l.lg, l.attr⟩
           (t.hallD (k.stall / 512)).tlb.head? = some e ∧ (t.stallD k.stall).utlb.head? = some e) ∧
          (∀ b n q, k.who = .slot b.bid n q → s.block? b.bid = some b →
            t.block? b.bid = some { b with waits := b.waits.filter fun w => w.1 != n }) ∧
          (∀ f, k.who = .fetch f.fid → s.frame? f.fid = some f → t.frame? f.fid = some { f with fetching := false })) ∧
      (¬waits → ∀ cls, s.walkVa k.ctx k.va = .error cls →
        ∃ t r, exec (.pageWalkDone k.id) s = .next t ∧ OnlyCounts { s with walks := gone } r ∧
          (∀ b n, k.who = .slot b.bid n true → s.block? b.bid = some b → OnlyBlock r t
            { b with waits := b.waits.filter fun w => w.1 != n, zeroed := n :: b.zeroed }) ∧
          (∀ b n, k.who = .slot b.bid n false → s.block? b.bid = some b → ∃ u, OnlyBlock r u
            { b with waits := b.waits.filter fun w => w.1 != n } ∧
            t = u.blockFault b.bid n { cls := cls, va := k.va, heat := some k.heat, wr := k.wr, straddle := k.va != k.first }) ∧
          (∀ f, k.who = .fetch f.fid → s.frame? f.fid = some f → f.place = .resident →
            let room : Place := if f.inlineKids ≠ [] then .inlineWait else if 8192 ≤ s.callRoom (f.stall / 512) f.fid then .overflow else .callroom
            t.frame? f.fid = some { f with held := true, stp := false, place := room, since := (s.stallD f.stall).cyc, fetched := none,
                                           fetching := false })))

/-- 1. What the mapping of a block refuses, as cause and slot (R40, R61, R63, R483): a TYPE other than 1 and a count outside 1 to 128, in
cause 3; in strict mode a reserved header bit, in cause 9; and a mask bit without its writer, a writer without its mask bit, two atomics,
two SVC or TRAP and a CALL beside register 30, in cause 7, where no slot has a breach of its own.

2. A fetched block is mapped with every slot armed and every operand field empty (R42, R366): a loop block keeps its count from register
LCR, and one whose count is 0 passes control to its exit target (R49). A breach faults ILLEGAL with its cause and slot (R63), a
BKPT faults BREAKPOINT with its code where nobody watches, and BKPT and DEBUG-STOP stop a watched frame (R417, R419); that DEBUG-STOP comes
before BKPT is the model's choice (log 32). The block keeps HENTRY, FLCNT, HFREE and HREF as they stand at its entry (R27, R445). -/
def Obligations.BlockMapping : Prop :=
  (∀ (h : W128) (words : List W64),
      let r := mapBreach h.toNat words
      let is := (parseSlots false words).filterMap (·.instr?)
      let counted := h.extractLsb' 0 4 = 1 ∧ 0 < (h.extractLsb' 4 8).toNat ∧ (h.extractLsb' 4 8).toNat ≤ 128
      (¬counted → r = some (3, 0xFF)) ∧
      (counted → h.getLsbD 15 = true → h.extractLsb' 120 8 ≠ 0 ∨ h.extractLsb' 25 7 ≠ 0 ∨ h.extractLsb' 16 4 ≠ 0 ∨
        h.getLsbD 12 = false ∧ (h.extractLsb' 96 24 ≠ 0 ∨ h.extractLsb' 20 5 ≠ 0) → r = some (9, 0xFF)) ∧
      (counted → h.getLsbD 15 = false → firstBreach (parseSlots false words) words (h.getLsbD 13) false = none →
        let breach := (∃ n : Nat, n < 32 ∧ ¬(h.getLsbD (32 + n) = true ↔ ∃ i ∈ is, ∃ g, i.wreg? = some g ∧ g.toNat = n)) ∨
          (∃ n : Nat, n < 32 ∧ ¬(h.getLsbD (64 + n) = true ↔ ∃ i ∈ is, ∃ g, i.lsid? = some g ∧ g.toNat = n)) ∨
          (h.getLsbD 62 = true ∧ ∃ d e o, Instr.call d e o ∈ is) ∨ 1 < (is.filter (·.isAtomic)).length ∨
          (∃ i ∈ is, i.isAtomic = true) ∧ (∃ i ∈ is, i.barsAtomic = true) ∨
          1 < (is.filter fun i => match i with | .svc _ _ | .trap _ _ => true | _ => false).length
        (breach → r = some (7, 0xFF)) ∧ (¬breach → r = none))) ∧
  (∀ (s : State) f bs, s.frame? f.fid = some f → f.fetched = some (f.next, bs) → f.place = .resident → s.blockOf f.fid = none →
      s.stallRuns f.stall = true → (s.mappedOn f.stall).length < 4 → s.numbersOk = true →
      let b := { Block.fresh s.nextId f.fid f.next bs ((f.loop.map (·.1)).getD 0) (s.stallD f.stall).cyc with entry := s.handlerRegs f }
      let lcr := (f.regs.getD b.lcr 0).toNat % 2 ^ 32
      let plain := b.breach? = none ∧ (s.watched f = true → b.debugStop = false) ∧ (b.bkpt? = none ∨ f.pass = true)
      let room : Place := if f.inlineKids ≠ [] then .inlineWait else if 8192 ≤ s.callRoom (f.stall / 512) f.fid then .overflow else .callroom
      let since := (s.stallD f.stall).cyc
      let held := fun (t : State) => t.frame? f.fid =
        some { f with held := true, stp := false, place := room, since := since, fetched := none, fetching := false }
      let stopped := fun (t : State) (r : Nat) => t.frame? f.fid =
        some { f with stopped := some r, place := room, since := since, fetched := none, fetching := false, halt := false, stp := false }
      let records := fun (t : State) (k : Cls) (extra : W64) (sl : Nat) => (s.ctx? f.ctx).isSome → ∃ r ∈ t.recs, r.rid = s.nextId ∧ r.ctx = f.ctx ∧ r.cls = k ∧
        r.extra = extra ∧ r.slot = sl ∧ r.heldFid = some f.fid ∧ r.org.blk = f.next ∧ r.org.fn = f.fn ∧ r.org.bsq = f.bsq
      (∀ cause sl, b.breach? = some (cause, sl) → ∃ t, exec (.blockMap f.fid) s = .next t ∧ held t ∧
        records t .illegal (BitVec.ofNat 64 cause) sl) ∧
      (b.breach? = none → s.watched f = true → b.debugStop = true → ∃ t, exec (.blockMap f.fid) s = .next t ∧ stopped t 3) ∧
      (∀ sl code, b.breach? = none → f.loop = none → f.pass = false → b.bkpt? = some (sl, code) →
        (s.watched f = false → ∃ t, exec (.blockMap f.fid) s = .next t ∧ held t ∧ records t .breakpoint (code.setWidth 64) sl) ∧
        (s.watched f = true → b.debugStop = false → ∃ t, exec (.blockMap f.fid) s = .next t ∧ stopped t 2)) ∧
      (plain → b.isLoop = false → f.loop = none → ∃ t, exec (.blockMap f.fid) s = .next t ∧ t.block? s.nextId = some b ∧
        t.frame? f.fid = some { f with pass := false }) ∧
      (plain → b.isLoop = true → f.loop = none → ∃ t, exec (.blockMap f.fid) s = .next t ∧
        if lcr = 0 then t.blocks = s.blocks ∧ t.frame? f.fid = some { f with next := b.exitTarget, fetched := none, pass := false }
        else t.block? s.nextId = some b ∧ t.frame? f.fid = some { f with loop := some (0, lcr), pass := false }) ∧
      ((∃ n, b.slots = List.replicate n ⟨none, none, none, false⟩) ∧ b.transit = [] ∧ b.effs = [] ∧ b.gws = [] ∧ b.lsids = [] ∧ b.exits = []))

/-- 1. A speculative block is mapped behind the last block of its frame from translations at hand, with bytes of memory or of the block
cache (R67), and a block that would fault at its mapping leaves no trace but of its fetch (R66, R370).

2. A token fills the empty operand field it names, and a second one faults BLOCK_FORM subcode 1 in the sender's slot (R46, R47, R368; that
it is the sender's, and not the consumer's, is the model's reading, log 22). A block in which nothing can go on then is parked while an
instruction waits (R48), stands until its commit if it is complete, and otherwise faults subcode 5 (R47). -/
def Obligations.SpeculationAndTokens : Prop :=
  (∀ (s : State) fid addr f b0 p bs, s.frame? fid = some f → s.blockOf fid = some b0 → b0.parked = false → s.lastBlock fid = some p →
      addr % 16 = 0 → addr < 2 ^ 56 → s.stallRuns f.stall = true → s.engineUse f.stall < 4 →
      (s.blocks.filter fun b => b.fid == fid && b.spec).length < 3 → p.isLoop = false →
      (∀ w ∈ p.parsed, ∀ i, w.instr? = some i → endsPrediction i = false) → s.fetchBlock f.stall f.ctx addr = .bytes bs →
      ∃ t v, exec (.speculativeMap fid addr) s = .next t ∧ (v = bs ∨ (addr, v) ∈ (s.stallD f.stall).bcache) ∧
        let b := Block.fresh s.nextId fid addr v 0 (s.stallD f.stall).cyc
        let new := b.breach? = none ∧ b.isLoop = false ∧ b.bkpt? = none ∧ b.debugStop = false
        let fetches := { s with stalls := t.stalls, ctxs := t.ctxs, classes := t.classes, l2 := t.l2, draws := t.draws }
        (new → t = { fetches with
          blocks := s.blocks ++ [{ b with spec := true, specOrigin := true, pred := some p.bid }], nextId := s.nextId + 1 }) ∧
        (¬new → t = fetches)) ∧
  (∀ (s : State) b f k (x : Transit), s.block? b.bid = some b → s.frame? b.fid = some f → b.parked = false → s.stallRuns f.stall = true →
      b.transit[k]? = some x →
      let old := b.slotD x.slot
      let field := match x.fld with | .left => old.l | .right => old.r | .pred => old.p
      let new := match x.fld with
        | .left => { old with l := some x.val }
        | .right => { old with r := some x.val }
        | .pred => { old with p := some x.val }
      (field.isSome → exec (.operandTokenArrival b.bid k) s = .next (s.blockFault b.bid x.src { cls := .blockForm, extra := 1 })) ∧
      (field = none → ∃ u a t, exec (.operandTokenArrival b.bid k) s = .next t ∧
        let b' := { b with slots := b.slots.set x.slot new, transit := b.transit.eraseIdx k, lastArr := a }
        OnlyBlock s u b' ∧
        if u.canProceed b' f = true ∨ b.spec = true then t = u
        else if ∃ w ∈ b.waits, w.2.parks = true then
          OnlyBlock { s with frames := t.frames } t { b' with parked := true } ∧ t.frame? f.fid = some { f with place := .parked }
        else if u.complete b' = true then t = u
        else t = u.blockFault b.bid 0xFF { cls := .blockForm, extra := 5 }))

/-- The commit of a complete block, all at once (R27, R46): its register writes take effect and every other register stands, with CALL
writing g30; its flags enter FCSR and AF, behind what a CSRW writes there; a CSRW of PP, FCSR, AF, SPC and SPF, and PPSET, write their
register; its stores, a misaligned one as one-byte stores (R210), and sends leave; its engine messages enter the inboxes of their units with
PP, the rounding mode and SPC as the commit leaves them (R46, R262); and the frame
goes on to its exit's target, falls through a loop's iterations, or ends (R50, R136, R138). -/
def Obligations.BlockCommits : Prop :=
  ∀ (s : State) b f, s.block? b.bid = some b → s.frame? b.fid = some f → s.stallRuns f.stall = true → s.mayCommit b f = true →
    s.creditsFor b = true → f.handler = false →
    (∀ n, b.badHeatEnd = some n → exec (.blockCommit b.bid) s = .next (s.blockFault b.bid n { cls := .heatState })) ∧
    (b.badHeatEnd = none → ∃ t, exec (.blockCommit b.bid) s = .next t ∧ t.block? b.bid = none ∧
      ((∃ n, (n, Exit.fend) ∈ b.exits) → t.frame? f.fid = none ∧
        ∀ c, f.cell = some c → ∃ w ∈ t.flight, ∃ pa, w.cargo = .producerEnd c pa f.fref false) ∧
      (f.reclaim = none → (∀ e ∈ b.exits, ∀ x y z, e.2 ≠ .fend ∧ e.2 ≠ .eret x y z) → ∃ g, t.frame? f.fid = some g ∧ g.bsq = f.bsq + 1 ∧
        (∀ e a, b.exits = [e] → e.2 = .to a → g.next = a ∧ g.loop = none) ∧
        (∀ e a r, b.exits = [e] → e.2 = .call a r → g.next = a ∧ g.loop = none) ∧
        (∀ i n, b.exits = [] → f.loop = some (i, n) →
          if i + 1 = n then g.next = b.exitTarget ∧ g.loop = none else g.next = f.next ∧ g.loop = some (i + 1, n)) ∧
        (b.gws.Pairwise (fun x y => x.1 ≠ y.1) → ∀ r : Fin 32,
          (∀ n v, (r.val, n, some v) ∈ b.gws → ((∃ e ∈ b.exits, ∃ a q, e.2 = .call a q) → r.val ≠ 30) → g.regs[r] = v) ∧
          ((∀ n v, (r.val, n, some v) ∉ b.gws) → ((∃ e ∈ b.exits, ∃ a q, e.2 = .call a q) → r.val ≠ 30) → g.regs[r] = f.regs[r])) ∧
        (∀ e a q, b.exits = [e] → e.2 = .call a q → g.regs[30] = BitVec.ofNat 64 q) ∧
        let writes : List (Nat × W64) := b.effs.filterMap fun e => match e.2 with
          | .csrw n v => if n = 0x41 then none else some (n, v)
          | .ppset x y => some (3, y.setWidth 64 <<< 8 ||| x.setWidth 64)
          | _ => none
        let val : Nat → Option W64 := fun n => if (writes.map (·.1)) = [n] then writes.head?.map (·.2) else none
        (writes = [] → g.pp = f.pp ∧ g.spc = f.spc ∧ g.spf = f.spf ∧ g.fcsr &&& 0xF = f.fcsr &&& 0xF ∧
          (g.fcsr >>> 4).setWidth 5 = (f.fcsr >>> 4).setWidth 5 ||| b.fflags) ∧
        let folded := b.effs.foldl (fun (a : BitVec 5) e => match e.2 with | .tgetFold fl => a ||| fl | _ => a) 0
        (writes = [] → g.af = f.af ||| b.aflags ||| folded) ∧ (∀ v, val 5 = some v → g.af = v.setWidth 5 ||| b.aflags ||| folded) ∧
        (∀ v, val 4 = some v → g.fcsr &&& 0xF = v.setWidth 9 &&& 7 ∧
          (g.fcsr >>> 4).setWidth 5 = (v >>> 4).setWidth 5 ||| b.fflags) ∧
        ((∀ e ∈ b.effs, ∀ x y z, e.2 ≠ .cancel x y z) → ∀ n i l r, (n, .msg i l r) ∈ b.effs → i.inbox? ≠ none → ∃ y m, t.stall? f.stall = some y ∧
          m ∈ (match i.inbox? with
            | some .pa => y.inPa | some .vec => y.inVec | some .spe => y.inSpe | some .porter => y.inPor | some .tile => y.tops | none => []) ∧
          m.i = i ∧ m.l = l ∧ m.r = r ∧ m.pp = g.pp ∧ m.rm = g.fcsr.setWidth 3 ∧ m.spc = g.spc ∧ m.org.fid = f.fid ∧ m.org.slot = n ∧
          m.pos = (s.stallD f.stall).commitPos + 1) ∧
        (∀ v, val 3 = some v → g.pp = v.setWidth 13 &&& 0x1F1F) ∧ (∀ v, val 6 = some v → g.spc = v.setWidth 18 &&& 0x307FF) ∧
        (∀ v, val 7 = some v → g.spf = v.setWidth 4) ∧
        (∀ n lsid a d r, (n, .store lsid a d r) ∈ b.effs →
          let leaves := fun (x : Acc) (v : W64) => ∃ w ∈ t.flight, w.cargo = .store x v r false ∧ w.msq = msqOf f.bsq lsid ∧ w.org.fid = f.fid
          if a.va % a.size = 0 then leaves a d else ∀ i, i < a.size → leaves (a.byte i) (d >>> (8 * i))) ∧
        (∀ n i k p tag v, (n, .send i k p tag v) ∈ b.effs → s.nodeFar i k = false → ∃ w ∈ t.flight, w.cargo = .token i k p tag v)))

/-- 1. A decrement reaches its level's counter behind the writes of its frame, what its engine work has to stop for, its cell's event, its
hold drops and its cancels, and waits for them (R19, R332, R342). The level that it leaves at 0 with no cancel pending is complete: a
packet's launch waits to post its entry and its job counts down, a graph instance whose sources have stopped goes, and a job waits to post
its own entry; a heat is not ended by its count. An admitted cancel cancels the level and requests its frames' reclamation; cancels of one
stall are taken in the order sent (R17, R18, R19, R337, R338, R354, R355, R357, R377).

2. A reclamation, the first of its source on its way (R377), takes its frame away with its blocks, and its waiting engine messages (R342); its cell hears of it and its levels count
down. A handler frame stays, and a frame pinned by a KEEP block keeps the request until that block has committed (R41, R342, R436).

3. A stuck context receives one record: HEAT_EXHAUSTED if a frame of it waits for a heat tag, DEADLOCK otherwise, with the count of its
frames, and names the one of least FN; no other follows until it is armed again (R379). A context whose tokens alone wait is stuck too;
its record then names no frame, and its count is 0 (log 76). -/
def Obligations.FrameLevels : Prop :=
  (∀ (s : State) k (w : Flight) lvl obj kind, s.flight[k]? = some w → w.cargo = .level lvl obj kind →
      let ctx := w.org.ctx
      let first := ∀ e ∈ s.flight, e.id < w.id → e.org.stall = w.org.stall → ∀ a b c, e.cargo = .level a b c → c = 0
      let down := fun (t : State) => exec (.levelCounterUpdate k) s = .next t
      let requested := fun (t : State) (p : Frame → Prop) =>
        ∀ f ∈ s.frames, f.ctx = ctx → p f → f.handler = false → ∃ e ∈ t.flight, e.cargo = .reclaim f.fid 4
      let jobDown := fun (t : State) (j : Option Nat) => ∃ new, t.flight = s.flight.eraseIdx k ++ new ∧
        new.map (fun (e : Flight) => (e.cargo, e.org.ctx)) = j.toList.map fun n => (.level 5 n 0, ctx)
      (s.behind w.org.fid w.id = false ∨ s.endTurn w = false → down s) ∧
      (kind ≠ 0 → ¬first → down s) ∧
      (s.behind w.org.fid w.id = true → s.endTurn w = true →
        (lvl = 2 → ∀ l, s.launch? ctx obj = some l → l.live = true → l.node = false → l.complete = false →
          (kind = 0 → ∃ t, down t ∧ t.frames = s.frames ∧
            if l.count ≤ 1 ∧ l.pending = 0 then t.launch? ctx obj = some { l with count := 0, complete := true } ∧
              jobDown t (if l.packet.isSome then l.job else none) ∧
              ∀ cookie job c, l.packet = some (cookie, job) → s.ctx? ctx = some c → ∃ c', t.ctx? ctx = some c' ∧
                c'.cqWaiting = c.cqWaiting ++ [⟨cookie, if l.cancelled then 1 else 0, 1, job, obj, some obj⟩]
            else jobDown t none ∧ t.launch? ctx obj = some { l with count := l.count - 1 }) ∧
          (kind = 1 → first → 0 < l.count → l.pending ≤ 1 → ∃ t, down t ∧
            t.launch? ctx obj = some { l with pending := 0, cancelled := true } ∧ requested t fun f => f.launch = some obj)) ∧
        (lvl = 3 → ∀ x, s.heat? ctx obj = some x →
          (kind = 0 → ∃ t, down t ∧ t = { s with flight := s.flight.eraseIdx k, heats := t.heats } ∧
            t.heat? ctx obj = some { x with count := x.count - 1 }) ∧
          (kind = 2 → first → x.live = true → ∃ t, down t ∧ t.heat? ctx obj = some { x with cancelled := true } ∧
            requested t fun f => f.ht = obj)) ∧
        (lvl = 4 → kind = 0 → ∀ x, s.inst? obj = some x → x.ctx = ctx →
          let fed := x.cancelled = false ∧ ∃ c, s.ctx? ctx = some c ∧ ∃ p ∈ c.packets,
            ((p.words.getD 0 0).toNat % 256 = 1 ∨ (p.words.getD 0 0).toNat % 256 = 2) ∧ (p.words.getD 1 0).toNat % 2 ^ 56 = x.image
          ∃ t, down t ∧
            if x.count ≤ 1 ∧ x.pending = 0 ∧ ¬fed then t.inst? obj = none ∧ (∀ r ∈ t.reds, r.inst ≠ some obj) ∧
              (∀ l ∈ t.launches, ¬(l.node = true ∧ l.inst = some obj)) ∧ jobDown t x.job
            else jobDown t none ∧ t.inst? obj = some { x with count := x.count - 1 }) ∧
        (lvl = 5 → kind = 0 → ∀ j c, s.jobrec? ctx obj = some j → j.complete = false → s.ctx? ctx = some c → ∃ t, down t ∧ jobDown t none ∧
          if j.count ≤ 1 ∧ j.pending = 0 then t.jobrec? ctx obj = some { j with count := 0, complete := true } ∧
            ∃ c', t.ctx? ctx = some c' ∧ c'.cqWaiting = c.cqWaiting ++ [⟨0, if j.cancelled then 1 else 0, 6, obj, 0, none⟩]
          else t.jobrec? ctx obj = some { j with count := j.count - 1 }))) ∧
  (∀ (s : State) k (w : Flight) f cause, s.flight[k]? = some w → w.cargo = .reclaim f.fid cause → s.frame? f.fid = some f →
      (∀ e ∈ s.flight, e.id < w.id → e.org.stall = w.org.stall → ∀ i c, e.cargo ≠ .reclaim i c) →
      ∃ t, exec (.reclaimRequest k) s = .next t ∧
        (f.handler = true → t = { s with flight := s.flight.eraseIdx k }) ∧
        (f.handler = false → s.pinnedByKeep f = true → t.frame? f.fid = some { f with reclaim := some cause } ∧ t.blocks = s.blocks) ∧
        (f.handler = false → s.pinnedByKeep f = false → f.parent = none →
          t.frame? f.fid = none ∧ (∀ b ∈ t.blocks, b.fid ≠ f.fid) ∧
          (∀ x, t.stall? f.stall = some x → ∀ m ∈ x.inPa ++ x.inVec ++ x.inSpe, m.org.fid ≠ f.fid) ∧
          (∀ c, f.cell = some c → ∃ e ∈ t.flight, ∃ pa, e.cargo = .producerEnd c pa f.fref true) ∧
          (∀ l, f.launch = some l → ∃ e ∈ t.flight, e.cargo = .level 2 l 0 ∧ e.org.ctx = f.ctx))) ∧
  (∀ (s : State) ctx c, s.ctx? ctx = some c → c.stuckArmed = true → s.stuck ctx = true → (∀ r ∈ s.recs, r.rid < s.nextId) →
      (∀ r ∈ s.recs, ¬(r.status = 0 ∧ r.heldFid = none)) →
      let mine := s.frames.filter fun f => f.ctx == ctx && !f.handler
      ∃ t c', exec (.stuckDetection ctx) s = .next t ∧ t.ctx? ctx = some c' ∧ c'.stuckArmed = false ∧ t.frames = s.frames ∧
        t.blocks = s.blocks ∧ exec (.stuckDetection ctx) t = .next t ∧
        ∃ r ∈ t.recs, r.ctx = ctx ∧ r.extra = BitVec.ofNat 64 mine.length ∧ r.heldFid = none ∧
          r.cls = (if ∃ b ∈ s.blocks, (∃ g ∈ mine, g.fid = b.fid) ∧ ∃ x ∈ b.waits, x.2 = .heatPool then Cls.heatExhausted else Cls.deadlock) ∧
          (mine ≠ [] → ∃ f ∈ mine, (∀ g ∈ mine, f.fn.toNat ≤ g.fn.toNat) ∧ r.org.fn = f.fn ∧ r.org.fref = f.fref ∧ r.stall = f.stall))

/-- 1. A word of a packet slot is stored, and word 7 of the next expected slot completes a packet of the slot's eight words; a write to a slot
whose packet is not yet accepted is dropped and counted (R351, R352). A confidential context's port takes writes only on its stream and
in RUN; another write puts its interface into ERROR and stops the context (R411).

2. A packet with a reserved TYPE or a nonzero reserved field is accepted with BAD_PACKET and has no other effect than the end of its
image's sources (R353, R355, R357). A confidential context accepts packets only in RUN (R411). A TOKEN packet that a grant of a frame sent
comes behind its sender's earlier writes (R215).

3. A CANCEL packet at level 2 acts at once: a live launch is cancelled with status 0 and its frames are reclaimed; a complete one answers 2,
a slot without a launch 3 (R338, R354, R357).

4. START opens a capture window under its number and STOP closes the window of that number, each with an entry; a START with number 0 or in
an open window, and a STOP of another number, are rejected (R357, R428). -/
def Obligations.IngressAdmission : Prop :=
  (∀ (s : State) ctx c slot word val ide, s.ctx? ctx = some c → slot < 64 → word < 8 →
      let closed := c.params.confid = true ∧ ¬(c.tdisp = .run ∧ ide = true)
      let busy := ∃ i, i < (c.packets.filter (·.slotted)).length ∧ (c.taken + 64 - 1 - i) % 64 = slot
      let now := fun (j : Nat) => if j = word then val else ((c.port.find? fun e => e.1 == slot && e.2.1 == j).map (·.2.2)).getD 0
      ∃ t d, exec (.ingressSlotWrite ctx slot word val ide) s = .next t ∧ t.ctx? ctx = some d ∧ t = { s with ctxs := t.ctxs } ∧
        (∀ n, n ≠ ctx → t.ctx? n = s.ctx? n) ∧
        if closed then d = { c with tdisp := .error, tdHalt := true }
        else if busy then d = { c with overrun := c.overrun + 1 }
        else (∀ j, ((d.port.find? fun e => e.1 == slot && e.2.1 == j).map (·.2.2)).getD 0 = now j) ∧
          if slot = c.taken % 64 ∧ word = 7 then
            d = { c with port := d.port, taken := c.taken + 1, packets := c.packets ++ [⟨(List.range 8).map now, true, none, []⟩] }
          else d = { c with port := d.port }) ∧
  (∀ (s : State) ctx c p l, s.ctx? ctx = some c → c.packets = p :: l → (c.params.confid = true → c.tdisp = .run) →
      let w := fun k => p.words.getD k 0
      let reserved := (w 0).extractLsb' 8 8 ≠ 0 ∨ (w 1).extractLsb' 56 8 ≠ 0 ∨ w 4 ≠ 0 ∨ w 5 ≠ 0 ∨ w 6 ≠ 0 ∨ w 7 ≠ 0
      let type := (w 0).toNat % 256
      (type = 0 ∨ 5 < type → ∃ t, exec (.reservedTypePacket ctx) s = .next t ∧ Answered s t ctx c p 5 0) ∧
      (type = 1 → s.sourcesRun ctx = true → reserved ∨ (w 2).extractLsb' 34 6 ≠ 0 →
        ∃ t, exec (.launchPacket ctx) s = .next t ∧ Answered s t ctx c p 5 0) ∧
      (type = 2 → s.sourcesRun ctx = true → (∀ n ∈ p.bar, ∀ w ∈ s.flight, w.id ≠ n) → reserved ∨ (w 2).extractLsb' 36 28 ≠ 0 ∨ (w 2).extractLsb' 32 3 ≠ 0 ∨ (w 2).getLsbD 19 = true →
        ∃ t, exec (.tokenPacket ctx) s = .next t ∧ Answered s t ctx c p 5 0) ∧
      (type = 3 → reserved ∨ (w 2).toNat < 2 ∨ 5 < (w 2).toNat → ∃ t, exec (.cancelPacket ctx) s = .next t ∧ Answered s t ctx c p 5 0) ∧
      (type = 4 → reserved ∨ 65536 ≤ (w 2).toNat ∨ (w 1).extractLsb' 0 56 ≠ 0 →
        ∃ t, exec (.startPacket ctx) s = .next t ∧ Answered s t ctx c p 5 0) ∧
      (type = 5 → reserved ∨ 65536 ≤ (w 2).toNat ∨ (w 1).extractLsb' 0 56 ≠ 0 →
        ∃ t, exec (.stopPacket ctx) s = .next t ∧ Answered s t ctx c p 5 0)) ∧
  (∀ (s : State) ctx c p l, s.ctx? ctx = some c → c.packets = p :: l → p.type = 3 → p.bad = false → p.words.getD 2 0 = 2 →
      (c.params.confid = true → c.tdisp = .run) →
      let k := (p.words.getD 3 0).toNat % 256
      (s.launch? ctx k = none → ∃ t, exec (.cancelPacket ctx) s = .next t ∧ Answered s t ctx c p 3 0) ∧
      ∀ x, s.launch? ctx k = some x → x.node = false → x.live = true →
        (x.complete = true → x.cancelled = false → ∃ t, exec (.cancelPacket ctx) s = .next t ∧ Answered s t ctx c p 2 0) ∧
        (x.complete = false → x.pending = 0 → 0 < x.count → ∃ t d, exec (.cancelPacket ctx) s = .next t ∧
          t.launch? ctx k = some { x with cancelled := true } ∧ t.ctx? ctx = some d ∧ d.packets = l ∧
          d.cqWaiting = c.cqWaiting ++ [⟨p.cookie, 0, 3, p.job, 0, none⟩] ∧
          ∀ f ∈ s.frames, f.ctx = ctx → f.launch = some k → f.handler = false → ∃ w ∈ t.flight, w.cargo = .reclaim f.fid 4)) ∧
  (∀ (s : State) ctx c p l, s.ctx? ctx = some c → c.num = ctx → c.packets = p :: l → p.bad = false → (c.params.confid = true → c.tdisp = .run) →
      let n := (p.words.getD 2 0).toNat % 65536
      let answers := fun (t : State) (w : Option Nat) => ∃ d, t.ctx? ctx = some d ∧ d.window = w ∧ d.packets = l ∧
        d.cqWaiting = c.cqWaiting ++ [⟨p.cookie, 0, p.type, p.job, 0, none⟩]
      (p.type = 4 → n ≠ 0 → c.window = none → s.captureHeld c 9 = false →
        ∃ t, exec (.startPacket ctx) s = .next t ∧ answers t (some n)) ∧
      (p.type = 4 → n = 0 ∨ c.window.isSome → ∃ t, exec (.startPacket ctx) s = .next t ∧ Answered s t ctx c p 5 0) ∧
      (p.type = 5 → n ≠ 0 → c.window = some n → s.captureHeld c 10 = false →
        ∃ t, exec (.stopPacket ctx) s = .next t ∧ answers t none) ∧
      (p.type = 5 → n = 0 ∨ c.window ≠ some n → ∃ t, exec (.stopPacket ctx) s = .next t ∧ Answered s t ctx c p 5 0))

/-- 1. A LAUNCH packet for the live instance of a loaded image takes a free slot and makes its frames at the entry of its record: FN the slot
and index + 1, g0 the argument and g1 the index, the packet's heat and class, gated while GATE is above 0 (R336, R354, R361). A heat that
is not live, a record that is not there, 128 frames or more of a DET image, and 256 slots in use are rejected with 7, 5, 9 and 6
(R356, R357); one whose image has failed to load, with 4 (R355). A frame that finds the call room full stands on the overflow list. A launch
of an instance or a job that is cancelled is cancelled from its start (R18). That a record index past the image's gives 5, and the order
7, 5, 9, 6 of the checks, are the model's choice (log 137); which cookie a failure answers and in which order packets are rejected, logs 86 and 93.

2. A TOKEN packet for a node input of the live instance sends its value with its tag once it holds a credit, and waits without one; one
that a grant of a frame sent waits for the writes its sender made before it (R215); a node
or input that is not there is rejected with 8, and an image that failed to load with 4 (R340, R354, R355, R357). -/
def Obligations.IngressLaunches : Prop :=
  (∀ (s : State) ctx c p l m i, s.ctx? ctx = some c → c.num = ctx → c.packets = p :: l → p.type = 1 → p.bad = false → s.sourcesRun ctx = true →
      (c.params.confid = true → c.tdisp = .run) → (∀ e, p.fail = some e → ∃ t, exec (.launchPacket ctx) s = .next t ∧ Answered s t ctx c p 4 e) ∧
      (p.fail = none → s.imageOf ctx p.image = some m → s.liveInst ctx m.va = some i → p.image = m.va → s.inst? i.iid = some i →
      let b := p.words.getD 2 0
      let n := (b.extractLsb' 56 8).toNat + 1
      let heat := (b.extractLsb' 40 16).toNat
      let gate := (b.extractLsb' 16 16).toNat
      let entry := (b.extractLsb' 0 16).toNat
      let rejected := fun (st : Nat) => ∃ t, exec (.launchPacket ctx) s = .next t ∧ Answered s t ctx c p st 0
      (s.heatLive ctx heat = false → rejected 7) ∧
      (s.heatLive ctx heat = true → m.launches.length ≤ entry → rejected 5) ∧
      (s.heatLive ctx heat = true → entry < m.launches.length → m.det = true → 128 ≤ n → rejected 9) ∧
      (s.heatLive ctx heat = true → entry < m.launches.length → (m.det = true → n < 128) → (∀ k, k < 256 → (s.launch? ctx k).isSome) →
        rejected 6) ∧
      (s.heatLive ctx heat = true → entry < m.launches.length → n < 128 → (∃ k, k < 256 ∧ s.launch? ctx k = none) →
        ∃ t k x d, exec (.launchPacket ctx) s = .next t ∧ k < 256 ∧ s.launch? ctx k = none ∧ t.launch? ctx k = some x ∧
          x.count = n ∧ x.gate = gate ∧ x.gated = decide (gate ≠ 0) ∧ x.det = m.det ∧ x.live = true ∧ x.inst = some i.iid ∧
          x.job = some p.job ∧ x.packet = some (p.cookie, p.job) ∧ x.pending = 0 ∧ x.complete = false ∧
          (x.cancelled = true ↔ i.cancelled = true ∨ ∃ q, s.jobrec? ctx p.job = some q ∧ q.complete = false ∧ q.cancelled = true) ∧
          t.ctx? ctx = some d ∧ d.packets = l ∧ d.accepted = (if p.slotted then (c.accepted + 1) % 2 ^ 32 else c.accepted) ∧
          (t.frames.length = s.frames.length + n) ∧
          ∀ j, j < n → ∃ f, t.frames[s.frames.length + j]? = some f ∧ f.ctx = ctx ∧ f.next = m.launches.getD entry 0 ∧ f.launch = some k ∧
            f.fn = BitVec.ofNat 64 (k * 2 ^ 56 + (j + 1) * 2 ^ 49) ∧ f.regs[0] = p.words.getD 3 0 ∧ f.regs[1] = BitVec.ofNat 64 j ∧
            (∀ r : Fin 32, 2 ≤ r.val → f.regs[r] = 0) ∧ f.ht = heat ∧ f.prio = (b.extractLsb' 32 2).toNat ∧ f.det = m.det ∧
            f.inst = some i.iid ∧ f.job = some p.job ∧ f.depth = 1 ∧ (0 < gate → f.place = .gated ∨ f.place = .overflow) ∧
            (gate = 0 → f.place = .callroom ∨ f.place = .overflow)))) ∧
  (∀ (s : State) ctx c p l m i, s.ctx? ctx = some c → c.num = ctx → c.packets = p :: l → p.type = 2 → p.bad = false → s.sourcesRun ctx = true →
      (c.params.confid = true → c.tdisp = .run) → ((∃ n ∈ p.bar, ∃ w ∈ s.flight, w.id = n) → exec (.tokenPacket ctx) s = .next s) ∧
      ((∀ n ∈ p.bar, ∀ w ∈ s.flight, w.id ≠ n) → (∀ e, p.fail = some e → ∃ t, exec (.tokenPacket ctx) s = .next t ∧ Answered s t ctx c p 4 e) ∧
      (p.fail = none → s.imageOf ctx p.image = some m → s.liveInst ctx m.va = some i → p.image = m.va → s.inst? i.iid = some i →
      let b := p.words.getD 2 0
      let node := (b.extractLsb' 20 12).toNat
      let inp := (b.extractLsb' 16 3).toNat
      let known := ∃ x, m.nodes[node]? = some x ∧ inp < x.2.1
      (¬known → ∃ t, exec (.tokenPacket ctx) s = .next t ∧ Answered s t ctx c p 8 0) ∧
      (known → s.credits i.iid node inp = 0 → exec (.tokenPacket ctx) s = .next s) ∧
      (known → 0 < s.credits i.iid node inp → s.nodeFar i.iid node = false → ∃ t x d, exec (.tokenPacket ctx) s = .next t ∧
        t.inst? i.iid = some x ∧ x.count = i.count + 1 ∧ t.credits i.iid node inp = s.credits i.iid node inp - 1 ∧
        t.ctx? ctx = some d ∧ d.packets = l ∧ d.cqWaiting = c.cqWaiting ∧
        ∃ w ∈ t.flight, w.cargo = .token i.iid node inp (if b.getLsbD 35 then b.extractLsb' 0 16 else 0) (p.words.getD 3 0) ∧ w.org.ctx = ctx))))

/-- 1. An image that the first held packet names is loaded when its form is good, no check of R358 finds a breach and its segments map: it is
kept with its nodes, each at the home recorded for it (R362), its edges and entries, and the chain takes its measurement (R355, R358, R412). One whose form is broken fails with
code 1: the load log gets an entry that names a hall of the pitch, and each held packet that names the image is to be rejected in its turn (logs 86 and 114: the turn, and the hall of a breach that no stall of the
image has, are the model's choice; code 1 for an image that cannot be read is log 64).

2. Part 0 releases the sources of an instance once every part has loaded; with nothing to fire, nothing else changes. Where a part of
another package has failed, the instance is cancelled and the failure logged with that part and its hall (R321). Its frames are ready from
now on (R363). -/
def Obligations.ImageLoading : Prop :=
  (∀ (s : State) ctx c p l cut pages, s.ctx? ctx = some c → c.num = ctx → c.packets = p :: l → p.type = 1 ∨ p.type = 2 → p.bad = false →
      p.fail = none → s.imageOf ctx p.image = none → (c.params.confid = true → c.tdisp = .run) →
      let raw := s.imageBytes ctx p.image
      (∀ g u r, parseImage raw = some g → s.imageBreaches c g cut (s.segsOf c g) = [] → s.mapSegs ctx pages ((s.segsOf c g).getD []) = some (u, r) →
        ∃ t d, exec (.imageLoad ctx cut pages) s = .next t ∧ t.imageOf ctx p.image = some (u.loaded c g p.image ((s.segsOf c g).getD []) cut) ∧
          t.ctx? ctx = some d ∧ d.chain = sha384 (digestBytes c.chain ++ digestBytes (sha384 raw)) ∧ d.nimg = c.nimg + 1 ∧
          d.packets = c.packets ∧ t.frames = s.frames ∧ t.insts = s.insts) ∧
      (parseImage raw = none → ∃ t d, exec (.imageLoad ctx cut pages) s = .next t ∧ t = { s with ctxs := t.ctxs, draws := t.draws } ∧ t.ctx? ctx = some d ∧
        let names := fun (q : Packet) => (q.type == 1 || q.type == 2) && q.image == p.image && !q.bad
        d.packets = c.packets.map (fun q => if names q then { q with fail := some 1 } else q) ∧ d.cqWaiting = c.cqWaiting ∧
        ∃ st, (c.params.pitch ≠ [] → st ∈ c.params.pitch) ∧ d.loadLog = c.loadLog ++ [{ code := 1, hall := st / 512 }])) ∧
  (∀ (s : State) i x, s.inst? i = some x → x.released = false → x.live = true →
      ((∀ y ∈ x.toks, x.takes y.node y.tag = none) → ∃ t, exec (.instanceSourceRelease i true) s = .next t ∧
        t = { s with insts := t.insts, frames := t.frames } ∧ t.inst? i = some { x with released := true } ∧
        t.frames = s.frames.map fun f => if f.inst = some i then { f with since := (s.stallD f.stall).cyc } else f) ∧
      ((∃ h ∈ x.parts, 4 ≤ h) → ∃ t, exec (.instanceSourceRelease i false) s = .next t ∧
        (∀ y, t.inst? i = some y → y.live = false ∧ y.cancelled = true ∧ y.toks = []) ∧
        ∀ c, s.ctx? x.ctx = some c → ∃ d, t.ctx? x.ctx = some d ∧ ∃ k h, x.parts[k]? = some h ∧ 4 ≤ h ∧
          d.loadLog = c.loadLog ++ [{ code := 8, hall := h, part := k }]))

/-- 1. Completion entries are written in order while the queue has room, with PHASE 1 on the first pass and inverted on each later one; the
host's head frees room. The slot of a packet's launch is free for good once its entry stands (R337, R356). No entry is written while a cancelled
heat of the context that has drained still holds its cells (R253, R478). The answers 0 and 1 to a head, and the refusal of one that goes back
or passes the tail, are the model's choice (log 61).

2. A grant of an index to a context that exists is entered in place of an older one, or taken away (R339); its answer 0 is the model's
choice (log 61). -/
def Obligations.HostQueues : Prop :=
  (∀ (s : State) ctx c, s.ctx? ctx = some c → c.num = ctx →
      let n := c.params.cq.size / 16
      let drained := ∃ x ∈ s.heats, x.ctx = ctx ∧ x.live = true ∧ x.cancelled = true ∧ x.count = 0 ∧ x.pending = 0 ∧ s.heatQuiet ctx x.tag = true
      (∀ e l, c.cqWaiting = e :: l → drained → exec (.completionEntryPost ctx) s = .next s) ∧
      (∀ e l, c.cqWaiting = e :: l → c.cqTail - c.cqHead < n → ¬drained → ∃ t d, exec (.completionEntryPost ctx) s = .next t ∧ t.ctx? ctx = some d ∧
        d = { c with cqWaiting := l, cqTail := c.cqTail + 1 } ∧
        t.mem = (s.vaWrite ctx (c.params.cq.va + 16 * (c.cqTail % n)) (bytesLE (e.value c.cqTail n) 16)).mem ∧
        (∀ k x, e.frees = some k → s.launch? ctx k = some x → t.launch? ctx k = some { x with posted := true }) ∧
        (BitVec.ofNat 128 (e.value c.cqTail n)) = BitVec.ofNat 32 e.cookie ++ BitVec.ofNat 8 e.status ++ BitVec.ofNat 8 e.kind ++
          BitVec.ofNat 16 e.job ++ BitVec.ofNat 32 e.detail ++ (0 : BitVec 31) ++ BitVec.ofBool (decide (c.cqTail / n % 2 = 0))) ∧
      (∀ e l, c.cqWaiting = e :: l → n ≤ c.cqTail - c.cqHead → exec (.completionEntryPost ctx) s = .next s) ∧
      ∀ head, ∃ t, exec (.cqHeadWrite ctx head) s = .next t ∧
        if c.cqHead ≤ head ∧ head ≤ c.cqTail then t.mail = ⟨0, []⟩ ∧ t.ctx? ctx = some { c with cqHead := head }
        else t = { s with mail := ⟨1, []⟩ }) ∧
  (∀ (s : State) ctx c idx target, s.ctx? ctx = some c → idx < 4096 → (∀ n, target = some n → (s.ctx? n).isSome) →
      ∃ t d, exec (.ingressGrantSet ctx idx target) s = .next t ∧ t = { s with ctxs := t.ctxs, mail := ⟨0, []⟩ } ∧ t.ctx? ctx = some d ∧
        d = { c with grants := d.grants } ∧ (d.grants.find? (·.1 == idx)).map (·.2) = target ∧
        ∀ k, k ≠ idx → d.grants.find? (·.1 == k) = c.grants.find? (·.1 == k))

/-- 1. A CTX_CREATE within the limits of R382 makes a context that is pre-empted and holds nothing, zeroes its level-0 table, and gives it its
pitch with every stall zeroed but its clock and a tile backing of its own for each, its trace ring, and a key where it is confidential (R22,
R386, R410, R455); one outside a limit, or whose frame area is too small for the backings, is refused and nothing is created. A stall whose
state another context has saved may be given away (R452). The codes 0 and 1 are log 61, the ring's fields log 124, the frame area's layout
log 118: the model's choice.

2. CTX_RUN lets a context run again: its saved stalls resume in AVAILABLE halls, and the records handled under R437 go and their log slots
are free (R382, R435, R437). It is refused while pages are lost (R462), the interface stands in ERROR (R411) or a stall of the pitch is
suspect or absent (R4, R458). A stall given up to another pitch waits (R452; log 133). The codes 0 and 1 are log 61, and that a stall waits
for its hall is log 72: the model's choice. -/
def Obligations.ContextStart : Prop :=
  (∀ (s : State) (p : CtxParams), (s.pkg.interleave = .spread → ∀ h ∈ s.halls, h.st = .available) →
      let free := fun (st : Nat) => st < 2048 ∧ ∃ x, s.stall? st = some x ∧ (x.owner = none ∨ x.owner = some p.num ∨ x.saved = true) ∧ x.suspect = false ∧
        (s.hallD (st / 512)).st = .available
      (p.pitch = [] ∨ 512 ≤ p.num ∨ (s.ctx? p.num).isSome ∨ p.rtp % 2 ^ 20 ≠ 0 ∨ 64 ≤ p.cls ∨ p.heatPool = 0 ∨ 65536 ≤ p.heatPool ∨
        p.arena < 2 ^ 10 ∨ 2 ^ 24 < p.arena ∨ 4096 < p.redLimit ∨ p.cq.size < 1024 ∨ 65536 * 16 < p.cq.size ∨ p.frameArea.size < 2 ^ 19 * p.pitch.length ∨ (∃ st ∈ p.pitch, ¬free st) →
        exec (.ctxCreate p) s = .next { s with mail := ⟨1, []⟩ }) ∧
      (s.createOk p = true → ∃ t c, exec (.ctxCreate p) s = .next t ∧ t.mail = ⟨0, []⟩ ∧ t.ctx? p.num = some c ∧ c.preempted = true ∧
        c.params = { p with pitch := c.params.pitch } ∧ (∀ st, st ∈ c.params.pitch ↔ st ∈ p.pitch) ∧ c.params.pitch.Pairwise (· < ·) ∧
        c.hentry = 0 ∧ c.packets = [] ∧ c.counters = List.replicate 16 0 ∧ c.cqTail = 0 ∧ c.nimg = 0 ∧ c.chain = 0 ∧ c.tdisp = .unlocked ∧
        c.key = (if p.confid then some (Config.drawKey s.draws) else none) ∧ c.trace.base = p.trace.va ∧ c.trace.en = false ∧
        (∀ st x, st ∈ p.pitch → s.stall? st = some x → ∃ y, t.stall? st = some y ∧ y.owner = some p.num ∧ y.saved = true ∧ y.cyc = x.cyc ∧
          y.freq = x.freq ∧ y.store = [] ∧ y.scratch = [] ∧ y.tiles = List.replicate 64 .reset ∧ y.utlb = [] ∧ y.bcache = [] ∧
          y.counters = List.replicate 16 0) ∧
        (c.backings.map (·.1) = c.params.pitch ∧ c.backings.map (·.2) = List.range p.pitch.length) ∧
        (∀ st, st ∉ p.pitch → st < 4096 → t.stall? st = s.stall? st) ∧
        (s.ok = true → ∀ pa, t.rd8 pa = if p.rtp ≤ pa ∧ pa < p.rtp + 2 ^ 20 then 0 else s.rd8 pa))) ∧
  (∀ (s : State) ctx c, s.ctx? ctx = some c → c.num = ctx →
      (c.lostPages = true ∨ c.tdHalt = true ∨ (∃ st ∈ c.params.pitch, (s.stallD st).suspect = true) → exec (.ctxRun ctx) s = .next { s with mail := ⟨1, []⟩ }) ∧
      let done := fun (r : Rec) => r.ctx = ctx ∧ r.status = 3
      (c.lostPages = false → c.tdHalt = false → (∀ st ∈ c.params.pitch, (s.stallD st).suspect = false) →
        (∀ st ∈ c.params.pitch, 4096 ≤ st → ∃ x, s.stall? (st % 2048) = some x ∧ x.owner.isSome) →
        (∀ r ∈ s.recs, r.ctx = ctx → r.status ≠ 0) → s.recs.Pairwise (fun q r => q.rid ≠ r.rid) →
        ∃ t d, exec (.ctxRun ctx) s = .next t ∧ t.mail = ⟨0, []⟩ ∧ t.ctx? ctx = some d ∧
          d = { c with preempted := false, blocked := false, logUsed := d.logUsed } ∧
          (∀ k, k ∈ d.logUsed ↔ k ∈ c.logUsed ∧ ∀ r ∈ s.recs, done r → r.logSlot ≠ some k) ∧
          (∀ r, r ∈ t.recs ↔ r ∈ s.recs ∧ ¬done r) ∧
          t = { s with ctxs := t.ctxs, stalls := t.stalls, recs := t.recs, mail := t.mail } ∧
          ∀ st x, s.stall? st = some x → (st ∈ c.params.pitch → x.owner = some ctx) → ∃ y, t.stall? st = some y ∧
            if st ∈ c.params.pitch ∧ st < 4096 ∧ x.saved = true ∧ (s.hallD (st / 512)).st = .available then
              y.saved = false ∧ y.tiles = x.tiles ∧ y.scratch = x.scratch ∧ y.store = x.store ∧ y.jobs = x.jobs ∧ y.inPa = x.inPa ∧
                y.inVec = x.inVec ∧ y.inSpe = x.inSpe ∧ y.inPor = x.inPor
            else y = x))

/-- 1. A saved stall whose context runs resumes with everything it held, and a PREEMPT of a stall with nothing in progress saves it: its
frames leave the block engine to wait behind their inline children, in the call room or on the overflow list, its dirty tile pages stand in its backing in the context's frame area, and every page is unpinned (R452, R454, R455). It comes behind the
tokens that can arrive at nodes there and the writes of its frames. The codes and orders are the model's choice (logs 61, 69 and 75), and so
is the frame area's layout (log 118).

2. REPITCH moves the i-th stall of a hall in the old pitch to the i-th of the new one with its tiles, scratch and inboxes, its tile backing,
and the frames with them, which keep the time they have waited (R363, R455); one that keeps its place loses its block cache (R33), and a
pitch that gives a hall fewer stalls, or more stalls than the frame area has backings for, is refused (R365). The codes are the model's
choice (logs 61 and 75). -/
def Obligations.Preemption : Prop :=
  (∀ (s : State) st x, s.stall? st = some x → st < 2048 → s.storesOk = true →
      (∀ c d, x.owner = some c → s.ctx? c = some d → x.saved = true → x.suspect = false → (s.hallD (st / 512)).st = .available →
        d.preempted = false → d.blocked = false → d.tdHalt = false → (∀ n ∈ d.params.pitch, (s.stallD n).suspect = false) →
        ∃ t y, exec (.stallResume st) s = .next t ∧ t.mail = ⟨0, []⟩ ∧
          t = { s with stalls := t.stalls, mail := t.mail } ∧ StallBecomes s t st y ∧ y.saved = false ∧ y.tiles = x.tiles ∧
          y.scratch = x.scratch ∧ y.store = x.store ∧ y.jobs = x.jobs ∧ y.inPor = x.inPor ∧ y.cyc = x.cyc ∧
          y.counters = x.counters) ∧
      (s.frames.Pairwise (fun f g => f.fid ≠ g.fid) → x.saved = false → x.pa = none → x.vec = none → x.spe = [] → (∀ j ∈ x.jobs, j.round = none) →
        (∀ b ∈ s.blocks, ∀ f, s.frame? b.fid = some f → f.stall ≠ st) → (∀ w ∈ s.flight, w.cargo.isWrite = true → w.org.stall ≠ st) →
        (∀ w ∈ s.flight, ∀ i n k g v z, w.cargo = .token i n k g v → s.inst? i = some z → (z.nodes.getD n default).home ≠ st) →
        ∃ t y, exec (.preempt st) s = .next t ∧ t.mail = ⟨0, []⟩ ∧ StallBecomes s t st y ∧
          y = { x with saved := true, dirty := List.replicate 128 false, pinned := List.replicate 128 false } ∧
          ((∀ k, x.dirty.getD k false = false) → t.mem = s.mem) ∧
          (∀ n c k l, x.owner = some n → s.ctx? n = some c → c.num = n → s.ok = true →
            (∀ q, q < 128 → (x.dirty.getD q false = true ↔ q = k)) → k * 32 < 128 * (tileBanks x.roles).length →
            (c.backingVa st + k * 4096) % 4096 = 0 → s.walkVa n (c.backingVa st + k * 4096) = .ok l →
            (∀ pa, t.rd8 pa = if l.pa ≤ pa ∧ pa < l.pa + 4096 then
              spGet 0 x.store (ellAddr x.roles (k * 32 + (pa - l.pa) / 128) ((pa - l.pa) % 128)) else s.rd8 pa)) ∧
          (∀ f g, s.frame? f = some g → ∃ g', t.frame? f = some g' ∧
            if g.stall = st then
              g' = { g with place := g'.place, since := g'.since, inTable := false, spill := none, fetched := none, fetching := false } ∧
              if g.place = .resident ∨ g.place = .parked then g'.since = x.cyc ∧
                (g.inlineKids ≠ [] → g'.place = .inlineWait) ∧ (g.inlineKids = [] → g'.place = .callroom ∨ g'.place = .overflow)
              else g'.place = g.place ∧ g'.since = g.since
            else g' = g) ∧
          t.blocks = s.blocks)) ∧
  (∀ (s : State) ctx c new, s.ctx? ctx = some c → c.num = ctx → new.Pairwise (· < ·) → s.ctxIdle ctx = true → s.pitchOk ctx new = true →
      c.params.pitch.Pairwise (· < ·) →
      let inHall := fun (l : List Nat) (h : Nat) => l.filter (· / 512 == h)
      ((∃ h, h < 4 ∧ (inHall new h).length < (inHall c.params.pitch h).length) ∨ c.params.frameArea.size < 2 ^ 19 * new.length →
        exec (.repitch ctx new) s = .next { s with mail := ⟨1, []⟩ }) ∧
      ((∀ h, h < 4 → (inHall c.params.pitch h).length ≤ (inHall new h).length) → (∀ i ∈ s.images, i.ctx ≠ ctx) → (∀ st ∈ new, st < 2048) →
        2 ^ 19 * new.length ≤ c.params.frameArea.size → (∀ e ∈ c.backings, e.1 ∈ c.params.pitch) →
        (∀ st ∈ c.params.pitch, st < 2048 ∧ ∃ x, s.stall? st = some x ∧ x.owner = some ctx) → ∃ t d, exec (.repitch ctx new) s = .next t ∧ t.mail = ⟨0, []⟩ ∧ t.ctx? ctx = some d ∧
          d = { c with params := { c.params with pitch := new }, backings := d.backings } ∧ (new.length = c.params.pitch.length → t.mem = s.mem) ∧
          (∀ (h i a : Nat) x, (inHall c.params.pitch h)[i]? = some a → (inHall new h)[i]? = some a → s.stall? a = some x →
            t.stall? a = some { x with bcache := [] }) ∧
          ∀ (h i a b : Nat), (inHall c.params.pitch h)[i]? = some a → (inHall new h)[i]? = some b →
            (∀ f ∈ s.frames, f.ctx = ctx → f.stall = a → ∃ g ∈ t.frames, g = { f with stall := b, since := g.since } ∧
              (s.stallD b).cyc - g.since = (s.stallD a).cyc - f.since) ∧
            (∀ k, (a, k) ∈ c.backings → (b, k) ∈ d.backings) ∧
            ∀ x y, a ≠ b → s.stall? a = some x → s.stall? b = some y → ∃ z, t.stall? b = some z ∧ z.tiles = x.tiles ∧ z.scratch = x.scratch ∧
              z.roles = x.roles ∧ z.owner = x.owner ∧ z.saved = x.saved ∧ z.jobs.map (·.id) = x.jobs.map (·.id) ∧
              z.inPa.map (·.i) = x.inPa.map (·.i) ∧ z.inPor.map (·.i) = x.inPor.map (·.i) ∧ z.cyc = y.cyc ∧ z.freq = y.freq))

/-- 1. CTX_DESTROY of a context whose stalls are saved and whose writes have performed takes everything of it away, zeroes its stalls
and leaves every other context's frames and stalls (R22, R385). A pair of it goes back with no ways once no job of another context works
there (R403, R405). The codes, the order of the steps and what becomes of the pairs are the model's choice (logs 61, 73 and 74).

2. CTX_CHANGE of a pre-empted context sets the parameters it names and leaves the others, where each keeps its limit and the arena and the
future pool do not shrink; otherwise, and while a stall of the context runs, it is refused (R20, R382). A trace ring that is named starts afresh, not enabled, and with a
new frame area the tile backings move (R455). That the pools and rings must lie apart, and the arenas in DRAM's size, is the model's reading
(log 123); the codes (log 61), the fresh ring (log 74) and the moving of the backings (log 139) are its choice. -/
def Obligations.ContextLifetime : Prop :=
  (∀ (s : State) ctx c, s.ctx? ctx = some c → (∀ e ∈ s.stalls, e.2.owner = some ctx → e.2.saved = true) →
      (∀ st ∈ c.params.pitch, ∀ x, s.stall? st = some x → x.saved = true) →
      (∀ w ∈ s.flight, w.org.ctx = ctx → w.cargo.isWrite = false) →
      (∀ e ∈ s.stalls, ∀ j ∈ e.2.jobs, j.scratch = []) →
      ∃ t, exec (.ctxDestroy ctx) s = .next t ∧ t.mail = ⟨0, []⟩ ∧ t.ctx? ctx = none ∧
        (∀ f ∈ t.frames, f.ctx ≠ ctx) ∧ (∀ w ∈ t.flight, w.org.ctx ≠ ctx) ∧ (∀ r ∈ t.recs, r.ctx ≠ ctx) ∧ (∀ l ∈ t.launches, l.ctx ≠ ctx) ∧
        (∀ h ∈ t.heats, h.ctx ≠ ctx) ∧ (∀ i ∈ t.insts, i.ctx ≠ ctx) ∧ (∀ i ∈ t.images, i.ctx ≠ ctx) ∧ (∀ r ∈ t.reds, r.ctx ≠ ctx) ∧
        (∀ h ∈ t.halls, ∀ e ∈ h.tlb, e.ctx ≠ ctx) ∧ (∀ m ∈ t.made, m.1 ≠ ctx) ∧
        (∀ p ∈ t.pairs, p.owner ≠ some ctx) ∧
        (∀ hall pair p, s.pair? hall pair = some p → p.owner = some ctx → ∃ q, t.pair? hall pair = some q ∧ q.owner = none ∧ q.cur = 0 ∧
          q.wpr = 0 ∧ q.stt = 0) ∧
        (∀ st x, s.stall? st = some x → x.owner = some ctx → 4096 ≤ st → t.stall? st = none) ∧
        (∀ st x, s.stall? st = some x → st < 4096 ∨ x.owner ≠ some ctx → ∃ y, t.stall? st = some y ∧
          if x.owner = some ctx then y.owner = none ∧ y.tiles = List.replicate 64 .reset ∧ y.store = [] ∧ y.scratch = [] ∧ y.ranges = [] ∧
            y.utlb = [] ∧ y.cyc = x.cyc ∧ y.suspect = x.suspect else y = x) ∧
        (∀ f, f.ctx ≠ ctx → (f ∈ s.frames ↔ f ∈ t.frames)) ∧ ∀ n, n ≠ ctx → (t.ctx? n).isSome = (s.ctx? n).isSome) ∧
  (∀ (s : State) ctx c (ch : CtxChange), s.ctx? ctx = some c → c.num = ctx →
      ((∃ e ∈ s.stalls, e.2.owner = some ctx ∧ e.2.saved = false) ∨ (∃ n, ch.cls = some n ∧ 64 ≤ n) ∨ (∃ n, ch.heatPool = some n ∧ (n = 0 ∨ 65535 < n)) ∨
        (∃ n, ch.arena = some n ∧ (n < c.params.arena ∨ 2 ^ 24 < n)) ∨ (∃ n, ch.future = some n ∧ n < c.params.future.size) ∨
        (∃ n, ch.redLimit = some n ∧ 4096 < n) ∨ (∃ r, ch.frameArea = some r ∧ r.size < 2 ^ 19 * c.params.pitch.length) → exec (.ctxChange ctx ch) s = .next { s with mail := ⟨1, []⟩ }) ∧
      ((∀ e ∈ s.stalls, e.2.owner = some ctx → e.2.saved = true) → changeOk c.params ch = true → ch.future = none →
        paramsApart (changeParams c.params ch) = true → s.arenaRoom ctx (ch.arena.getD c.params.arena) = true →
        (∀ r ∈ s.recs, r.ctx = ctx → r.status ≠ 0) → ∃ t d, exec (.ctxChange ctx ch) s = .next t ∧ t.mail = ⟨0, []⟩ ∧
          t = { s with ctxs := t.ctxs, mem := t.mem, mail := t.mail } ∧ t.ctx? ctx = some d ∧ d.params.cls = ch.cls.getD c.params.cls ∧
          (ch.frameArea = none → t.mem = s.mem) ∧ d.backings = c.backings ∧
          (∀ r, ch.frameArea = some r → t.mem = (s.moveArea c r).mem) ∧
          d.params.heatPool = ch.heatPool.getD c.params.heatPool ∧ d.params.arena = ch.arena.getD c.params.arena ∧
          d.params.frameArea = ch.frameArea.getD c.params.frameArea ∧ d.params.faultLog = ch.faultLog.getD c.params.faultLog ∧
          d.params.cq = ch.cq.getD c.params.cq ∧ d.params.trace = ch.trace.getD c.params.trace ∧
          (∀ r, ch.trace = some r → d.trace.base = r.va ∧ d.trace.en = false ∧ d.trace.wptr = 0) ∧ (ch.trace = none → d.trace = c.trace) ∧ d.params.redLimit = ch.redLimit.getD c.params.redLimit ∧ d.params.future = c.params.future ∧
          d.params.pitch = c.params.pitch ∧ d.params.rtp = c.params.rtp ∧ d.params.confid = c.params.confid ∧
          d.params.debuggable = c.params.debuggable))

/-- 1. CLASS_SET takes effect at each slice's next admission boundary and is refused where the rates of a slice would pass 4,096; CLASS_GET
returns the entry and the sectors served in the last window; a boundary fills the bucket with RATE and starts a new count (R378, R383,
R384). The codes 0 and 1 are the model's choice (log 61).

2. MIGR_THRESH_SET takes 1 to 32,767 and refuses the rest; MIGR_CLEAR sets QUEUED and COUNT of its page to 0 and leaves every other
page's (R406, R407). The codes 0 and 1 are the model's choice (log 61).

3. TLB_INVAL drops every cached translation of the context that meets the range and sends a drain token behind the accesses already
translated on each of its stalls; the last token that arrives acknowledges it (R397). BLOCK_INVAL empties the context's block caches (R67).
The code 0 of the replies is the model's choice (log 61).

4. PAGE_MAP writes the entry of a 4 KiB page where the tables stand, and zeroes the page before it is mapped unless it is to keep its
content (R386, R392, R393); a misaligned or out-of-range request is refused. Pages of a confidential context that are mapped with ENC no
longer read, from then on, what the key makes of the bytes of those that are (R410; log 122). The codes 0 and 1 are log 61.

5. A mailbox access to a context that is not confidential reads or writes the bytes at its mapped addresses, and is refused for a
confidential context (R410). A read waits while a release of scope SYS that it meets has run ahead of the writes before it (R223). The codes
and the shape of the access are the model's choice (logs 61 and 87). -/
def Obligations.CacheAndPageControl : Prop :=
  (∀ (s : State) hall slice cls, slice ∈ (s.hallD hall).fuse.slices → cls < 64 →
      (∀ ways rate, s.otherRates hall slice cls + rate ≤ 4096 → ∃ t, exec (.classSet hall (some slice) cls ways rate) s = .next t ∧
        t = { s with classes := t.classes, mail := ⟨0, []⟩ } ∧
        t.classAt hall slice cls = { s.classAt hall slice cls with pending := some (ways, rate) } ∧
        ∀ h k n, ¬(h = hall ∧ k = slice ∧ n = cls) → t.classAt h k n = s.classAt h k n) ∧
      (∀ ways rate, 4096 < s.otherRates hall slice cls + rate →
        exec (.classSet hall (some slice) cls ways rate) s = .next { s with mail := ⟨1, []⟩ }) ∧
      (∃ t, exec (.classGet hall slice cls) s = .next t ∧ let e := s.classAt hall slice cls
        t = { s with mail := ⟨0, [e.rate * 2 ^ 16 + e.ways.toNat, e.last]⟩ }) ∧
      ∃ t, exec (.admissionWindow hall slice) s = .next t ∧ t = { s with classes := t.classes } ∧
        ∀ e, s.classes.find? (fun x => x.hall == hall && x.slice == slice && x.cls == cls) = some e → let n := t.classAt hall slice cls
          n.last = e.served ∧ n.served = 0 ∧ n.pending = none ∧ n.bucket = n.rate ∧
            (n.ways, n.rate) = match e.pending with | some p => p | none => (e.ways, e.rate)) ∧
  (∀ (s : State) n, exec (.migrThreshSet n) s = .next (if 1 ≤ n ∧ n ≤ 32767 then { s with pkg := { s.pkg with migrThresh := n }, mail := ⟨0, []⟩ }
        else { s with mail := ⟨1, []⟩ }) ∧
      ∃ t, exec (.migrClear n) s = .next t ∧ t = { s with pkg := { s.pkg with migr := t.pkg.migr }, mail := ⟨0, []⟩ } ∧
        t.pkg.migr.find? (·.1 == n) = none ∧ ∀ k, k ≠ n → t.pkg.migr.find? (·.1 == k) = s.pkg.migr.find? (·.1 == k)) ∧
  ((∀ (s : State) ctx va len, ∃ t, exec (.tlbInval ctx va len) s = .next t ∧ t.mem = s.mem ∧ t.frames = s.frames ∧ t.blocks = s.blocks ∧
      (let meets := fun (a n : Nat) => len = 0 ∨ (va < a + n ∧ a < va + len ∧ n ≠ 0)
       (∀ h ∈ t.halls, ∀ e ∈ h.tlb, e.ctx = ctx → ¬meets e.va (2 ^ e.lg)) ∧
       (∀ st x, t.stall? st = some x → (∀ e ∈ x.utlb, e.ctx = ctx → ¬meets e.va (2 ^ e.lg)) ∧
         (x.owner = some ctx → ∀ e ∈ x.ranges, e.v = true → ¬meets (e.base * 65536) ((e.limit + 1 - e.base) * 65536)))) ∧
      ((∀ e ∈ s.stalls, e.2.owner ≠ some ctx) → t.mail = ⟨0, []⟩) ∧
      ∀ e ∈ s.stalls, e.2.owner = some ctx → ∃ w ∈ t.flight, ∃ bar, w.cargo = .drain s.nextId e.1 bar ∧ s.nextId < w.id) ∧
    (∀ (s : State) k (w : Flight) n st bar left, s.flight[k]? = some w → w.cargo = .drain n st bar →
      (s.pkg.drains.find? (·.1 == n)) = some (n, left) →
      ((∃ id ∈ bar, s.underWay st id = true) → exec (.drainTokenArrive k) s = .next s) ∧
      ((∀ id ∈ bar, s.underWay st id = false) → ∃ t, exec (.drainTokenArrive k) s = .next t ∧
        t = { s with flight := s.flight.eraseIdx k, pkg := { s.pkg with drains := t.pkg.drains }, mail := t.mail } ∧
        if left ≤ 1 then t.mail = ⟨0, []⟩ ∧ t.pkg.drains.find? (·.1 == n) = none
        else t.mail = s.mail ∧ t.pkg.drains.find? (·.1 == n) = some (n, left - 1))) ∧
    ∀ (s : State) ctx, ∃ t, exec (.blockInval ctx) s = .next t ∧ t = { s with stalls := t.stalls, frames := t.frames, mail := ⟨0, []⟩ } ∧
      (∀ st x, s.stall? st = some x → t.stall? st = some (if x.owner = some ctx then { x with bcache := [] } else x)) ∧
      ∀ n f, s.frame? n = some f → t.frame? n = some (if f.ctx = ctx then { f with fetched := none } else f)) ∧
  (∀ (s : State) ctx c va pa (flags : BitVec 12) keep, s.ctx? ctx = some c → c.num = ctx → s.ok = true →
      (va % 4096 ≠ 0 ∨ 2 ^ 56 ≤ va ∨ pa % 4096 ≠ 0 ∨ 2 ^ 52 ≤ pa → ∀ tables,
        exec (.pageMap ctx va pa 3 flags keep tables) s = .next { s with mail := ⟨1, []⟩ }) ∧
      (∀ t1 t2 t3, va % 4096 = 0 → va < 2 ^ 56 → pa % 4096 = 0 → pa < 2 ^ 52 → paKind pa = .dram → flags.getLsbD 0 = true →
        s.mapRefused c pa 4096 = false → t1 % 4096 = 0 → t2 % 4096 = 0 → t3 % 4096 = 0 →
        let ptr := fun (e t : Nat) => e % 4 = 1 ∧ bits e 51 12 * 4096 = t
        let e0 := c.params.rtp + 8 * bits va 55 39
        let e1 := t1 + 8 * bits va 38 30
        let e2 := t2 + 8 * bits va 29 21
        let e3 := t3 + 8 * bits va 20 12
        ptr (s.rdLE e0 8) t1 → ptr (s.rdLE e1 8) t2 → ptr (s.rdLE e2 8) t3 →
        (∀ key, c.key = some key → keep = true → ∀ u r, s.mapEntry ctx va 3 (pa + flags.toNat) [] = some (u, r) →
          ∃ t, exec (.pageMap ctx va pa 3 flags keep []) s = .next t ∧ t.mail = ⟨0, []⟩ ∧
            ∀ p, let page := p / 4096 * 4096
              let sector := p / 128 * 128
              let was := decide (page ∈ s.encPages ctx)
              let now := decide (page ∈ u.encPages ctx)
              t.rd8 p = if was = now then u.rd8 p
                else (xtsSector key now (p / 128) ((List.range 128).map fun i => u.rd8 (sector + i))).getD (p % 128) 0) ∧
        ((∀ e ∈ [e0, e1, e2, e3], e + 8 ≤ pa ∨ pa + 4096 ≤ e) → c.key = none → (keep = true ∨ flags.getLsbD 8 = false ∧ flags.getLsbD 7 = false ∧ ∀ e ∈ [e0, e1, e2], e + 8 ≤ e3 ∨ e3 + 8 ≤ e) →
        ∃ t, exec (.pageMap ctx va pa 3 flags keep []) s = .next t ∧ t.mail = ⟨0, []⟩ ∧ t.rdLE e3 8 = pa + flags.toNat ∧
          t = { s with mem := t.mem, mail := t.mail, ctxs := t.ctxs } ∧
          ∀ p, (p < e3 ∨ e3 + 8 ≤ p) → t.rd8 p = if keep = false ∧ pa ≤ p ∧ p < pa + 4096 then 0 else s.rd8 p))) ∧
  (∀ (s : State) ctx c va len data, s.ctx? ctx = some c →
      (c.params.confid = true → exec (.mailboxMemoryAccess ctx va len data) s = .next { s with mail := ⟨1, []⟩ }) ∧
      (c.params.confid = false → va + len ≤ 2 ^ 56 →
        (∀ i, i < len → ∃ l, s.walkVa ctx (va + i) = .ok l ∧ s.readLost l.pa = false ∧ paKind l.pa = .dram) →
        (s.earlyIn ctx va len = false → exec (.mailboxMemoryAccess ctx va len none) s = .next { s with mail := ⟨0, (List.range len).map fun i =>
          match s.walkVa ctx (va + i) with | .ok l => (s.rd8 l.pa).toNat | .error _ => 0⟩ }) ∧
        ∀ d, d.length = len → ∃ t, exec (.mailboxMemoryAccess ctx va len (some d)) s = .next t ∧ t.mail = ⟨0, []⟩ ∧
          t = { s with mem := t.mem, mail := t.mail } ∧ t.mem = (s.vaWrite ctx va d).mem ∧
          ∀ l, len = 1 → s.walkVa ctx va = .ok l → s.ok = true → t.rd8 l.pa = d.headD 0 ∧ ∀ p, p ≠ l.pa → t.rd8 p = s.rd8 p))

/-- 1. PAIR_DELEGATE gives a free pair to a context and maps its control page, readable and writable; a pair that has a holder is refused.
PAIR_RELEASE starts the change to no ways, after any change in progress, and takes a pair without ways back at once (R405). The codes 0 and 1
are the model's choice (log 61).

2. A store to WPR above 16 sets ERR to RANGE, one during a change to BUSY, and neither changes anything else; another starts a change, and
the same value makes only the hurdle arrival: an update by 1 is on its way to the hurdle at WPR_HURDLE, whose address the pair's context
translates; one that is misaligned or does not translate is reported, by a hall unit (R235, R404; the unit is log 77). WPR_HURDLE takes the
low 56 bits, WPR_STATUS takes nothing (R401, R402).

3. Phase 1 of a change ends when no job accepted before it with a footprint in the removed range is left, and a shrink then discards that
range, a growth the lines of the ways it takes; when phase 2 ends the new value is in force, a growth reads zero, and the hurdle has its arrival (R403, R404). A change that releases the pair takes it back at its end (R405). -/
def Obligations.SlicePairs : Prop :=
  (∀ (s : State) hall pair p, s.pair? hall pair = some p →
      (∀ ctx c va tables, s.ctx? ctx = some c →
        (p.owner.isSome → exec (.pairDelegate ctx hall pair va tables) s = .next { s with mail := ⟨1, []⟩ }) ∧
        ∀ u r, p.owner = none → p.stt = 0 → va % 4096 = 0 → va < 2 ^ 56 → s.vaMapped ctx va 4096 = false →
          s.mapEntry ctx va 3 (0xE * 2 ^ 48 + p.hall * 2 ^ 44 + p.pair * 2 ^ 38 + 15) tables = some (u, r) →
          ∃ t, exec (.pairDelegate ctx hall pair va tables) s = .next t ∧ t.mail = ⟨0, []⟩ ∧ t.mem = u.mem ∧
            t.pair? hall pair = some { p with owner := some ctx, ctrlVa := va }) ∧
      (p.owner = none → exec (.pairRelease hall pair) s = .next { s with mail := ⟨1, []⟩ }) ∧
      ∀ ctx, p.owner = some ctx →
        (p.stt ≠ 0 → exec (.pairRelease hall pair) s = .next s) ∧
        (p.stt = 0 → p.cur ≠ 0 → ∃ t q, exec (.pairRelease hall pair) s = .next t ∧ t = { s with pairs := t.pairs } ∧
          t.pair? hall pair = some q ∧ q = { p with wpr := 0, err := 0, stt := 1, target := 0, mark := s.pkg.acceptNo, releasing := true, org := q.org }) ∧
        (p.stt = 0 → p.cur = 0 → ∃ t q, exec (.pairRelease hall pair) s = .next t ∧ t.pair? hall pair = some q ∧ q.owner = none ∧ q.hva = 0 ∧
          q.cur = 0)) ∧
  (∀ (s : State) k (w : Flight) a (d : W64) r p, s.flight[k]? = some w → w.cargo = .store a d r false → paKind a.pa = .control →
      s.writeOrder w = true → s.writeClear w a = true → s.accLost a false = false → s.pairAt? a.pa = some p → p.owner = some w.org.ctx →
      s.pair? p.hall p.pair = some p →
      let v := d.toNat % 32
      let becomes := fun (i : Instr) (q : Pair) => ∃ t, exec i s = .next t ∧ t.pair? p.hall p.pair = some q ∧ t.flight = s.flight.eraseIdx k ∧
        t.mem = s.mem ∧ t.frames = s.frames ∧ t.blocks = s.blocks
      (a.pa % 4096 = 0 →
        (16 < v → becomes (.wprWrite k) { p with err := 2 }) ∧
        (v ≤ 16 → p.stt ≠ 0 → becomes (.wprWrite k) { p with err := 1 }) ∧
        (v ≤ 16 → p.stt = 0 → v ≠ p.cur → becomes (.wprWrite k)
          { p with wpr := v, err := 0, stt := 1, target := v, mark := s.pkg.acceptNo, releasing := false, org := some w.org }) ∧
        (v = p.cur → v ≤ 16 → p.stt = 0 → p.hva = 0 → becomes (.wprWrite k) { p with err := 0, wpr := v }) ∧
        (v = p.cur → v ≤ 16 → p.stt = 0 → p.hva ≠ 0 → ∃ t, exec (.wprWrite k) s = .next t ∧ t.pair? p.hall p.pair = some { p with err := 0, wpr := v } ∧
          PairArrives { s with flight := s.flight.eraseIdx k, pairs := t.pairs } t p w.org)) ∧
      (a.pa % 4096 = 16 → becomes (.registerWrite k) { p with hva := d.toNat % 2 ^ 56 }) ∧
      (a.pa % 4096 = 8 → becomes (.registerWrite k) p)) ∧
  (∀ (s : State) hall pair p, s.pair? hall pair = some p → p.hall = hall → p.pair = pair → s.ok = true →
      let lo := 0xF * 2 ^ 48 + hall * 2 ^ 44 + pair * 2 ^ 38
      (p.stt = 1 → s.pairBusy p = true → exec (.wprPhase1End hall pair) s = .next s) ∧
      (p.stt = 1 → s.pairBusy p = false → ∃ t, exec (.wprPhase1End hall pair) s = .next t ∧ t.pair? hall pair = some { p with stt := 2 } ∧
        (p.cur ≤ p.target → ∀ x ∈ t.l2, x.hall = hall → x.slice / 2 = pair → ∀ l ∈ x.lines, l.way + p.target < 16) ∧
        ∀ pa, t.rd8 pa = if p.target < p.cur ∧ lo + p.target * 2 ^ 20 ≤ pa ∧ pa < lo + p.cur * 2 ^ 20 then 0 else s.rd8 pa) ∧
      (p.stt = 2 → p.releasing = false → p.hva = 0 → (∀ e ∈ s.stalls, ∀ j ∈ e.2.jobs, j.st ≠ .held) →
        ∃ t, exec (.wprChangeEnd hall pair) s = .next t ∧ t.pair? hall pair = some { p with cur := p.target, stt := 0 } ∧
          ∀ pa, t.rd8 pa = if p.cur < p.target ∧ lo + p.cur * 2 ^ 20 ≤ pa ∧ pa < lo + p.target * 2 ^ 20 then 0 else s.rd8 pa) ∧
      (∀ o, p.stt = 2 → p.releasing = false → p.hva ≠ 0 → p.org = some o → (∀ e ∈ s.stalls, ∀ j ∈ e.2.jobs, j.st ≠ .held) →
        p.target ≤ p.cur →
        ∃ t, exec (.wprChangeEnd hall pair) s = .next t ∧ t.pair? hall pair = some { p with cur := p.target, stt := 0 } ∧ PairArrives { s with pairs := t.pairs } t p o) ∧
      (p.stt = 2 → p.releasing = true → (∀ e ∈ s.stalls, ∀ j ∈ e.2.jobs, j.st ≠ .held) → ∃ t q, exec (.wprChangeEnd hall pair) s = .next t ∧
        t.pair? hall pair = some q ∧ q.cur = p.target ∧ q.stt = 0 ∧ (p.owner.isSome → q.owner = none ∧ q.hva = 0)))

/-- 1. ATTEST returns the report of R412, 8,448 bytes: version, context, flags, pitch, image count, the nonce, the firmware's hash, the chain and
the identity hash, and two signatures over bytes 0 to 207, of which the length alone is stated: their values the spec leaves open. The code 0
is the model's choice (log 61).

2. The TDISP states of a confidential context's interface: LOCKED from UNLOCKED, RUN from LOCKED, and back; ERROR is left by an unlock. An
interface that runs after an ERROR lets its context go on; every other request is refused (R411). R411 names the states; which request leads
from which to which, and the codes, are the model's choice (logs 140 and 61).

3. CNT_READ of a stall's or a context's counter returns it; from outside a confidential context shows only ACTIVE and the porter's bytes as
one sum (R431, R433). How a read is answered is the model's choice (logs 61 and 79).

4. Debug commands on a debuggable context from an allowed source (R415): DBG_BP and DBG_WP write an entry with its reserved bits 0 and
refuse a range out of limits (R416); DBG_HALT marks the frames of a launch or of the context (R421); DBG_RESUME lets a stopped frame
go on from where it waits, with its PASS and STEP (R422), and answers GONE for a held one (R451); DBG_READ and DBG_WRITE read a frame and
write a register of a stopped one, held or not. The order in which DBG_READ lists a frame is log 78, and the codes 0, 1 and 4, with 1 for a
frame that is not stopped, are log 61: the model's choice.

5. A debug command from a source that is not allowed answers SEALED, and one for a context that is not debuggable NOT_DEBUGGABLE; neither
changes anything (R414, R415; the codes 3 and 2 are the model's own, log 61). -/
def Obligations.SecurityAndDebug : Prop :=
  (∀ (s : State) ctx c nonce, s.ctx? ctx = some c → c.num < 512 → ∃ t body sigs, exec (.attest ctx nonce) s = .next t ∧
      t = { s with mail := ⟨0, body ++ sigs⟩ } ∧ body.length = 208 ∧ sigs.length = 8240 ∧
      let le := fun (o n : Nat) => ((body.drop o).take n).foldr (fun b a => b + 256 * a) 0
      le 0 4 = 1 ∧ le 4 2 = c.num ∧ le 6 2 = (if c.params.debuggable then 1 else 0) + (if c.params.confid then 2 else 0) ∧
        le 8 4 = c.params.pitch.length % 2 ^ 32 ∧ le 12 4 = c.nimg % 2 ^ 32 ∧ le 16 32 = nonce.toNat ∧ (body.drop 96).take 48 = (digestBytes c.chain).map (·.toNat) ∧
        (body.drop 48).take 48 = (digestBytes Config.firmwareHash).map (·.toNat) ∧
        (body.drop 144).take 48 = (digestBytes Config.deviceIdHash).map (·.toNat) ∧ (body.drop 192) = List.replicate 16 0) ∧
  (∀ (s : State) ctx c req, s.ctx? ctx = some c → c.num = ctx →
      let next := match c.tdisp, req with
        | .unlocked, .lock => some Tdisp.locked
        | .locked, .run => some .run
        | .locked, .stop => some .unlocked
        | .run, .stop => some .unlocked
        | .locked, .unlock => some .unlocked
        | .error, .unlock => some .unlocked
        | _, _ => none
      (c.params.confid = false ∨ next = none → exec (.tdispRequest ctx req) s = .next { s with mail := ⟨1, []⟩ }) ∧
      ∀ n, c.params.confid = true → next = some n → ∃ t d, exec (.tdispRequest ctx req) s = .next t ∧ t.mail = ⟨0, []⟩ ∧ t.ctx? ctx = some d ∧
        d = { c with tdisp := n, tdHalt := d.tdHalt } ∧ (d.tdHalt = true ↔ c.tdHalt = true ∧ n ≠ .run) ∧
        t = { s with ctxs := t.ctxs, stalls := t.stalls, mail := t.mail }) ∧
  (∀ (s : State) ofStall which k ok l o, k < 16 → l.length = 16 →
      (ofStall = true → (s.stall? which).map (·.counters) = some l ∧ o = ((s.stall? which).bind (·.owner)).bind s.ctx?) →
      (ofStall = false → (s.ctx? which).map (·.counters) = some l ∧ o = s.ctx? which) →
      let answers := fun (n : Nat) => exec (.cntRead ofStall which k ok) s = .next { s with mail := ⟨0, [n]⟩ }
      (∀ v, l[k]? = some v → ok = true → (∀ c, o = some c → c.params.confid = true → c.tdisp = .run) → answers v) ∧
      ∀ c, o = some c → c.params.confid = true → ok = false ∨ c.tdisp ≠ .run →
        (k = 0 → answers (l.getD 0 0)) ∧ (k = 7 ∨ k = 8 → answers ((l.getD 7 0 + l.getD 8 0) % 2 ^ 64)) ∧
        (k ≠ 0 → k ≠ 7 → k ≠ 8 → exec (.cntRead ofStall which k ok) s = .next { s with mail := ⟨3, []⟩ })) ∧
  (∀ (s : State) ctx c, s.ctx? ctx = some c → c.num = ctx → c.params.debuggable = true → (c.params.confid = true → c.tdisp = .run) →
      (∀ idx e, idx < 8 → ∃ t, exec (.dbgBp ctx idx e true) s = .next t ∧ t = { s with ctxs := t.ctxs, mail := ⟨0, []⟩ } ∧
        t.ctx? ctx = some { c with bps := c.bps.set idx ((0 : BitVec 8) ++ e.extractLsb' 4 52 ++ (0 : BitVec 3) ++ e.extractLsb' 0 1) }) ∧
      (∀ idx (e : W128), let lsz := (e.extractLsb' 104 5).toNat
        ∃ t, exec (.dbgWp ctx idx e true) s = .next t ∧
          if idx < 8 ∧ 3 ≤ lsz ∧ lsz ≤ 30 ∧ (e.extractLsb' 0 56).toNat % 2 ^ lsz = 0 then
            t = { s with ctxs := t.ctxs, mail := ⟨0, []⟩ } ∧
              t.ctx? ctx = some { c with wps := c.wps.set idx (e.extractLsb' 104 24 ++ (0 : BitVec 48) ++ e.extractLsb' 0 56) }
          else t = { s with mail := ⟨1, []⟩ }) ∧
      (∀ slot, (∀ k, slot = some k → (s.launch? ctx k).isSome) → ∃ t, exec (.dbgHalt ctx slot true) s = .next t ∧
        t = { s with frames := t.frames, mail := ⟨0, []⟩ } ∧ ∀ i f, s.frame? i = some f → t.frame? i = some
          (if f.ctx = ctx ∧ f.stopped = none ∧ (∀ k, slot = some k → (f.launch.orElse fun _ => f.nodeLaunch) = some k) then { f with halt := true } else f)) ∧
      ∀ ref,
        (s.byRef ctx ref = none → (∀ p q, exec (.dbgResume ctx ref p q true) s = .next { s with mail := ⟨4, []⟩ }) ∧
          (∀ r v, exec (.dbgWrite ctx ref r v true) s = .next { s with mail := ⟨4, []⟩ }) ∧
          exec (.dbgRead ctx (.frame ref) true) s = .next { s with mail := ⟨4, []⟩ }) ∧
        ∀ f, s.byRef ctx ref = some f → s.frame? f.fid = some f →
          (∃ t, exec (.dbgRead ctx (.frame ref) true) s = .next t ∧ t = { s with mail := t.mail } ∧ t.mail.status = 0 ∧
            (∀ r : Fin 32, t.mail.data[r.val]? = some f.regs[r].toNat) ∧ t.mail.data[32]? = some f.fn.toNat ∧ t.mail.data[33]? = some f.bsq.toNat) ∧
          (f.held = true → ∀ p q, exec (.dbgResume ctx ref p q true) s = .next { s with mail := ⟨4, []⟩ }) ∧
          (f.stopped = none → (f.held = false → ∀ p q, exec (.dbgResume ctx ref p q true) s = .next { s with mail := ⟨1, []⟩ }) ∧
            ∀ r v, exec (.dbgWrite ctx ref r v true) s = .next { s with mail := ⟨1, []⟩ }) ∧
          (f.stopped.isSome → (f.held = false → ∀ p q, ∃ t, exec (.dbgResume ctx ref p q true) s = .next t ∧ t = { s with frames := t.frames, mail := ⟨0, []⟩ } ∧
              t.frame? f.fid = some { f with stopped := none, pass := p, stp := q, since := (s.stallD f.stall).cyc }) ∧
            ∀ r v, ∃ t, exec (.dbgWrite ctx ref r v true) s = .next t ∧ t = { s with frames := t.frames, mail := ⟨0, []⟩ } ∧
              t.frame? f.fid = some { f with regs := f.regs.setIfInBounds r.toNat v })) ∧
  (∀ (s : State) ctx c ok i, s.ctx? ctx = some c →
      (∃ n e, i = Instr.dbgBp ctx n e ok) ∨ (∃ n e, i = Instr.dbgWp ctx n e ok) ∨ (∃ n, i = Instr.dbgHalt ctx n ok) ∨
        (∃ n p q, i = Instr.dbgResume ctx n p q ok) ∨ (∃ n, i = Instr.dbgRead ctx n ok) ∨ (∃ n r v, i = Instr.dbgWrite ctx n r v ok) ∨
        (∃ a b, i = Instr.traceSet ctx a b ok) →
      (ok = false ∨ c.params.confid = true ∧ c.tdisp ≠ .run → exec i s = .next { s with mail := ⟨3, []⟩ }) ∧
      (ok = true → (c.params.confid = true → c.tdisp = .run) → c.params.debuggable = false → exec i s = .next { s with mail := ⟨2, []⟩ }))

/-- 1. TRACE_SET sets the ring and its controls and restarts WPTR, RPTR and LOST; a base off a page, a LOGN outside 6 to 26 and, for a
confidential context, a ring off its ENC pages are refused (R426). Once a full ring has room, what it held back is written in order, one
record after another as long as there is room, and behind a record of what was lost (R427). The codes are the model's choice (log 61), and
that a held record is one of an event that has happened already is log 135.

2. A step of a critical-path walk leaves its stall, and goes on to the origin of its history entry until that is an ingress, lies in another
package, or is step 255; a missing entry ends the walk (R430). The first of those from its stall goes first (R377). -/
def Obligations.Tracing : Prop :=
  (∀ (s : State) ctx c, s.ctx? ctx = some c → c.num = ctx → c.params.debuggable = true → (c.params.confid = true → c.tdisp = .run) →
      (∀ w0 w1 : W64, let base := (w0.extractLsb' 0 56).toNat
        let logn := (w1.extractLsb' 35 5).toNat
        (base % 4096 ≠ 0 ∨ logn < 6 ∨ 26 < logn → exec (.traceSet ctx w0 w1 true) s = .next { s with mail := ⟨1, []⟩ }) ∧
        let enc := ∀ k, base / 4096 ≤ k → k ≤ (base + 64 + 32 * 2 ^ logn - 1) / 4096 → ∃ x, s.walkVa ctx (k * 4096) = .ok x ∧ x.attr.enc = true
        (c.params.confid = true → ¬enc → exec (.traceSet ctx w0 w1 true) s = .next { s with mail := ⟨1, []⟩ }) ∧
        (base % 4096 = 0 → 6 ≤ logn → logn ≤ 26 → base + 64 + 32 * 2 ^ logn ≤ 2 ^ 56 → c.params.confid = false ∨ enc →
          ∃ t d, exec (.traceSet ctx w0 w1 true) s = .next t ∧ t.mail = ⟨0, []⟩ ∧ t.ctx? ctx = some d ∧ d = { c with trace := d.trace } ∧
            d.trace.base = base ∧ d.trace.ctl = w1 ∧ d.trace.wptr = 0 ∧ d.trace.lost = 0 ∧ d.trace.lostTotal = 0 ∧ d.trace.waiting = [] ∧
            t.mem = (s.vaWrite ctx base (List.replicate 24 0)).mem)) ∧
      (c.trace.waiting = [] → c.trace.lost = 0 → exec (.traceRoomReturn ctx) s = .next s) ∧
      (c.trace.lost ≠ 0 → s.ringFull c = false → ∃ u d, exec (.traceRoomReturn ctx) s = exec (.traceRoomReturn ctx) u ∧
        u = { s with ctxs := u.ctxs, mem := u.mem } ∧ (∀ n, n ≠ ctx → u.ctx? n = s.ctx? n) ∧
        u.ctx? ctx = some d ∧ d = { c with trace := { c.trace with lost := 0, wptr := (c.trace.wptr + 1) % 2 ^ 64 } } ∧
        u.mem = ((s.vaWrite ctx (c.trace.base + 64 + 32 * (c.trace.wptr % 2 ^ c.trace.logn))
          (bytesLE (c.trace.lost * 2 ^ 80 + ctx * 2 ^ 19 + 0x7FF * 2 ^ 8 + 11) 32)).vaWrite ctx c.trace.base (bytesLE (c.trace.wptr + 1) 8)).mem) ∧
      (∀ bs l, c.trace.waiting = bs :: l → c.trace.lost = 0 → s.ringFull c = false → ∃ u d,
        exec (.traceRoomReturn ctx) s = exec (.traceRoomReturn ctx) u ∧
        u = { s with ctxs := u.ctxs, mem := u.mem } ∧ (∀ n, n ≠ ctx → u.ctx? n = s.ctx? n) ∧
        u.ctx? ctx = some d ∧ d = { c with trace := { c.trace with waiting := l, wptr := (c.trace.wptr + 1) % 2 ^ 64 } } ∧
        u.mem = ((s.vaWrite ctx (c.trace.base + 64 + 32 * (c.trace.wptr % 2 ^ c.trace.logn)) bs).vaWrite ctx c.trace.base
          (bytesLE (c.trace.wptr + 1) 8)).mem) ∧
      ((∀ bs l, c.trace.waiting = bs :: l → c.trace.lost = 0 → s.ringFull c = true → exec (.traceRoomReturn ctx) s = .next s))) ∧
  (∀ (s : State) k (w : Flight) id step fn bsq, s.flight[k]? = some w → w.cargo = .walkStep id step fn bsq →
      let first := ∀ e ∈ s.flight, e.id < w.id → e.org.stall = w.org.stall → ∀ a b c d, e.cargo ≠ .walkStep a b c d
      (¬first → exec (.critPathWalkStep k) s = .next s) ∧
      (first → ∃ t, exec (.critPathWalkStep k) s = .next t ∧ t.frames = s.frames ∧ t.blocks = s.blocks ∧
        match (s.stallD w.stall).hist.find? (fun e => e.fn == fn && e.bsq == bsq) with
        | none => t.flight = s.flight.eraseIdx k
        | some e =>
          if e.arr.edge = 7 ∨ e.arr.far = true ∨ step = 255 then t.flight = s.flight.eraseIdx k
          else
            let there := ((s.flight.eraseIdx k).filter fun (x : Flight) => x.stall == e.arr.stall &&
              (match x.cargo with | .walkStep _ _ _ _ => true | _ => false)).length
            (8 ≤ there → t.flight = s.flight.eraseIdx k) ∧
            (there < 8 → ∃ x, t.flight = s.flight.eraseIdx k ++ [x] ∧ x.cargo = .walkStep id (step + 1) e.arr.fn e.arr.bsq ∧
              x.stall = e.arr.stall)))

/-- 1. The pacer: an OPEN takes the wanted number of least starting slots whose diagonals are free and answers the first, or NO_SLOTS; a CLOSE
drops every slot of its connection, or answers NO_CONN; a QUERY answers the first slot; the edits of a hall take effect together at a period
boundary (R373, R375). The numbers of a router's ports and the slot of the ejection hop are the model's reading (log 80), the codes its
choice (log 61).

2. TRANSPORT_PARAMETER_SET takes the package's number, address and congestion parameters (R323). A module above 2,400 W, and a hall above
105 °C, lowers the islands named, a stall's to 0.25 GHz at the least, and never raises one; at least one is lowered, of the module's or of
the hall's, while any can be; a hall at 115 °C is FAILED (R5, R7, R463; the numbers of a hall's own islands and their floor, and the code
of the reply, are the model's choice, logs 115, 83 and 61).

3. A flit that fails its check, a packet that a fabric trims and a packet a link loses are sent again and change nothing (R322, R323, R459);
a bridge packet whose retained copy is lost as well ends its instance, also that of the frame whose store it was, counts no more, and is
reported to its context (R459). How a repair is shown is the model's choice (logs 80 and 82), and what becomes of its count is log 134. -/
def Obligations.LinksAndPower : Prop :=
  (∀ (s : State) hall (cmd : W64),
      let conn := (cmd.extractLsb' 48 12).toNat
      let n := (cmd.extractLsb' 40 8).toNat
      let src := (cmd.extractLsb' 29 11).toNat
      let dst := (cmd.extractLsb' 18 11).toNat
      let here := routersOk hall cmd = true
      let view := s.pacerView hall
      let diag := fun (k : Nat) => diagonal hall conn src dst k
      let free := (List.range 64).filter fun k => (diag k).all fun v => view.all fun x => !(x.hall == v.hall && x.router == v.router && x.port == v.port && x.slot == v.slot)
      let held := (List.range 64).filter fun k => (diag k).all fun v => view.contains v
      (cmd.extractLsb' 60 4 = 1 → here → 1 ≤ n → n ≤ 64 → n ≤ free.length → exec (.pacerOpen hall cmd) s = .next { s with
        vedits := s.vedits ++ [⟨hall, true, (free.take n).flatMap diag⟩], mail := ⟨0, [free.headD 0]⟩ }) ∧
      (cmd.extractLsb' 60 4 = 1 → here → free.length < n → exec (.pacerOpen hall cmd) s = .next { s with mail := ⟨1, []⟩ }) ∧
      (cmd.extractLsb' 60 4 = 2 → here → held ≠ [] → exec (.pacerClose hall cmd) s = .next { s with
        vedits := s.vedits ++ [⟨hall, false, held.flatMap diag⟩], mail := ⟨0, []⟩ }) ∧
      (cmd.extractLsb' 60 4 = 2 → held = [] → exec (.pacerClose hall cmd) s = .next { s with mail := ⟨2, []⟩ }) ∧
      (cmd.extractLsb' 60 4 = 3 → here → ∀ k l, held = k :: l → exec (.pacerQuery hall cmd) s = .next { s with mail := ⟨0, [k]⟩ }) ∧
      (cmd.extractLsb' 60 4 = 3 → held = [] → exec (.pacerQuery hall cmd) s = .next { s with mail := ⟨2, []⟩ }) ∧
      exec (.slotTableUpdate hall) s = .next { s with vslots := view, vedits := s.vedits.filter fun e => e.hall != hall }) ∧
  (∀ (s : State),
      (∀ p, exec (.transportParameterSet p) s = .next { s with pkg := { s.pkg with transport := p }, mail := ⟨0, []⟩ }) ∧
      (∀ watts islands, (watts ≤ 2400 → exec (.powerEnvelopeExceeded watts islands) s = .next s) ∧
        (2400 < watts →
          (s.canLower = true → (∃ e ∈ islands, (e.1 < 2048 ∧ ∃ x, s.stall? e.1 = some x ∧ max 4 e.2 < x.freq) ∨
            ∃ h k f, e.1 = 2048 + 4 * h + k ∧ k < 4 ∧ h < s.halls.length ∧ (s.hallD h).islands[k]? = some f ∧ max 1 e.2 < f)) →
          ∃ t, exec (.powerEnvelopeExceeded watts islands) s = .next t ∧
          t = { s with stalls := t.stalls, halls := t.halls, pkg := { s.pkg with watts := watts } } ∧
          (∀ h k f, h < s.halls.length → k < 4 → (s.hallD h).islands[k]? = some f → ∃ g, (t.hallD h).islands[k]? = some g ∧ g ≤ f ∧
            (∀ e ∈ islands, e.1 = 2048 + 4 * h + k → g ≤ max 1 e.2) ∧ ((∀ e ∈ islands, e.1 ≠ 2048 + 4 * h + k) → g = f)) ∧
          ∀ st x, st < 2048 → s.stall? st = some x → ∃ f, t.stall? st = some { x with freq := f } ∧ f ≤ x.freq ∧ (∀ e ∈ islands, e.1 = st → f ≤ max 4 e.2) ∧
            (4 ≤ x.freq → 4 ≤ f) ∧ ((∀ e ∈ islands, e.1 ≠ st) → f = x.freq))) ∧
      ∀ hall temp islands, hall < s.halls.length → (temp ≤ 105 → exec (.junctionLimit hall temp islands) s = .next s) ∧
        let lowers := ∃ e ∈ islands, (e.1 < 2048 ∧ e.1 / 512 = hall ∧ ∃ x, s.stall? e.1 = some x ∧ max 4 e.2 < x.freq) ∨
          ∃ k f, e.1 = 2048 + 4 * hall + k ∧ k < 4 ∧ (s.hallD hall).islands[k]? = some f ∧ max 1 e.2 < f
        let room := (∃ e ∈ s.stalls, e.1 < 2048 ∧ e.1 / 512 = hall ∧ 4 < e.2.freq) ∨ ∃ f ∈ (s.hallD hall).islands, 1 < f
        (105 < temp → room → ¬lowers → exec (.junctionLimit hall temp islands) s = .next s) ∧
        (105 < temp → (room → lowers) → ∃ t, exec (.junctionLimit hall temp islands) s = .next t ∧ t = { s with stalls := t.stalls, halls := t.halls } ∧
          t.hallD hall = { s.hallD hall with temp := temp, st := if 115 ≤ temp then .failed else (s.hallD hall).st,
                                             islands := (t.hallD hall).islands } ∧
          (∀ k f, k < 4 → (s.hallD hall).islands[k]? = some f → ∃ g, (t.hallD hall).islands[k]? = some g ∧ g ≤ f ∧
            ∀ e ∈ islands, e.1 = 2048 + 4 * hall + k → g ≤ max 1 e.2) ∧
          ∀ st x, st < 2048 → s.stall? st = some x → ∃ f, t.stall? st = some { x with freq := f } ∧ f ≤ x.freq ∧ (st / 512 ≠ hall → f = x.freq) ∧
            (st / 512 = hall → ∀ e ∈ islands, e.1 = st → f ≤ max 4 e.2))) ∧
  (∀ (s : State) n seq,
      let again := fun (link : Nat) => ({ s with pkg := { s.pkg with replayed := s.pkg.replayed ++ [(link, seq)] } } : State)
      (n < 4 → exec (.bridgeFlitBadCheck n seq) s = .next (again n) ∧ exec (.replayEntryLost n seq true) s = .next (again n)) ∧
      exec (.uePacketTrimmed seq) s = .next (again 12) ∧
      (n < 8 → n % 2 ∈ (s.hallD (n / 2)).fuse.ports →
        exec (.linkLevelRetry n seq true) s = .next (again (4 + n)) ∧ exec (.linkLevelRetry n seq false) s = .next (again 12)) ∧
      (∀ w i x c, n < 4 → s.flight[seq]? = some w →
        (∃ node inp tag v, w.cargo = .token i node inp tag v) ∨ (∃ a d r m, w.cargo = .store a d r m) ∧ w.org.inst = some i →
        s.inst? i = some x → s.ctx? w.org.ctx = some c →
        (∀ r ∈ s.recs, r.rid < s.nextId) → (∀ r ∈ s.recs, ¬(r.status = 0 ∧ r.heldFid = none)) →
        ∃ t, exec (.replayEntryLost n seq false) s = .next t ∧ (∀ y, t.inst? i = some y → y.cancelled = true ∧ y.live = false) ∧
          ∃ r ∈ t.recs, r.ctx = w.org.ctx ∧ r.cls = Cls.dataError ∧ r.eng = 7))

/-- 1. Staged start: power-good brings stage A; firmware that fails either of its two signatures leaves the package there, and otherwise stage B
chooses the interleave and every hall starts; in stage C a hall below 304 stalls, 76 slices or 60 channels is FAILED, and one whose Ethernet
ports would leave the package below 7, and another AVAILABLE, with its enabled stalls and the slice pairs both of whose slices it has (R3,
R4, R388, R413, R460, R461; that the ports are counted over the halls AVAILABLE so far is the model's choice, log 116). No pair holds an
absent slice and no pitch an absent stall: the context keeps that stall's saved state under a number of its own (log 133). The code 1 of
refused firmware is log 61.

2. HALL_STATUS returns each hall's state by its code and FUSE_READ the part number and each hall's bitmaps; LOST_CLEAR takes a sector off
the lost list of its hall (R1, R457, R461). The codes, the layout and its order are the model's choice (logs 61 and 117).

3. HALL_RESET of an AVAILABLE or FAILED hall brings it to RESETTING; every context with stalls or pages there waits for CTX_RUN and is told
by an entry of KIND 8, and after COLD one with pages there may not run. Where no context exists: the TLB and the remote-tile store are empty and the clocks of the
hall's stalls stand at 0, its islands at 1 GHz; COLD loses its DRAM and WARM keeps it (R29, R462). Any other hall is refused. The codes and
the order of the steps are the model's choice (logs 61, 62 and 81). -/
def Obligations.HallLifetime : Prop :=
  (∀ (s : State),
      (s.pkg.stage = 0 → exec .powerGood s = .next { s with pkg := { s.pkg with stage := 1 } }) ∧
      (∀ il, s.pkg.stage = 1 →
        (∀ rsa slh, (rsa && slh) = false → exec (.stageB ⟨rsa, slh⟩ il) s = .next { s with mail := ⟨1, []⟩ }) ∧
        exec (.stageB ⟨true, true⟩ il) s = .next { s with pkg := { s.pkg with stage := 2, interleave := il },
                                                          halls := s.halls.map fun h => { h with st := if h.st = .off then .starting else h.st } }) ∧
      ∀ hall fuse, s.pkg.stage = 2 → hall < s.halls.length → (s.hallD hall).st = .starting ∨ (s.hallD hall).st = .resetting →
        fuse.stalls.Pairwise (· < ·) → fuse.slices.Pairwise (· < ·) → fuse.channels.Pairwise (· < ·) → fuse.ports.Pairwise (· < ·) →
        (∀ n ∈ fuse.stalls, n < 320) → (∀ n ∈ fuse.slices, n < 80) → (∀ n ∈ fuse.channels, n < 64) → (∀ n ∈ fuse.ports, n < 2) →
        let absent := fun (k : Nat) => if k = hall then 2 - fuse.ports.length
          else if (s.hallD k).st = .available then 2 - (s.hallD k).fuse.ports.length else 0
        ∃ t, exec (.stageC hall fuse) s = .next t ∧ t.hallD hall = { s.hallD hall with st := (t.hallD hall).st, fuse := fuse } ∧
          if 304 ≤ fuse.stalls.length ∧ 76 ≤ fuse.slices.length ∧ 60 ≤ fuse.channels.length ∧
            absent 0 + absent 1 + absent 2 + absent 3 ≤ 1 then
            (t.hallD hall).st = .available ∧ (∀ n ∈ fuse.stalls, (t.stall? (hall * 512 + n)).isSome) ∧
            (∀ st x, s.stall? st = some x → st < 4096 → st / 512 ≠ hall → t.stall? st = some x) ∧
            (∀ st x, s.stall? st = some x → st / 512 = hall → st % 512 ∉ fuse.stalls → t.stall? st = none ∧
              ∀ n c, x.owner = some n → s.ctx? n = some c → ∃ d, t.ctx? n = some d ∧ st ∉ d.params.pitch) ∧
            ∀ k, k < 40 → ((t.pair? hall k).isSome ↔ 2 * k ∈ fuse.slices ∧ 2 * k + 1 ∈ fuse.slices)
          else (t.hallD hall).st = .failed ∧ t.stalls = s.stalls ∧
            ∀ p, p ∈ t.pairs ↔ p ∈ s.pairs ∧ (p.hall = hall → p.pair < 40 ∧ 2 * p.pair ∈ fuse.slices ∧ 2 * p.pair + 1 ∈ fuse.slices)) ∧
  (∀ (s : State),
      exec .hallStatus s = .next { s with mail := ⟨0, s.halls.map fun h => match h.st with
        | .off => 0 | .starting => 1 | .available => 2 | .failed => 3 | .resetting => 4⟩ } ∧
      (∃ t, exec .fuseRead s = .next t ∧ t = { s with mail := ⟨0, t.mail.data⟩ } ∧
        t.mail.data.head? = some (if s.pkg.part = 0 then 1280 else 1216) ∧ ∀ k h, s.halls[k]? = some h → h.fuse.stalls.Nodup → h.fuse.ports.Nodup →
          (∀ n, (t.mail.data.getD (1 + 4 * k) 0).testBit n = h.fuse.stalls.contains n) ∧
          ∀ n, (t.mail.data.getD (4 + 4 * k) 0).testBit n = h.fuse.ports.contains n) ∧
      ∀ hall pa, hall < s.halls.length → (pa / 128 ∈ (s.hallD hall).lost → ∃ t, exec (.lostClear hall pa) s = .next t ∧ t.mail = ⟨0, []⟩ ∧
        t.hallD hall = { s.hallD hall with lost := (s.hallD hall).lost.filter (· != pa / 128) } ∧
        t = { s with halls := t.halls, mail := t.mail }) ∧
        (pa / 128 ∉ (s.hallD hall).lost → exec (.lostClear hall pa) s = .next { s with mail := ⟨1, []⟩ })) ∧
  (∀ (s : State) hall cold, s.halls.length = 4 →
      (4 ≤ hall ∨ ((s.hallD hall).st ≠ .available ∧ (s.hallD hall).st ≠ .failed) →
        exec (.hallReset hall cold) s = .next { s with mail := ⟨1, []⟩ }) ∧
      (hall < 4 → (s.hallD hall).st = .available ∨ (s.hallD hall).st = .failed → ∃ t, exec (.hallReset hall cold) s = .next t ∧
        (t.hallD hall).st = .resetting ∧ ∀ c n, s.ctx? n = some c → (∃ st ∈ c.params.pitch, st / 512 = hall) ∨ s.pagesInHall c hall = true →
          ∃ d, t.ctx? n = some d ∧ d.blocked = true ∧ (cold = true → s.pagesInHall c hall = true → d.lostPages = true) ∧
            ∃ e ∈ d.cqWaiting, e.kind = 8) ∧
      (hall < 4 → (s.hallD hall).st = .available ∨ (s.hallD hall).st = .failed → s.ctxs = [] → s.insts = [] → s.pairs = [] →
        ∃ t, exec (.hallReset hall cold) s = .next t ∧ t.mail = ⟨0, []⟩ ∧
          t.hallD hall = { s.hallD hall with st := .resetting, tlb := [], lostScratch := [], lost := if cold then [] else (s.hallD hall).lost,
                                             xstore := [], xtaken := [], islands := List.replicate 4 16 } ∧
          (∀ st x, s.stall? st = some x → st < 4096 → t.stall? st = some (if st / 512 = hall then { x with cyc := 0, freq := 16 } else x)) ∧
          (∀ e ∈ t.classes, e.hall ≠ hall) ∧ (∀ v ∈ t.vslots, v.hall ≠ hall) ∧
          (s.ok = true → ∀ pa, t.rd8 pa = if cold = true ∧ paKind pa = .dram ∧ hallOf s.pkg.interleave pa = hall then 0 else s.rd8 pa)))

/-- 1. The words and events on future cells complete: an FGET of a FULL cell delivers its VALUE, an FTEST of one delivers 1 and a PEEK in a FREE
frame its ST code (R334, R335); FSET, FREF and FDROP record what the commit does (R333, R334); at the home of a cell an FSET or the
producer's end makes an EMPTY cell FULL, a change of REACH adds to it, and dead records leave their list (R329, R330).

2. The events of frames, tokens and levels complete: a stall serves its one ready frame, the one overflowed frame of a hall enters the call
room, a good block is mapped, a delivery enters its tile, a token joins its store, a counter counts down, a reclaimed frame goes, and a
stuck context is reported (R42, R249, R340, R342, R361, R363, R366, R379). -/
def Obligations.FrameEventsComplete : Prop :=
  ((∀ h (m : MF) s c a, Runs s h c → FirstOf c m.lsid → SyncPasses s c true false (m.ea c.l) (m.heat c) a → s.ok = true →
      (noted s c m.lsid).syncReady c m.lsid a false = true → s.accLost a true = false → cellSt (s.rdLE a.pa 16) = 1 →
      ∃ t, exec (.fget h m) s = .next t ∧
        ReadGives s t c (some m.lsid) ⟨a, true, false, true⟩ h (BitVec.ofNat 64 (cellVal (s.rdLE a.pa 16)))) ∧
    (∀ h s c a, Runs s h c → SyncPasses s c true false c.l 0 a → s.ok = true → s.accLost a true = false → s.earlyHolds c.f a (some .sys) = false →
      cellSt (s.rdLE a.pa 16) = 1 →
      ∃ t, exec (.ftest h) s = .next t ∧ ReadGives s t c none ⟨a, true, false, true⟩ h 1) ∧
    (∀ h s c a, Runs s h c → SyncPasses s c true false c.l 0 a → s.ok = true → s.accLost a true = false → c.f.det = false →
      ∃ t, exec (.peek h) s = .next t ∧
        ReadGives s t c none ⟨a, true, false, true⟩ h (BitVec.ofNat 64 (cellSt (s.rdLE a.pa 16)))) ∧
    (∀ h (m : MF) s c a, Runs s h c → FirstOf c m.lsid → SyncPasses s c false true (m.ea c.l) (m.heat c) a →
      ∃ t, exec (.fset h m) s = .next t ∧ Ran s t c
        { accessed c m.lsid ⟨a, false, true, true⟩ with effs := c.b.effs ++ [(c.slot, .fset m.lsid.toNat a c.r)] }) ∧
    (∀ h s c a, Runs s h c → SyncPasses s c true true c.l 0 a →
      let n := c.r.toNat % 65536
      let kind := c.r.toNat / 65536 % 4
      (n ≠ 0 → kind ≠ 3 → c.holdFault (.fref a.va n kind a) = none → ∃ t, exec (.fref h) s = .next t ∧
        Ran s t c { fired c true with
          seen := c.b.seen ++ [⟨a, true, true, true⟩], effs := c.b.effs ++ [(c.slot, .fref a.va n kind a)] }) ∧
      (c.holdFault (.fdrop a.va a) = none → ∃ t, exec (.fdrop h) s = .next t ∧
        Ran s t c { fired c true with
          seen := c.b.seen ++ [⟨a, true, true, true⟩], effs := c.b.effs ++ [(c.slot, .fdrop a.va a)] })) ∧
    (∀ (s : State) k (w : Flight) a v, s.ok = true → s.flight[k]? = some w → w.cargo = .fset a v → s.writeOrder w = true →
      s.writeClear w a = true → s.accLost a true = false → cellSt (s.rdLE a.pa 16) = 0 →
      ∃ t, exec (.futureCellFset k) s = .next t ∧ t.flight = s.flight.eraseIdx k ∧ cellSt (t.rdLE a.pa 16) = 1 ∧
        cellVal (t.rdLE a.pa 16) = v.toNat ∧ cellReach (t.rdLE a.pa 16) = cellReach (s.rdLE a.pa 16)) ∧
    (∀ (s : State) k (w : Flight) va pa prod, s.ok = true → s.flight[k]? = some w → w.cargo = .producerEnd va pa prod false →
      s.behind w.org.fid w.id = true → s.endTurn w = true → paKind pa ≠ .noRegion → s.sectorLost pa = false →
      cellProd (s.rdLE pa 16) = prod % 2 ^ 24 → cellSt (s.rdLE pa 16) = 0 →
      ∃ t, exec (.producerEnd k) s = .next t ∧ t.flight = s.flight.eraseIdx k ∧ cellSt (t.rdLE pa 16) = 1 ∧ cellVal (t.rdLE pa 16) = 0) ∧
    (∀ (s : State) k (w : Flight) va pa n, s.ok = true → s.flight[k]? = some w → w.cargo = .reach va pa true n →
      (∀ e ∈ s.flight, e.id < w.id → e.org.fid = w.org.fid → ∀ p q m, e.cargo ≠ .reach va p q m) → s.behind w.org.fid w.id = true →
      s.endTurn w = true → paKind pa ≠ .noRegion → s.sectorLost pa = false → 0 < n → cellReach (s.rdLE pa 16) + n < 65536 →
      ∃ t, exec (.futureReachChange k) s = .next t ∧ t.flight = s.flight.eraseIdx k ∧
        cellReach (t.rdLE pa 16) = cellReach (s.rdLE pa 16) + n ∧ cellSt (t.rdLE pa 16) = cellSt (s.rdLE pa 16)) ∧
    ∀ (s : State) k (w : Flight) va, s.flight[k]? = some w → w.cargo = .unlink va → ∃ t, exec (.continuationUnlink k) s = .next t ∧
      t.conts = s.conts.filter fun c => !(c.ctx == w.org.ctx && c.va == va && c.dead)) ∧
  ((∀ (s : State) st f, s.stallRuns st = true → s.engineUse st < 4 → (s.frames.filter fun f => f.stall == st && f.inTable).length < 64 →
      f ∈ s.frames → f.stall = st → s.frameReady f = true → s.frame? f.fid = some f → s.blockOf f.fid = none →
      (∀ g ∈ s.frames, g.stall = st → s.frameReady g = true → g = f) →
      ∃ t, exec (.frameServe st) s = .next t ∧ t.frame? f.fid = some { f with place := .resident, inTable := true, spill := none }) ∧
    (∀ (s : State) hall f, s.callRoom hall 0 < 8192 → f ∈ s.frames → f.fid ≠ 0 → hallOfStall f.stall = hall → f.place = .overflow →
      s.frame? f.fid = some f → s.launchGated f = false → (∀ g ∈ s.frames, hallOfStall g.stall = hall → g.place = .overflow → g = f) →
      s.overKeys hall = [] →
      ∃ t, exec (.callroomOverflowEntry hall) s = .next t ∧ t.frame? f.fid = some { f with place := .callroom }) ∧
    (∀ (s : State) f bs, s.frame? f.fid = some f → f.fetched = some (f.next, bs) → f.place = .resident → s.blockOf f.fid = none →
      s.stallRuns f.stall = true → (s.mappedOn f.stall).length < 4 → (∀ b ∈ s.blocks, b.bid < s.nextId) →
      let b := Block.fresh s.nextId f.fid f.next bs ((f.loop.map (·.1)).getD 0) (s.stallD f.stall).cyc
      b.breach? = none → b.bkpt? = none → (s.watched f = true → b.debugStop = false) → b.isLoop = false → f.loop = none →
      ∃ t, exec (.blockMap f.fid) s = .next t ∧ t.block? s.nextId = some { b with entry := s.handlerRegs f }) ∧
    (∀ (s : State) k (w : Flight) e size d rel x c, s.flight[k]? = some w → w.cargo = .mcast e size d rel →
      (rel = true → s.earlierWrites w = []) →
      let st := (e.extractLsb' 0 11).toNat
      let n := (e.extractLsb' 11 6).toNat
      let ofs := (e.extractLsb' 18 19).toNat
      s.stall? st = some x → s.ctx? w.org.ctx = some c → st ∈ c.params.pitch → x.saved = false → x.pagesIn (x.tileD n) = true →
      x.engineWrites n = false → (x.tileD n).lay = true → x.bound n = false → ofs + size ≤ (x.tileD n).bytes →
      (x.tileD n).st = .empty ∨ (x.tileD n).st = .filling → n < x.tiles.length →
      ∃ t y, exec (.mcastDelivery k) s = .next t ∧ t.flight = s.flight.eraseIdx k ∧ t.stall? st = some y ∧
        (y.tileD n).arr = ((x.tileD n).arr + size) % 2 ^ 20) ∧
    (∀ (s : State) k (w : Flight) i n inp tag v x, s.flight[k]? = some w → w.cargo = .token i n inp tag v → s.inst? i = some x → x.live = true →
      (∀ e ∈ s.flight, e.id < w.id → ∀ g u, e.cargo ≠ .token i n inp g u) → s.behind w.org.fid w.id = true → x.released = false →
      ∃ t y, exec (.tokenArrival k) s = .next t ∧ t.flight = s.flight.eraseIdx k ∧ t.inst? i = some y ∧ ∃ o, y.toks = x.toks ++ [o] ∧
        o.node = n ∧ o.input = inp ∧ o.tag = tag ∧ o.val = v) ∧
    (∀ (s : State) k (w : Flight) obj l, s.flight[k]? = some w → w.cargo = .level 2 obj 0 → s.behind w.org.fid w.id = true →
      s.endTurn w = true → s.launch? w.org.ctx obj = some l → l.live = true → l.node = false → l.complete = false → 1 < l.count →
      ∃ t, exec (.levelCounterUpdate k) s = .next t ∧ t.flight = s.flight.eraseIdx k ∧
        t.launch? w.org.ctx obj = some { l with count := l.count - 1 }) ∧
    (∀ (s : State) k (w : Flight) f cause, s.flight[k]? = some w → w.cargo = .reclaim f.fid cause → s.frame? f.fid = some f →
      (∀ e ∈ s.flight, e.id < w.id → e.org.stall = w.org.stall → ∀ i c, e.cargo ≠ .reclaim i c) → f.handler = false → f.parent = none →
      s.pinnedByKeep f = false →
      ∃ t, exec (.reclaimRequest k) s = .next t ∧ t.frame? f.fid = none ∧ ∀ b ∈ t.blocks, b.fid ≠ f.fid) ∧
    ∀ (s : State) ctx c, s.ctx? ctx = some c → c.stuckArmed = true → s.stuck ctx = true → (∀ r ∈ s.recs, r.rid < s.nextId) →
      (∀ r ∈ s.recs, ¬(r.status = 0 ∧ r.heldFid = none)) →
      ∃ t, exec (.stuckDetection ctx) s = .next t ∧
        ∃ r ∈ t.recs, r.ctx = ctx ∧ r.heldFid = none ∧ (r.cls = Cls.deadlock ∨ r.cls = Cls.heatExhausted))

/-- 1. The events of the engines complete: a message that passes its checks starts, ends a chunk or a row with matching residues, and completes
(R119, R120, R160, R161, R201, R202); a TDEF leaves the tile table's queue and a tile page is refilled (R261, R455); a barrier leaves the porter's inbox and a good card makes a job, a job starts, a round starts and
performs, and a finished job leaves (R268, R273 to R277, R295); what parts of objects and instances send each other arrives (R307, R310,
R317).

2. The events of the ingress port and of a context's pitch complete: slot writes, packets of each type, the load of an image, the release
of sources, and pre-emption, resumption and a new pitch (R33, R321, R351 to R358, R365, R428, R452 to R454). A confidential context accepts
packets only in RUN (R411). What a command's reply carries is the model's choice (log 61). -/
def Obligations.EngineEventsComplete : Prop :=
  ((∀ (s : State) st x m, s.stall? st = some x → s.stallRuns st = true →
      (x.pa = none → x.paNext ≤ x.cyc → s.planePick x = some m → s.traceHolds m.org 3 = false → x.planeCheck m.i = none →
        ∃ t y, exec (.paMessageStart st) s = .next t ∧ t.stall? st = some y ∧ y.pa = some (x.planeRun m) ∧ y.inPa = x.inPa.erase m) ∧
      (x.vec = none → x.vecNext ≤ x.cyc → s.vecPick x = some m → s.traceHolds m.org 3 = false → x.vecCheck m.i = none →
        ∃ t y, exec (.vecMessageStart st) s = .next t ∧ t.stall? st = some y ∧ y.vec = some (x.vecRun m) ∧ y.inVec = x.inVec.erase m) ∧
      (∀ rest, x.inSpe = m :: rest → x.speNext ≤ x.cyc → (∀ r ∈ x.spe, speConflict m r = false) → x.speFresh m = false →
        s.behindMsg m.org = true → x.topsClear m = true → x.speReady m = true → s.traceHolds m.org 3 = false → x.speCheck m.i m.l = none →
        x.speLost m = false →
        ∃ t y, exec (.speMessageIssue st) s = .next t ∧ t.stall? st = some y ∧ y.spe = x.spe ++ [x.speRun m (x.spePair m)] ∧ y.inSpe = rest)) ∧
    (∀ (s : State) st x (r : PaRun), s.stall? st = some x → s.stallRuns st = true → x.pa = some r → r.abandoned = false →
      (r.chunk < r.costs.length → r.chunkEnd ≤ x.cyc + 1 → ∃ t y, exec (.paChunkEnd st true) s = .next t ∧ t.stall? st = some y ∧
        y.pa = some { r with chunk := r.chunk + 1, retried := 0 }) ∧
      (r.costs.length ≤ r.chunk → r.start + r.span ≤ x.cyc + 1 → x.pagesIn (x.tileD r.tc) = true → s.traceHolds r.m.org 4 = false →
        ∃ t y, exec (.paMessageComplete st) s = .next t ∧ t.stall? st = some y ∧ y.pa = none)) ∧
    (∀ (s : State) st x (r : VecRun), s.stall? st = some x → s.stallRuns st = true → x.vec = some r → r.abandoned = false →
      (r.rowsDone < r.costs.length → r.rowEnd ≤ x.cyc + 1 → ∃ t y, exec (.vecRowEnd st true) s = .next t ∧ t.stall? st = some y ∧
        y.vec = some { r with rowsDone := r.rowsDone + 1, retried := 0 }) ∧
      (r.costs.length ≤ r.rowsDone → r.start + r.span ≤ x.cyc + 1 → r.outs ≠ [] → (∀ o ∈ r.outs, x.pagesIn (x.tileD o.1) = true) →
        s.traceHolds r.m.org 4 = false → ∃ t y, exec (.vecMessageComplete st) s = .next t ∧ t.stall? st = some y ∧ y.vec = none)) ∧
    (∀ (s : State) st x r, s.stall? st = some x → x.speDue = some r → s.traceHolds r.m.org 4 = false →
      ∃ t y, exec (.speMessageComplete st true) s = .next t ∧ t.stall? st = some y ∧ y.spe = x.spe.erase r) ∧
    (∀ (s : State) st x m, s.stall? st = some x → s.stallRuns st = true → (x.inPor.find? fun m => m.i.hasCard || m.i.isBar) = some m →
      (m.i.isBar = true → ∃ t y, exec (.porterJobAccept st) s = .next t ∧ t.stall? st = some y ∧ y.inPor = x.inPor.erase m) ∧
      let left := { s with stalls := s.stalls.map fun (e : Nat × Stall) => if e.1 = st then (e.1, { e.2 with inPor := e.2.inPor.erase m }) else e }
      (m.i.isBar = false → s.behindMsg m.org = true → s.footprints (hallOfStall st) < 4096 → s.traceHolds m.org 5 = false →
        ∀ a card, left.readCard m = some (a, card) →
          ((((left.translated st m.org.ctx m.l.toNat).accessDone st a false).served st m.org.ctx [a.pa] false).cardReject m card = none) →
          ∃ t y, exec (.porterJobAccept st) s = .next t ∧ t.stall? st = some y ∧ y.jobs.length = x.jobs.length + 1)) ∧
    (∀ (s : State) st k x (m : Msg) h tc, s.stall? st = some x → x.tops[k]? = some m → s.stallRuns st = true → x.opClear m = true →
      x.opState m.i = true → s.behindMsg m.org = true → m.i = .tdef h tc →
      ∃ t y, exec (.tileTableOpApply st k) s = .next t ∧ t.stall? st = some y ∧ y.tops = x.tops.eraseIdx k ∧
        y.tiles = x.tiles.modify tc.toNat fun _ => Tile.ofDef m.l.toNat (m.r.toNat % 2 ^ 20)) ∧
    (∀ (s : State) st page x, s.stall? st = some x → s.stallRuns st = true → page < 128 → x.resident.getD page true = false →
      s.backingLost st page = false → ∃ t y, exec (.tilePageRefill st page false) s = .next t ∧ t.stall? st = some y ∧ y.resident = x.resident.set page true) ∧
    (∀ (s : State) st x m j, s.stall? st = some x → s.stallRuns st = true →
      (x.jobs.filter fun (k : Job) => k.st == .running || k.st == .paused).length < 4 → s.startPick st = some (m, some j) →
      s.cardReject m j.card = none → x.placeFaults (x.jobTiles m.i j.card) = none → j.m = m → j.m.i.isXrecv = false →
      ∃ t k, exec (.porterJobStart st) s = .next t ∧ k ∈ (t.stallD st).jobs ∧ k.id = j.id ∧ k.st = .running) ∧
    (∀ (s : State) st x j b u, s.stall? st = some x → s.stallRuns st = true → x.roundPick = some j → j.port = none →
      x.pagesFor ((j.dests ++ j.srcs).map x.tileD) = true → s.roundOf x j j.pos (s.roundEnd x j) = .ok b →
      s.reserveAll j (b.writes.filterMap (·.acc?)) = .ok u →
      ∃ t y, exec (.porterRoundStart st j.id) s = .next t ∧ t.stall? st = some y ∧ y.turn = j.id ∧
        ∃ k ∈ y.jobs, k.id = j.id ∧ k.round.isSome) ∧
    (∀ (s : State) st x j r, s.stall? st = some x → s.stallRuns st = true → x.jobs.find? (fun (k : Job) => k.id == j.id) = some j →
      j.round = some r → s.roundWaits r = false → j.reclaimed = false →
      (∀ a ∈ r.writes.filterMap (·.acc?), s.accGone a = false ∧ s.accLost a false = false) →
      ∃ t k, exec (.porterRoundComplete st j.id false) s = .next t ∧ (t.stallD st).jobs.find? (fun (e : Job) => e.id == j.id) = some k ∧
        k.pos = r.next ∧ k.round = none) ∧
    (∀ (s : State) st x j h tc nb d, s.stall? st = some x → s.stallRuns st = true → x.jobs.find? (fun (k : Job) => k.id == j.id) = some j →
      x.jobDone j = true → s.traceHolds j.m.org 5 = false → j.settled = false → j.m.i = .tzero h tc nb → j.dests = [d] → d < x.tiles.length →
      (x.tileD d).sides = [] → x.filledBy j.id d = false → s.storesOk = true →
      ∃ t y, exec (.porterJobComplete st j.id) s = .next t ∧ t.stall? st = some y ∧ (y.tileD d).st = .ready ∧ ∀ k ∈ y.jobs, k.id ≠ j.id) ∧
    (∀ (s : State) k (w : Flight) hall slot rid l j v r, s.flight[k]? = some w → w.cargo = .contribution hall slot rid l j v →
      s.behind w.org.fid w.id = true → s.red? hall slot = some r → r.rid = rid → r.live = true → r.broken = false →
      redOwner r.d l j = r.part → redArrival r.d = false → l < r.topLevel → redAbsent r.d l (j ^^^ 1) = false → r.held = [] →
      s.nodeStore hall < 16384 →
      ∃ t r', exec (.redContributionArrive k) s = .next t ∧ t.flight = s.flight.eraseIdx k ∧ t.red? hall slot = some r' ∧ r'.held = [(l, j, v)]) ∧
    (∀ (s : State) k (w : Flight) i key p l j v d fl n, s.flight[k]? = some w → w.cargo = .forward i key p l j v d fl → s.inst? i = some n →
      s.redMeet i key.toNat p d = none → (∀ e ∈ n.freed, ¬(e.1 = key.toNat ∧ e.2.1 = p)) →
      s.nodeStore (n.parts.getD p 0) < 16384 →
      ∃ t x, exec (.redPartForwardArrive k) s = .next t ∧ t.flight = s.flight.eraseIdx k ∧ t.inst? i = some x ∧
        x.waits.length = n.waits.length + 1) ∧
    (∀ (s : State) k (w : Flight) i key p v d fl n r, s.flight[k]? = some w → w.cargo = .result i key p v d fl → s.inst? i = some n →
      s.redMeet i key.toNat p d = some (r, false) → r.broken = false → s.red? r.hall r.slot = some r →
      ∃ t x, exec (.redResultArrive k) s = .next t ∧ t.flight = s.flight.eraseIdx k ∧ t.red? r.hall r.slot = some x ∧ x.done = true ∧
        x.result = v) ∧
    ∀ (s : State) k (w : Flight) t n h, s.flight[k]? = some w → w.cargo = .xmsg t → s.inst? t.inst = some n →
      s.halls[n.parts.getD t.dst 0]? = some h → (∀ x ∈ h.xstore, x.key ≠ t.key) → t.key ∉ h.xtaken → h.xstore.length < 256 →
      ∃ u g, exec (.xmsgArrive k) s = .next u ∧ u.flight = s.flight.eraseIdx k ∧ u.halls[n.parts.getD t.dst 0]? = some g ∧
        g.xstore = h.xstore ++ [t]) ∧
  ((∀ (s : State) ctx c slot word val, s.ctx? ctx = some c → slot < 64 → word < 7 → c.params.confid = false → c.packets = [] →
      ∃ t d, exec (.ingressSlotWrite ctx slot word val true) s = .next t ∧ t.ctx? ctx = some d ∧
        ((d.port.find? fun e => e.1 == slot && e.2.1 == word).map (·.2.2)) = some val) ∧
    (∀ (s : State) ctx c p l, s.ctx? ctx = some c → c.num = ctx → c.packets = p :: l → p.bad = false → (c.params.confid = true → c.tdisp = .run) →
      let n := (p.words.getD 2 0).toNat % 65536
      let b := p.words.getD 2 0
      let accepted := fun (t : State) => ∃ d, t.ctx? ctx = some d ∧ d.packets = l
      (∀ m i, p.type = 1 → s.sourcesRun ctx = true → p.fail = none → s.imageOf ctx p.image = some m → s.liveInst ctx m.va = some i →
        p.image = m.va → s.heatLive ctx (b.extractLsb' 40 16).toNat = true → (b.extractLsb' 0 16).toNat < m.launches.length →
        (b.extractLsb' 56 8).toNat + 1 < 128 → (∃ k, k < 256 ∧ s.launch? ctx k = none) →
        ∃ t, exec (.launchPacket ctx) s = .next t ∧ accepted t ∧ t.frames.length = s.frames.length + ((b.extractLsb' 56 8).toNat + 1)) ∧
      (∀ m i x, p.type = 2 → s.sourcesRun ctx = true → p.fail = none → s.imageOf ctx p.image = some m → s.liveInst ctx m.va = some i →
        p.image = m.va → s.inst? i.iid = some i → m.nodes[(b.extractLsb' 20 12).toNat]? = some x → (b.extractLsb' 16 3).toNat < x.2.1 →
        0 < s.credits i.iid (b.extractLsb' 20 12).toNat (b.extractLsb' 16 3).toNat → s.nodeFar i.iid (b.extractLsb' 20 12).toNat = false →
        (p.bar.any fun n => s.flight.any (·.id == n)) = false →
        ∃ t, exec (.tokenPacket ctx) s = .next t ∧ accepted t ∧
          ∃ w ∈ t.flight, ∃ g, w.cargo = .token i.iid (b.extractLsb' 20 12).toNat (b.extractLsb' 16 3).toNat g (p.words.getD 3 0)) ∧
      (∀ x, p.type = 3 → p.words.getD 2 0 = 2 → s.launch? ctx ((p.words.getD 3 0).toNat % 256) = some x → x.node = false → x.live = true →
        x.complete = false → x.pending = 0 → 0 < x.count → ∃ t, exec (.cancelPacket ctx) s = .next t ∧ accepted t ∧
          t.launch? ctx ((p.words.getD 3 0).toNat % 256) = some { x with cancelled := true }) ∧
      (p.type = 4 → n ≠ 0 → c.window = none → s.captureHeld c 9 = false → ∃ t d, exec (.startPacket ctx) s = .next t ∧ accepted t ∧
        t.ctx? ctx = some d ∧ d.window = some n) ∧
      (p.type = 5 → n ≠ 0 → c.window = some n → s.captureHeld c 10 = false → ∃ t d, exec (.stopPacket ctx) s = .next t ∧ accepted t ∧
        t.ctx? ctx = some d ∧ d.window = none)) ∧
    (∀ (s : State) ctx c p l, s.ctx? ctx = some c → c.packets = p :: l → (c.params.confid = true → c.tdisp = .run) →
      p.type = 0 ∨ 5 < p.type → ∃ t d, exec (.reservedTypePacket ctx) s = .next t ∧ t.ctx? ctx = some d ∧ d.packets = l ∧
        d.cqWaiting = c.cqWaiting ++ [⟨p.cookie, 5, p.type, p.job, 0, none⟩]) ∧
    (∀ (s : State) ctx c p l cut pages g u r, s.ctx? ctx = some c → c.num = ctx → c.packets = p :: l → p.type = 1 ∨ p.type = 2 → p.bad = false →
      p.fail = none → s.imageOf ctx p.image = none → (c.params.confid = true → c.tdisp = .run) → parseImage (s.imageBytes ctx p.image) = some g →
      s.imageBreaches c g cut (s.segsOf c g) = [] → s.mapSegs ctx pages ((s.segsOf c g).getD []) = some (u, r) →
      ∃ t, exec (.imageLoad ctx cut pages) s = .next t ∧
        t.imageOf ctx p.image = some (u.loaded c g p.image ((s.segsOf c g).getD []) cut)) ∧
    (∀ (s : State) i x, s.inst? i = some x → x.released = false → x.live = true → x.toks = [] →
      ∃ t, exec (.instanceSourceRelease i true) s = .next t ∧ t.inst? i = some { x with released := true }) ∧
    (∀ (s : State) st x, s.stall? st = some x → st < 2048 →
      (∀ c d, x.owner = some c → s.ctx? c = some d → x.saved = true → x.suspect = false → (s.hallD (st / 512)).st = .available →
        d.preempted = false → d.blocked = false → d.tdHalt = false → (∀ n ∈ d.params.pitch, (s.stallD n).suspect = false) →
        ∃ t y, exec (.stallResume st) s = .next t ∧ t.mail = ⟨0, []⟩ ∧ t.stall? st = some y ∧ y.saved = false) ∧
      (x.saved = false → x.pa = none → x.vec = none → x.spe = [] → (∀ j ∈ x.jobs, j.round = none) →
        (∀ b ∈ s.blocks, ∀ f, s.frame? b.fid = some f → f.stall ≠ st) → (∀ w ∈ s.flight, w.cargo.isWrite = true → w.org.stall ≠ st) →
        (∀ w ∈ s.flight, ∀ i n k g v z, w.cargo = .token i n k g v → s.inst? i = some z → (z.nodes.getD n default).home ≠ st) →
        ∃ t y, exec (.preempt st) s = .next t ∧ t.mail = ⟨0, []⟩ ∧ t.stall? st = some y ∧ y.saved = true)) ∧
    ∀ (s : State) ctx c new, s.ctx? ctx = some c → c.num = ctx → new.Pairwise (· < ·) → s.ctxIdle ctx = true → s.pitchOk ctx new = true →
      c.params.pitch.Pairwise (· < ·) → (∀ h, h < 4 → (c.params.pitch.filter (· / 512 == h)).length ≤ (new.filter (· / 512 == h)).length) →
      (∀ i ∈ s.images, i.ctx ≠ ctx) → 2 ^ 19 * new.length ≤ c.params.frameArea.size →
      (∀ n ∈ c.params.pitch, n < 2048) → ∃ t d, exec (.repitch ctx new) s = .next t ∧ t.mail = ⟨0, []⟩ ∧ t.ctx? ctx = some d ∧ d.params.pitch = new)

/-- The commands that make and run a context and delegate a pair complete, and so do a pair's stores and changes, the setting and draining of
a trace ring, a walk's step and the commit of a block: CTX_CREATE within its limits makes the context (R382), CTX_RUN lets it run (R382), a
pair is delegated and its release begins (R405), WPR takes a new value and WPR_HURDLE an address (R402), the two phases of a change end (R403,
R404), a ring's pointers start at 0 (R426), a ring with room takes the record of what was lost (R427), a step without a history entry ends its
walk (R430), and a complete block commits and its frame goes on to the exit's target (R46, R136). The codes are the model's choice (log
61). -/
def Obligations.OwnerCompletions : Prop :=
  (∀ (s : State) p, (s.pkg.interleave = .spread → ∀ h ∈ s.halls, h.st = .available) → s.createOk p = true →
    ∃ t c, exec (.ctxCreate p) s = .next t ∧ t.mail = ⟨0, []⟩ ∧ t.ctx? p.num = some c ∧ c.preempted = true) ∧
  (∀ (s : State) ctx c, s.ctx? ctx = some c → c.num = ctx → c.lostPages = false → c.tdHalt = false →
    (∀ st ∈ c.params.pitch, st < 2048 ∧ (s.stallD st).suspect = false) → (∀ r ∈ s.recs, r.ctx = ctx → r.status ≠ 0) →
    ∃ t d, exec (.ctxRun ctx) s = .next t ∧ t.mail = ⟨0, []⟩ ∧ t.ctx? ctx = some d ∧ d.preempted = false ∧ d.blocked = false) ∧
  (∀ (s : State) ctx c hall pair p va tables u r, s.ctx? ctx = some c → s.pair? hall pair = some p → p.owner = none → p.stt = 0 →
    va % 4096 = 0 → va < 2 ^ 56 → s.vaMapped ctx va 4096 = false → s.mapEntry ctx va 3 (p.ctrlPa + 15) tables = some (u, r) →
    ∃ t, exec (.pairDelegate ctx hall pair va tables) s = .next t ∧ t.mail = ⟨0, []⟩ ∧
      t.pair? hall pair = some { p with owner := some ctx, ctrlVa := va }) ∧
  (∀ (s : State) ctx hall pair p, s.pair? hall pair = some p → p.owner = some ctx → p.stt = 0 → p.cur ≠ 0 →
    ∃ t q, exec (.pairRelease hall pair) s = .next t ∧ t.pair? hall pair = some q ∧ q.stt = 1 ∧ q.target = 0 ∧ q.wpr = 0 ∧
      q.releasing = true) ∧
  (∀ (s : State) k (w : Flight) a (d : W64) r p, s.flight[k]? = some w → w.cargo = .store a d r false → paKind a.pa = .control →
    s.writeOrder w = true → s.writeClear w a = true → s.accLost a false = false → s.pairAt? a.pa = some p → p.owner = some w.org.ctx →
    s.pair? p.hall p.pair = some p →
    (∀ v, v = d.toNat % 32 → a.pa % 4096 = 0 → v ≤ 16 → p.stt = 0 → v ≠ p.cur → ∃ t q, exec (.wprWrite k) s = .next t ∧
      t.pair? p.hall p.pair = some q ∧ q.wpr = v ∧ q.target = v ∧ q.stt = 1 ∧ q.err = 0) ∧
    (a.pa % 4096 = 16 → ∃ t, exec (.registerWrite k) s = .next t ∧ t.pair? p.hall p.pair = some { p with hva := d.toNat % 2 ^ 56 })) ∧
  (∀ (s : State) hall pair p, s.pair? hall pair = some p → p.hall = hall → p.pair = pair →
    (p.stt = 1 → s.pairBusy p = false → ∃ t, exec (.wprPhase1End hall pair) s = .next t ∧ t.pair? hall pair = some { p with stt := 2 }) ∧
    (p.stt = 2 → p.releasing = false → p.hva = 0 → (∀ e ∈ s.stalls, ∀ j ∈ e.2.jobs, j.st ≠ .held) →
      ∃ t, exec (.wprChangeEnd hall pair) s = .next t ∧ t.pair? hall pair = some { p with cur := p.target, stt := 0 })) ∧
  (∀ (s : State) ctx c w0 w1, s.ctx? ctx = some c → c.num = ctx → c.params.debuggable = true → c.params.confid = false →
    (w0.extractLsb' 0 12 : BitVec 12) = 0 → 6 ≤ (w1.extractLsb' 35 5).toNat → (w1.extractLsb' 35 5).toNat ≤ 26 →
    (w0.extractLsb' 0 56).toNat + 64 + 32 * 2 ^ (w1.extractLsb' 35 5).toNat ≤ 2 ^ 56 →
    ∃ t d, exec (.traceSet ctx w0 w1 true) s = .next t ∧ t.mail = ⟨0, []⟩ ∧ t.ctx? ctx = some d ∧
      d.trace.base = (w0.extractLsb' 0 56).toNat ∧ d.trace.ctl = w1 ∧ d.trace.wptr = 0 ∧ d.trace.lost = 0) ∧
  (∀ (s : State) ctx c, s.ctx? ctx = some c → c.num = ctx → c.trace.waiting = [] → c.trace.lost ≠ 0 → s.ringFull c = false →
    ∃ t d, exec (.traceRoomReturn ctx) s = .next t ∧ t.ctx? ctx = some d ∧ d.trace.lost = 0 ∧ d.trace.wptr = (c.trace.wptr + 1) % 2 ^ 64) ∧
  (∀ (s : State) k (w : Flight) id step fn bsq, s.flight[k]? = some w → w.cargo = .walkStep id step fn bsq →
    (∀ e ∈ s.flight, e.id < w.id → e.org.stall = w.org.stall → ∀ a b c d, e.cargo ≠ .walkStep a b c d) →
    (∀ e ∈ (s.stallD w.stall).hist, ¬(e.fn = fn ∧ e.bsq = bsq)) →
    ∃ t, exec (.critPathWalkStep k) s = .next t ∧ t.flight = s.flight.eraseIdx k) ∧
  ∀ (s : State) b f n a, s.block? b.bid = some b → s.frame? b.fid = some f → s.stallRuns f.stall = true → s.mayCommit b f = true →
    b.effs = [] → b.exits = [(n, .to a)] → f.handler = false → f.reclaim = none →
    ∃ t g, exec (.blockCommit b.bid) s = .next t ∧ t.block? b.bid = none ∧ t.frame? f.fid = some g ∧ g.next = a ∧ g.bsq = f.bsq + 1

/-- 1. A step whose next action fires an instruction that may issue runs exec of that instruction, with the block and slot current, and then the
sweep; the action leaves the schedule (R42, R367). What would write a record into a full trace ring under STALL does not happen (R427). That
the schedule is free, that actions are whole, and what the sweep does are the model's choice (logs 1, 97 and 98), and so is how a ring holds an
event (log 135).

2. A slot holds the instruction that its word, with the one after it, encodes: when these decode to a well-formed instruction of one word in
the first slot of a block, the slot's instruction is that one, and it may issue once it is armed, waits for nothing and its stall runs.

3. A step whose next action is an event of the device runs exec of it and then the sweep; without power only POWER_GOOD happens, and an
instruction word is no event (R460). An event that would write a record into a full trace ring under STALL does not happen (R427; log 135);
the end of a context and the reset of a hall do.

4. The clock of a stall advances by what the schedule asks, and no further than to the cycle before the one in which a chunk, a row or a
message of its engines must end by its count (R29, R118, R160, R202). -/
def Obligations.Stepping : Prop :=
  (∀ (s : State) bid slot l i st b, s.sched = .fire bid slot :: l → s.block? bid = some b →
      (b.parsed.getD slot .second).instr? = some i → ({ s with sched := l } : State).issuable bid slot = some (i, st) →
      let ready := { ({ s with sched := l } : State).modStall st fun x => { x with issued := true } with cur := some (bid, slot) }
      let held := fun (t : State) => ∃ c ∈ t.ctxs, ((s.ctx? c.num).map (·.trace.waiting.length)).getD 0 < c.trace.waiting.length
      (∀ t, exec i ready = .next t → ¬held t → step s = .next t.sweep) ∧
      (∀ t, exec i ready = .next t → held t → step s = .next ({ s with sched := l } : State).sweep) ∧ (∀ e, exec i ready = .fault e → step s = .fault e) ∧
        ∀ r, exec i ready = .refused r → step s = .refused r) ∧
  (∀ (s : State) b f i w l, s.block? b.bid = some b → s.frame? b.fid = some f → b.words = w :: l → decodeWord w (l.headD 0) = .ok i →
      i.wellFormed = true → (b.parsed.getD 0 .second).instr? = some i ∧
      (b.parked = false → b.spec = false → s.stallRuns f.stall = true → b.waits = [] → (b.slotD 0).fired = false →
        (b.slotD 0).l = some 0 → (b.slotD 0).r = some 0 → (b.slotD 0).p = some 0 → s.issuable b.bid 0 = some (i, f.stall))) ∧
  (∀ (s : State) i l, s.sched = .event i :: l →
      (i.isWord = false → (s.pkg.stage ≠ 0 ∨ i = .powerGood) → ∀ t, exec i { s with sched := l } = .next t →
        let held := (∃ c ∈ t.ctxs, ((s.ctx? c.num).map (·.trace.waiting.length)).getD 0 < c.trace.waiting.length) ∧
          (∀ n, i ≠ .ctxDestroy n) ∧ ∀ h b, i ≠ .hallReset h b
        (¬held → step s = .next t.sweep) ∧ (held → step s = .next ({ s with sched := l } : State).sweep)) ∧
      (i.isWord = true ∨ (s.pkg.stage = 0 ∧ i ≠ .powerGood) → step s = .next ({ s with sched := l } : State).sweep)) ∧
  (∀ (s : State) st n l x, s.sched = .clock st n :: l → s.stall? st = some x →
      step s = .next ((({ s with sched := l } : State).clock st n).sweep) ∧
      ∃ y, (s.clock st n).stall? st = some y ∧ x.cyc ≤ y.cyc ∧ y.cyc ≤ x.cyc + n ∧
        (x.pa = none → x.vec = none → x.spe = [] → y.cyc = x.cyc + n) ∧
        (s.stallRuns st = true → ∀ r, x.pa = some r →
          (r.chunk < r.costs.length → y.cyc ≤ max x.cyc (r.chunkEnd - 1)) ∧
          (r.costs.length ≤ r.chunk → x.pagesIn (x.tileD r.tc) = true → s.traceHolds r.m.org 4 = false → y.cyc ≤ max x.cyc (r.start + r.span - 1))) ∧
        (s.stallRuns st = true → ∀ r, x.vec = some r →
          (r.rowsDone < r.costs.length → y.cyc ≤ max x.cyc (r.rowEnd - 1)) ∧
          (r.costs.length ≤ r.rowsDone → (∀ o ∈ r.outs, x.pagesIn (x.tileD o.1) = true) → s.traceHolds r.m.org 4 = false →
            y.cyc ≤ max x.cyc (r.start + r.span - 1))) ∧
        (s.stallRuns st = true → ∀ r ∈ x.spe, s.traceHolds r.m.org 4 = false → y.cyc ≤ max x.cyc r.done))

/-- The machine right after reset: no power, every hall OFF with 64 free handler records and FSQ 0, no context, stall, frame or block, and memory
that reads 0 (R435, R445, R460, R461; that FSQ starts at 0 is the model's choice, log 11, and so is the reading of memory that nothing
has written, log 13). -/
def Obligations.ResetState : Prop :=
  State.reset.pkg.stage = 0 ∧ State.reset.halls.length = 4 ∧
    (∀ h ∈ State.reset.halls, h.st = .off ∧ h.hfree = 64 ∧ h.fsq = 0 ∧ h.lost = [] ∧ h.tlb = []) ∧
    State.reset.ctxs = [] ∧ State.reset.stalls = [] ∧ State.reset.frames = [] ∧ State.reset.blocks = [] ∧ State.reset.recs = [] ∧
    (∀ pa, State.reset.rd8 pa = 0) ∧ State.reset.ok = true ∧ State.reset.storesOk = true ∧ State.reset.numbersOk = true

/-- Words written out bit by bit from the specification's encodings decode to the instructions they stand for: GRD, ITER, ADD, MOVI with two
targets, TST, DIV of words, a predicated BRO, ST with release at hall scope, HD.ARR, HD.WAIT, SPAWN, FGET, a tile product, a vector reduction,
the two words of SPT, a reduction's wait, SVC, CSRR and a predicated ERET (R52 to R58). -/
def Obligations.SpecWordsDecode : Prop :=
  let hd : Hd := ⟨.always, none, none⟩
  let tgt := fun (n : BitVec 7) (f : OpField) => (⟨.always, some ⟨f, n⟩, none⟩ : Hd)
  decodeWord 0x0808000000000082 0 = .ok (.grd (tgt 2 .left) 4) ∧
    decodeWord 0x0500000000000102 0 = .ok (.iter (tgt 2 .right)) ∧
    decodeWord 0x1000000000000083 0 = .ok (.add (tgt 3 .left) false) ∧
    decodeWord 0x0A02000000010C85 0 = .ok (.movi ⟨.always, some ⟨.left, 5⟩, some ⟨.left, 6⟩⟩ 0x80000000) ∧
    decodeWord 0x0D0000000003138A 0 = .ok (.tst ⟨.always, some ⟨.pred, 10⟩, some ⟨.pred, 9⟩⟩ .eq) ∧
    decodeWord 0x1400040000000087 0 = .ok (.div (tgt 7 .left) true) ∧
    decodeWord 0x01800000001C0000 0 = .ok (.bro ⟨.onFalse, none, none⟩ 0 7) ∧
    decodeWord 0x4100210000200000 0 = .ok (.st hd ⟨0, .ub, .rel, .own, .hall, 8⟩) ∧
    decodeWord 0x5400010000000000 0 = .ok (.hdArr hd ⟨0, .ub, .plain, .own, .hall, 0⟩) ∧
    decodeWord 0x5500010000000083 0 = .ok (.hdWait (tgt 3 .left) ⟨0, .ub, .plain, .own, .hall, 0⟩) ∧
    decodeWord 0x5800800000000000 0 = .ok (.spawn hd 2) ∧
    decodeWord 0x5A00C20000000084 0 = .ok (.fget (tgt 4 .left) ⟨0, .d, .plain, .own, .sys, 0⟩) ∧
    decodeWord 0x7208402000180000 0 = .ok (.pmmaS hd ⟨8, 16, 2, true, true, false⟩) ∧
    decodeWord 0x9304005000000000 0 = .ok (.vred hd ⟨4, 5, false⟩ .add false) ∧
    decodeWord 0x7801FEA064000000 0x0800004000001800 = .ok (.spt ⟨0x3FD4, 0x064, 0, 0, 0x010, 0, 0x020, 0, 3, 0⟩ false) ∧
    decodeWord 0xB200400000000085 0 = .ok (.rdwaitF (tgt 5 .left)) ∧
    decodeWord 0xB8000000001C0000 0 = .ok (.svc hd 7) ∧
    decodeWord 0xBC00000000100085 0 = .ok (.csrr (tgt 5 .left) 4) ∧
    decodeWord 0xBB40000000000000 0 = .ok (.eret ⟨.onTrue, none, none⟩)

/-- Every well-formed instruction word is decoded from its encoding, with every field. -/
def Obligations.RoundTrip : Prop :=
  ∀ i : Instr, i.wellFormed = true → decodeWord (encode i).1 (encode i).2 = .ok i

/-- A step keeps the canonical form of memory and of heat cells, and the number of halls (R2, R85, R211). -/
def Obligations.StepKeepsForm : Prop := ∀ s t, s.ok = true → step s = .next t → t.ok = true

/-- 1. A step keeps the canonical form of every stall's stores (R32, R35, R455).

2. A step keeps every frame, block and record below the next number to be given out. -/
def Obligations.StepKeepsStores : Prop :=
  (∀ s t, s.storesOk = true → step s = .next t → t.storesOk = true) ∧
  (∀ s t, s.numbersOk = true → step s = .next t → t.numbersOk = true)
end

