-- ==== Sys2Proof/Laws/State.lean ====
section
/-! SUPPORT. What each update of the state leaves alone, field by field, and what a read by key finds after an update by key. -/
namespace Sys2Proof.Machine.State

@[simp] theorem modFrame_mem (s : State) (i : Nat) (f : Frame → Frame) : (s.modFrame i f).mem = s.mem := rfl
@[simp] theorem modFrame_cells (s : State) (i : Nat) (f : Frame → Frame) : (s.modFrame i f).cells = s.cells := rfl
@[simp] theorem modFrame_made (s : State) (i : Nat) (f : Frame → Frame) : (s.modFrame i f).made = s.made := rfl
@[simp] theorem modFrame_stalls (s : State) (i : Nat) (f : Frame → Frame) : (s.modFrame i f).stalls = s.stalls := rfl
@[simp] theorem modFrame_halls (s : State) (i : Nat) (f : Frame → Frame) : (s.modFrame i f).halls = s.halls := rfl
@[simp] theorem modFrame_ctxs (s : State) (i : Nat) (f : Frame → Frame) : (s.modFrame i f).ctxs = s.ctxs := rfl
@[simp] theorem modFrame_blocks (s : State) (i : Nat) (f : Frame → Frame) : (s.modFrame i f).blocks = s.blocks := rfl
@[simp] theorem modFrame_ops (s : State) (i : Nat) (f : Frame → Frame) : (s.modFrame i f).ops = s.ops := rfl
@[simp] theorem modFrame_flight (s : State) (i : Nat) (f : Frame → Frame) : (s.modFrame i f).flight = s.flight := rfl
@[simp] theorem modFrame_walks (s : State) (i : Nat) (f : Frame → Frame) : (s.modFrame i f).walks = s.walks := rfl
@[simp] theorem modFrame_conts (s : State) (i : Nat) (f : Frame → Frame) : (s.modFrame i f).conts = s.conts := rfl
@[simp] theorem modFrame_origins (s : State) (i : Nat) (f : Frame → Frame) : (s.modFrame i f).origins = s.origins := rfl
@[simp] theorem modFrame_fences (s : State) (i : Nat) (f : Frame → Frame) : (s.modFrame i f).fences = s.fences := rfl
@[simp] theorem modFrame_early (s : State) (i : Nat) (f : Frame → Frame) : (s.modFrame i f).early = s.early := rfl
@[simp] theorem modFrame_copies (s : State) (i : Nat) (f : Frame → Frame) : (s.modFrame i f).copies = s.copies := rfl
@[simp] theorem modFrame_recs (s : State) (i : Nat) (f : Frame → Frame) : (s.modFrame i f).recs = s.recs := rfl
@[simp] theorem modFrame_launches (s : State) (i : Nat) (f : Frame → Frame) : (s.modFrame i f).launches = s.launches := rfl
@[simp] theorem modFrame_heats (s : State) (i : Nat) (f : Frame → Frame) : (s.modFrame i f).heats = s.heats := rfl
@[simp] theorem modFrame_jobrecs (s : State) (i : Nat) (f : Frame → Frame) : (s.modFrame i f).jobrecs = s.jobrecs := rfl
@[simp] theorem modFrame_insts (s : State) (i : Nat) (f : Frame → Frame) : (s.modFrame i f).insts = s.insts := rfl
@[simp] theorem modFrame_images (s : State) (i : Nat) (f : Frame → Frame) : (s.modFrame i f).images = s.images := rfl
@[simp] theorem modFrame_reds (s : State) (i : Nat) (f : Frame → Frame) : (s.modFrame i f).reds = s.reds := rfl
@[simp] theorem modFrame_pairs (s : State) (i : Nat) (f : Frame → Frame) : (s.modFrame i f).pairs = s.pairs := rfl
@[simp] theorem modFrame_classes (s : State) (i : Nat) (f : Frame → Frame) : (s.modFrame i f).classes = s.classes := rfl
@[simp] theorem modFrame_l2 (s : State) (i : Nat) (f : Frame → Frame) : (s.modFrame i f).l2 = s.l2 := rfl
@[simp] theorem modFrame_vslots (s : State) (i : Nat) (f : Frame → Frame) : (s.modFrame i f).vslots = s.vslots := rfl
@[simp] theorem modFrame_vedits (s : State) (i : Nat) (f : Frame → Frame) : (s.modFrame i f).vedits = s.vedits := rfl
@[simp] theorem modFrame_pkg (s : State) (i : Nat) (f : Frame → Frame) : (s.modFrame i f).pkg = s.pkg := rfl
@[simp] theorem modFrame_mail (s : State) (i : Nat) (f : Frame → Frame) : (s.modFrame i f).mail = s.mail := rfl
@[simp] theorem modFrame_cur (s : State) (i : Nat) (f : Frame → Frame) : (s.modFrame i f).cur = s.cur := rfl
@[simp] theorem modFrame_nextId (s : State) (i : Nat) (f : Frame → Frame) : (s.modFrame i f).nextId = s.nextId := rfl
@[simp] theorem modFrame_sched (s : State) (i : Nat) (f : Frame → Frame) : (s.modFrame i f).sched = s.sched := rfl
@[simp] theorem modFrame_tick (s : State) (i : Nat) (f : Frame → Frame) : (s.modFrame i f).tick = s.tick := rfl
@[simp] theorem modFrame_draws (s : State) (i : Nat) (f : Frame → Frame) : (s.modFrame i f).draws = s.draws := rfl
@[simp] theorem modBlock_mem (s : State) (i : Nat) (f : Block → Block) : (s.modBlock i f).mem = s.mem := rfl
@[simp] theorem modBlock_cells (s : State) (i : Nat) (f : Block → Block) : (s.modBlock i f).cells = s.cells := rfl
@[simp] theorem modBlock_made (s : State) (i : Nat) (f : Block → Block) : (s.modBlock i f).made = s.made := rfl
@[simp] theorem modBlock_stalls (s : State) (i : Nat) (f : Block → Block) : (s.modBlock i f).stalls = s.stalls := rfl
@[simp] theorem modBlock_halls (s : State) (i : Nat) (f : Block → Block) : (s.modBlock i f).halls = s.halls := rfl
@[simp] theorem modBlock_ctxs (s : State) (i : Nat) (f : Block → Block) : (s.modBlock i f).ctxs = s.ctxs := rfl
@[simp] theorem modBlock_frames (s : State) (i : Nat) (f : Block → Block) : (s.modBlock i f).frames = s.frames := rfl
@[simp] theorem modBlock_ops (s : State) (i : Nat) (f : Block → Block) : (s.modBlock i f).ops = s.ops := rfl
@[simp] theorem modBlock_flight (s : State) (i : Nat) (f : Block → Block) : (s.modBlock i f).flight = s.flight := rfl
@[simp] theorem modBlock_walks (s : State) (i : Nat) (f : Block → Block) : (s.modBlock i f).walks = s.walks := rfl
@[simp] theorem modBlock_conts (s : State) (i : Nat) (f : Block → Block) : (s.modBlock i f).conts = s.conts := rfl
@[simp] theorem modBlock_origins (s : State) (i : Nat) (f : Block → Block) : (s.modBlock i f).origins = s.origins := rfl
@[simp] theorem modBlock_fences (s : State) (i : Nat) (f : Block → Block) : (s.modBlock i f).fences = s.fences := rfl
@[simp] theorem modBlock_early (s : State) (i : Nat) (f : Block → Block) : (s.modBlock i f).early = s.early := rfl
@[simp] theorem modBlock_copies (s : State) (i : Nat) (f : Block → Block) : (s.modBlock i f).copies = s.copies := rfl
@[simp] theorem modBlock_recs (s : State) (i : Nat) (f : Block → Block) : (s.modBlock i f).recs = s.recs := rfl
@[simp] theorem modBlock_launches (s : State) (i : Nat) (f : Block → Block) : (s.modBlock i f).launches = s.launches := rfl
@[simp] theorem modBlock_heats (s : State) (i : Nat) (f : Block → Block) : (s.modBlock i f).heats = s.heats := rfl
@[simp] theorem modBlock_jobrecs (s : State) (i : Nat) (f : Block → Block) : (s.modBlock i f).jobrecs = s.jobrecs := rfl
@[simp] theorem modBlock_insts (s : State) (i : Nat) (f : Block → Block) : (s.modBlock i f).insts = s.insts := rfl
@[simp] theorem modBlock_images (s : State) (i : Nat) (f : Block → Block) : (s.modBlock i f).images = s.images := rfl
@[simp] theorem modBlock_reds (s : State) (i : Nat) (f : Block → Block) : (s.modBlock i f).reds = s.reds := rfl
@[simp] theorem modBlock_pairs (s : State) (i : Nat) (f : Block → Block) : (s.modBlock i f).pairs = s.pairs := rfl
@[simp] theorem modBlock_classes (s : State) (i : Nat) (f : Block → Block) : (s.modBlock i f).classes = s.classes := rfl
@[simp] theorem modBlock_l2 (s : State) (i : Nat) (f : Block → Block) : (s.modBlock i f).l2 = s.l2 := rfl
@[simp] theorem modBlock_vslots (s : State) (i : Nat) (f : Block → Block) : (s.modBlock i f).vslots = s.vslots := rfl
@[simp] theorem modBlock_vedits (s : State) (i : Nat) (f : Block → Block) : (s.modBlock i f).vedits = s.vedits := rfl
@[simp] theorem modBlock_pkg (s : State) (i : Nat) (f : Block → Block) : (s.modBlock i f).pkg = s.pkg := rfl
@[simp] theorem modBlock_mail (s : State) (i : Nat) (f : Block → Block) : (s.modBlock i f).mail = s.mail := rfl
@[simp] theorem modBlock_cur (s : State) (i : Nat) (f : Block → Block) : (s.modBlock i f).cur = s.cur := rfl
@[simp] theorem modBlock_nextId (s : State) (i : Nat) (f : Block → Block) : (s.modBlock i f).nextId = s.nextId := rfl
@[simp] theorem modBlock_sched (s : State) (i : Nat) (f : Block → Block) : (s.modBlock i f).sched = s.sched := rfl
@[simp] theorem modBlock_tick (s : State) (i : Nat) (f : Block → Block) : (s.modBlock i f).tick = s.tick := rfl
@[simp] theorem modBlock_draws (s : State) (i : Nat) (f : Block → Block) : (s.modBlock i f).draws = s.draws := rfl
@[simp] theorem modInst_mem (s : State) (i : Nat) (f : Inst → Inst) : (s.modInst i f).mem = s.mem := rfl
@[simp] theorem modInst_cells (s : State) (i : Nat) (f : Inst → Inst) : (s.modInst i f).cells = s.cells := rfl
@[simp] theorem modInst_made (s : State) (i : Nat) (f : Inst → Inst) : (s.modInst i f).made = s.made := rfl
@[simp] theorem modInst_stalls (s : State) (i : Nat) (f : Inst → Inst) : (s.modInst i f).stalls = s.stalls := rfl
@[simp] theorem modInst_halls (s : State) (i : Nat) (f : Inst → Inst) : (s.modInst i f).halls = s.halls := rfl
@[simp] theorem modInst_ctxs (s : State) (i : Nat) (f : Inst → Inst) : (s.modInst i f).ctxs = s.ctxs := rfl
@[simp] theorem modInst_frames (s : State) (i : Nat) (f : Inst → Inst) : (s.modInst i f).frames = s.frames := rfl
@[simp] theorem modInst_blocks (s : State) (i : Nat) (f : Inst → Inst) : (s.modInst i f).blocks = s.blocks := rfl
@[simp] theorem modInst_ops (s : State) (i : Nat) (f : Inst → Inst) : (s.modInst i f).ops = s.ops := rfl
@[simp] theorem modInst_flight (s : State) (i : Nat) (f : Inst → Inst) : (s.modInst i f).flight = s.flight := rfl
@[simp] theorem modInst_walks (s : State) (i : Nat) (f : Inst → Inst) : (s.modInst i f).walks = s.walks := rfl
@[simp] theorem modInst_conts (s : State) (i : Nat) (f : Inst → Inst) : (s.modInst i f).conts = s.conts := rfl
@[simp] theorem modInst_origins (s : State) (i : Nat) (f : Inst → Inst) : (s.modInst i f).origins = s.origins := rfl
@[simp] theorem modInst_fences (s : State) (i : Nat) (f : Inst → Inst) : (s.modInst i f).fences = s.fences := rfl
@[simp] theorem modInst_early (s : State) (i : Nat) (f : Inst → Inst) : (s.modInst i f).early = s.early := rfl
@[simp] theorem modInst_copies (s : State) (i : Nat) (f : Inst → Inst) : (s.modInst i f).copies = s.copies := rfl
@[simp] theorem modInst_recs (s : State) (i : Nat) (f : Inst → Inst) : (s.modInst i f).recs = s.recs := rfl
@[simp] theorem modInst_launches (s : State) (i : Nat) (f : Inst → Inst) : (s.modInst i f).launches = s.launches := rfl
@[simp] theorem modInst_heats (s : State) (i : Nat) (f : Inst → Inst) : (s.modInst i f).heats = s.heats := rfl
@[simp] theorem modInst_jobrecs (s : State) (i : Nat) (f : Inst → Inst) : (s.modInst i f).jobrecs = s.jobrecs := rfl
@[simp] theorem modInst_images (s : State) (i : Nat) (f : Inst → Inst) : (s.modInst i f).images = s.images := rfl
@[simp] theorem modInst_reds (s : State) (i : Nat) (f : Inst → Inst) : (s.modInst i f).reds = s.reds := rfl
@[simp] theorem modInst_pairs (s : State) (i : Nat) (f : Inst → Inst) : (s.modInst i f).pairs = s.pairs := rfl
@[simp] theorem modInst_classes (s : State) (i : Nat) (f : Inst → Inst) : (s.modInst i f).classes = s.classes := rfl
@[simp] theorem modInst_l2 (s : State) (i : Nat) (f : Inst → Inst) : (s.modInst i f).l2 = s.l2 := rfl
@[simp] theorem modInst_vslots (s : State) (i : Nat) (f : Inst → Inst) : (s.modInst i f).vslots = s.vslots := rfl
@[simp] theorem modInst_vedits (s : State) (i : Nat) (f : Inst → Inst) : (s.modInst i f).vedits = s.vedits := rfl
@[simp] theorem modInst_pkg (s : State) (i : Nat) (f : Inst → Inst) : (s.modInst i f).pkg = s.pkg := rfl
@[simp] theorem modInst_mail (s : State) (i : Nat) (f : Inst → Inst) : (s.modInst i f).mail = s.mail := rfl
@[simp] theorem modInst_cur (s : State) (i : Nat) (f : Inst → Inst) : (s.modInst i f).cur = s.cur := rfl
@[simp] theorem modInst_nextId (s : State) (i : Nat) (f : Inst → Inst) : (s.modInst i f).nextId = s.nextId := rfl
@[simp] theorem modInst_sched (s : State) (i : Nat) (f : Inst → Inst) : (s.modInst i f).sched = s.sched := rfl
@[simp] theorem modInst_tick (s : State) (i : Nat) (f : Inst → Inst) : (s.modInst i f).tick = s.tick := rfl
@[simp] theorem modInst_draws (s : State) (i : Nat) (f : Inst → Inst) : (s.modInst i f).draws = s.draws := rfl
@[simp] theorem modLaunch_mem (s : State) (i j : Nat) (f : Launch → Launch) : (s.modLaunch i j f).mem = s.mem := rfl
@[simp] theorem modLaunch_cells (s : State) (i j : Nat) (f : Launch → Launch) : (s.modLaunch i j f).cells = s.cells := rfl
@[simp] theorem modLaunch_made (s : State) (i j : Nat) (f : Launch → Launch) : (s.modLaunch i j f).made = s.made := rfl
@[simp] theorem modLaunch_stalls (s : State) (i j : Nat) (f : Launch → Launch) : (s.modLaunch i j f).stalls = s.stalls := rfl
@[simp] theorem modLaunch_halls (s : State) (i j : Nat) (f : Launch → Launch) : (s.modLaunch i j f).halls = s.halls := rfl
@[simp] theorem modLaunch_ctxs (s : State) (i j : Nat) (f : Launch → Launch) : (s.modLaunch i j f).ctxs = s.ctxs := rfl
@[simp] theorem modLaunch_frames (s : State) (i j : Nat) (f : Launch → Launch) : (s.modLaunch i j f).frames = s.frames := rfl
@[simp] theorem modLaunch_blocks (s : State) (i j : Nat) (f : Launch → Launch) : (s.modLaunch i j f).blocks = s.blocks := rfl
@[simp] theorem modLaunch_ops (s : State) (i j : Nat) (f : Launch → Launch) : (s.modLaunch i j f).ops = s.ops := rfl
@[simp] theorem modLaunch_flight (s : State) (i j : Nat) (f : Launch → Launch) : (s.modLaunch i j f).flight = s.flight := rfl
@[simp] theorem modLaunch_walks (s : State) (i j : Nat) (f : Launch → Launch) : (s.modLaunch i j f).walks = s.walks := rfl
@[simp] theorem modLaunch_conts (s : State) (i j : Nat) (f : Launch → Launch) : (s.modLaunch i j f).conts = s.conts := rfl
@[simp] theorem modLaunch_origins (s : State) (i j : Nat) (f : Launch → Launch) : (s.modLaunch i j f).origins = s.origins := rfl
@[simp] theorem modLaunch_fences (s : State) (i j : Nat) (f : Launch → Launch) : (s.modLaunch i j f).fences = s.fences := rfl
@[simp] theorem modLaunch_early (s : State) (i j : Nat) (f : Launch → Launch) : (s.modLaunch i j f).early = s.early := rfl
@[simp] theorem modLaunch_copies (s : State) (i j : Nat) (f : Launch → Launch) : (s.modLaunch i j f).copies = s.copies := rfl
@[simp] theorem modLaunch_recs (s : State) (i j : Nat) (f : Launch → Launch) : (s.modLaunch i j f).recs = s.recs := rfl
@[simp] theorem modLaunch_heats (s : State) (i j : Nat) (f : Launch → Launch) : (s.modLaunch i j f).heats = s.heats := rfl
@[simp] theorem modLaunch_jobrecs (s : State) (i j : Nat) (f : Launch → Launch) : (s.modLaunch i j f).jobrecs = s.jobrecs := rfl
@[simp] theorem modLaunch_insts (s : State) (i j : Nat) (f : Launch → Launch) : (s.modLaunch i j f).insts = s.insts := rfl
@[simp] theorem modLaunch_images (s : State) (i j : Nat) (f : Launch → Launch) : (s.modLaunch i j f).images = s.images := rfl
@[simp] theorem modLaunch_reds (s : State) (i j : Nat) (f : Launch → Launch) : (s.modLaunch i j f).reds = s.reds := rfl
@[simp] theorem modLaunch_pairs (s : State) (i j : Nat) (f : Launch → Launch) : (s.modLaunch i j f).pairs = s.pairs := rfl
@[simp] theorem modLaunch_classes (s : State) (i j : Nat) (f : Launch → Launch) : (s.modLaunch i j f).classes = s.classes := rfl
@[simp] theorem modLaunch_l2 (s : State) (i j : Nat) (f : Launch → Launch) : (s.modLaunch i j f).l2 = s.l2 := rfl
@[simp] theorem modLaunch_vslots (s : State) (i j : Nat) (f : Launch → Launch) : (s.modLaunch i j f).vslots = s.vslots := rfl
@[simp] theorem modLaunch_vedits (s : State) (i j : Nat) (f : Launch → Launch) : (s.modLaunch i j f).vedits = s.vedits := rfl
@[simp] theorem modLaunch_pkg (s : State) (i j : Nat) (f : Launch → Launch) : (s.modLaunch i j f).pkg = s.pkg := rfl
@[simp] theorem modLaunch_mail (s : State) (i j : Nat) (f : Launch → Launch) : (s.modLaunch i j f).mail = s.mail := rfl
@[simp] theorem modLaunch_cur (s : State) (i j : Nat) (f : Launch → Launch) : (s.modLaunch i j f).cur = s.cur := rfl
@[simp] theorem modLaunch_nextId (s : State) (i j : Nat) (f : Launch → Launch) : (s.modLaunch i j f).nextId = s.nextId := rfl
@[simp] theorem modLaunch_sched (s : State) (i j : Nat) (f : Launch → Launch) : (s.modLaunch i j f).sched = s.sched := rfl
@[simp] theorem modLaunch_tick (s : State) (i j : Nat) (f : Launch → Launch) : (s.modLaunch i j f).tick = s.tick := rfl
@[simp] theorem modLaunch_draws (s : State) (i j : Nat) (f : Launch → Launch) : (s.modLaunch i j f).draws = s.draws := rfl
@[simp] theorem modHeat_mem (s : State) (i j : Nat) (f : Heat → Heat) : (s.modHeat i j f).mem = s.mem := rfl
@[simp] theorem modHeat_cells (s : State) (i j : Nat) (f : Heat → Heat) : (s.modHeat i j f).cells = s.cells := rfl
@[simp] theorem modHeat_made (s : State) (i j : Nat) (f : Heat → Heat) : (s.modHeat i j f).made = s.made := rfl
@[simp] theorem modHeat_stalls (s : State) (i j : Nat) (f : Heat → Heat) : (s.modHeat i j f).stalls = s.stalls := rfl
@[simp] theorem modHeat_halls (s : State) (i j : Nat) (f : Heat → Heat) : (s.modHeat i j f).halls = s.halls := rfl
@[simp] theorem modHeat_ctxs (s : State) (i j : Nat) (f : Heat → Heat) : (s.modHeat i j f).ctxs = s.ctxs := rfl
@[simp] theorem modHeat_frames (s : State) (i j : Nat) (f : Heat → Heat) : (s.modHeat i j f).frames = s.frames := rfl
@[simp] theorem modHeat_blocks (s : State) (i j : Nat) (f : Heat → Heat) : (s.modHeat i j f).blocks = s.blocks := rfl
@[simp] theorem modHeat_ops (s : State) (i j : Nat) (f : Heat → Heat) : (s.modHeat i j f).ops = s.ops := rfl
@[simp] theorem modHeat_flight (s : State) (i j : Nat) (f : Heat → Heat) : (s.modHeat i j f).flight = s.flight := rfl
@[simp] theorem modHeat_walks (s : State) (i j : Nat) (f : Heat → Heat) : (s.modHeat i j f).walks = s.walks := rfl
@[simp] theorem modHeat_conts (s : State) (i j : Nat) (f : Heat → Heat) : (s.modHeat i j f).conts = s.conts := rfl
@[simp] theorem modHeat_origins (s : State) (i j : Nat) (f : Heat → Heat) : (s.modHeat i j f).origins = s.origins := rfl
@[simp] theorem modHeat_fences (s : State) (i j : Nat) (f : Heat → Heat) : (s.modHeat i j f).fences = s.fences := rfl
@[simp] theorem modHeat_early (s : State) (i j : Nat) (f : Heat → Heat) : (s.modHeat i j f).early = s.early := rfl
@[simp] theorem modHeat_copies (s : State) (i j : Nat) (f : Heat → Heat) : (s.modHeat i j f).copies = s.copies := rfl
@[simp] theorem modHeat_recs (s : State) (i j : Nat) (f : Heat → Heat) : (s.modHeat i j f).recs = s.recs := rfl
@[simp] theorem modHeat_launches (s : State) (i j : Nat) (f : Heat → Heat) : (s.modHeat i j f).launches = s.launches := rfl
@[simp] theorem modHeat_jobrecs (s : State) (i j : Nat) (f : Heat → Heat) : (s.modHeat i j f).jobrecs = s.jobrecs := rfl
@[simp] theorem modHeat_insts (s : State) (i j : Nat) (f : Heat → Heat) : (s.modHeat i j f).insts = s.insts := rfl
@[simp] theorem modHeat_images (s : State) (i j : Nat) (f : Heat → Heat) : (s.modHeat i j f).images = s.images := rfl
@[simp] theorem modHeat_reds (s : State) (i j : Nat) (f : Heat → Heat) : (s.modHeat i j f).reds = s.reds := rfl
@[simp] theorem modHeat_pairs (s : State) (i j : Nat) (f : Heat → Heat) : (s.modHeat i j f).pairs = s.pairs := rfl
@[simp] theorem modHeat_classes (s : State) (i j : Nat) (f : Heat → Heat) : (s.modHeat i j f).classes = s.classes := rfl
@[simp] theorem modHeat_l2 (s : State) (i j : Nat) (f : Heat → Heat) : (s.modHeat i j f).l2 = s.l2 := rfl
@[simp] theorem modHeat_vslots (s : State) (i j : Nat) (f : Heat → Heat) : (s.modHeat i j f).vslots = s.vslots := rfl
@[simp] theorem modHeat_vedits (s : State) (i j : Nat) (f : Heat → Heat) : (s.modHeat i j f).vedits = s.vedits := rfl
@[simp] theorem modHeat_pkg (s : State) (i j : Nat) (f : Heat → Heat) : (s.modHeat i j f).pkg = s.pkg := rfl
@[simp] theorem modHeat_mail (s : State) (i j : Nat) (f : Heat → Heat) : (s.modHeat i j f).mail = s.mail := rfl
@[simp] theorem modHeat_cur (s : State) (i j : Nat) (f : Heat → Heat) : (s.modHeat i j f).cur = s.cur := rfl
@[simp] theorem modHeat_nextId (s : State) (i j : Nat) (f : Heat → Heat) : (s.modHeat i j f).nextId = s.nextId := rfl
@[simp] theorem modHeat_sched (s : State) (i j : Nat) (f : Heat → Heat) : (s.modHeat i j f).sched = s.sched := rfl
@[simp] theorem modHeat_tick (s : State) (i j : Nat) (f : Heat → Heat) : (s.modHeat i j f).tick = s.tick := rfl
@[simp] theorem modHeat_draws (s : State) (i j : Nat) (f : Heat → Heat) : (s.modHeat i j f).draws = s.draws := rfl
@[simp] theorem modJobrec_mem (s : State) (i j : Nat) (f : JobRec → JobRec) : (s.modJobrec i j f).mem = s.mem := rfl
@[simp] theorem modJobrec_cells (s : State) (i j : Nat) (f : JobRec → JobRec) : (s.modJobrec i j f).cells = s.cells := rfl
@[simp] theorem modJobrec_made (s : State) (i j : Nat) (f : JobRec → JobRec) : (s.modJobrec i j f).made = s.made := rfl
@[simp] theorem modJobrec_stalls (s : State) (i j : Nat) (f : JobRec → JobRec) : (s.modJobrec i j f).stalls = s.stalls := rfl
@[simp] theorem modJobrec_halls (s : State) (i j : Nat) (f : JobRec → JobRec) : (s.modJobrec i j f).halls = s.halls := rfl
@[simp] theorem modJobrec_ctxs (s : State) (i j : Nat) (f : JobRec → JobRec) : (s.modJobrec i j f).ctxs = s.ctxs := rfl
@[simp] theorem modJobrec_frames (s : State) (i j : Nat) (f : JobRec → JobRec) : (s.modJobrec i j f).frames = s.frames := rfl
@[simp] theorem modJobrec_blocks (s : State) (i j : Nat) (f : JobRec → JobRec) : (s.modJobrec i j f).blocks = s.blocks := rfl
@[simp] theorem modJobrec_ops (s : State) (i j : Nat) (f : JobRec → JobRec) : (s.modJobrec i j f).ops = s.ops := rfl
@[simp] theorem modJobrec_flight (s : State) (i j : Nat) (f : JobRec → JobRec) : (s.modJobrec i j f).flight = s.flight := rfl
@[simp] theorem modJobrec_walks (s : State) (i j : Nat) (f : JobRec → JobRec) : (s.modJobrec i j f).walks = s.walks := rfl
@[simp] theorem modJobrec_conts (s : State) (i j : Nat) (f : JobRec → JobRec) : (s.modJobrec i j f).conts = s.conts := rfl
@[simp] theorem modJobrec_origins (s : State) (i j : Nat) (f : JobRec → JobRec) : (s.modJobrec i j f).origins = s.origins := rfl
@[simp] theorem modJobrec_fences (s : State) (i j : Nat) (f : JobRec → JobRec) : (s.modJobrec i j f).fences = s.fences := rfl
@[simp] theorem modJobrec_early (s : State) (i j : Nat) (f : JobRec → JobRec) : (s.modJobrec i j f).early = s.early := rfl
@[simp] theorem modJobrec_copies (s : State) (i j : Nat) (f : JobRec → JobRec) : (s.modJobrec i j f).copies = s.copies := rfl
@[simp] theorem modJobrec_recs (s : State) (i j : Nat) (f : JobRec → JobRec) : (s.modJobrec i j f).recs = s.recs := rfl
@[simp] theorem modJobrec_launches (s : State) (i j : Nat) (f : JobRec → JobRec) : (s.modJobrec i j f).launches = s.launches := rfl
@[simp] theorem modJobrec_heats (s : State) (i j : Nat) (f : JobRec → JobRec) : (s.modJobrec i j f).heats = s.heats := rfl
@[simp] theorem modJobrec_insts (s : State) (i j : Nat) (f : JobRec → JobRec) : (s.modJobrec i j f).insts = s.insts := rfl
@[simp] theorem modJobrec_images (s : State) (i j : Nat) (f : JobRec → JobRec) : (s.modJobrec i j f).images = s.images := rfl
@[simp] theorem modJobrec_reds (s : State) (i j : Nat) (f : JobRec → JobRec) : (s.modJobrec i j f).reds = s.reds := rfl
@[simp] theorem modJobrec_pairs (s : State) (i j : Nat) (f : JobRec → JobRec) : (s.modJobrec i j f).pairs = s.pairs := rfl
@[simp] theorem modJobrec_classes (s : State) (i j : Nat) (f : JobRec → JobRec) : (s.modJobrec i j f).classes = s.classes := rfl
@[simp] theorem modJobrec_l2 (s : State) (i j : Nat) (f : JobRec → JobRec) : (s.modJobrec i j f).l2 = s.l2 := rfl
@[simp] theorem modJobrec_vslots (s : State) (i j : Nat) (f : JobRec → JobRec) : (s.modJobrec i j f).vslots = s.vslots := rfl
@[simp] theorem modJobrec_vedits (s : State) (i j : Nat) (f : JobRec → JobRec) : (s.modJobrec i j f).vedits = s.vedits := rfl
@[simp] theorem modJobrec_pkg (s : State) (i j : Nat) (f : JobRec → JobRec) : (s.modJobrec i j f).pkg = s.pkg := rfl
@[simp] theorem modJobrec_mail (s : State) (i j : Nat) (f : JobRec → JobRec) : (s.modJobrec i j f).mail = s.mail := rfl
@[simp] theorem modJobrec_cur (s : State) (i j : Nat) (f : JobRec → JobRec) : (s.modJobrec i j f).cur = s.cur := rfl
@[simp] theorem modJobrec_nextId (s : State) (i j : Nat) (f : JobRec → JobRec) : (s.modJobrec i j f).nextId = s.nextId := rfl
@[simp] theorem modJobrec_sched (s : State) (i j : Nat) (f : JobRec → JobRec) : (s.modJobrec i j f).sched = s.sched := rfl
@[simp] theorem modJobrec_tick (s : State) (i j : Nat) (f : JobRec → JobRec) : (s.modJobrec i j f).tick = s.tick := rfl
@[simp] theorem modJobrec_draws (s : State) (i j : Nat) (f : JobRec → JobRec) : (s.modJobrec i j f).draws = s.draws := rfl
@[simp] theorem modRed_mem (s : State) (i j : Nat) (f : Red → Red) : (s.modRed i j f).mem = s.mem := rfl
@[simp] theorem modRed_cells (s : State) (i j : Nat) (f : Red → Red) : (s.modRed i j f).cells = s.cells := rfl
@[simp] theorem modRed_made (s : State) (i j : Nat) (f : Red → Red) : (s.modRed i j f).made = s.made := rfl
@[simp] theorem modRed_stalls (s : State) (i j : Nat) (f : Red → Red) : (s.modRed i j f).stalls = s.stalls := rfl
@[simp] theorem modRed_halls (s : State) (i j : Nat) (f : Red → Red) : (s.modRed i j f).halls = s.halls := rfl
@[simp] theorem modRed_ctxs (s : State) (i j : Nat) (f : Red → Red) : (s.modRed i j f).ctxs = s.ctxs := rfl
@[simp] theorem modRed_frames (s : State) (i j : Nat) (f : Red → Red) : (s.modRed i j f).frames = s.frames := rfl
@[simp] theorem modRed_blocks (s : State) (i j : Nat) (f : Red → Red) : (s.modRed i j f).blocks = s.blocks := rfl
@[simp] theorem modRed_ops (s : State) (i j : Nat) (f : Red → Red) : (s.modRed i j f).ops = s.ops := rfl
@[simp] theorem modRed_flight (s : State) (i j : Nat) (f : Red → Red) : (s.modRed i j f).flight = s.flight := rfl
@[simp] theorem modRed_walks (s : State) (i j : Nat) (f : Red → Red) : (s.modRed i j f).walks = s.walks := rfl
@[simp] theorem modRed_conts (s : State) (i j : Nat) (f : Red → Red) : (s.modRed i j f).conts = s.conts := rfl
@[simp] theorem modRed_origins (s : State) (i j : Nat) (f : Red → Red) : (s.modRed i j f).origins = s.origins := rfl
@[simp] theorem modRed_fences (s : State) (i j : Nat) (f : Red → Red) : (s.modRed i j f).fences = s.fences := rfl
@[simp] theorem modRed_early (s : State) (i j : Nat) (f : Red → Red) : (s.modRed i j f).early = s.early := rfl
@[simp] theorem modRed_copies (s : State) (i j : Nat) (f : Red → Red) : (s.modRed i j f).copies = s.copies := rfl
@[simp] theorem modRed_recs (s : State) (i j : Nat) (f : Red → Red) : (s.modRed i j f).recs = s.recs := rfl
@[simp] theorem modRed_launches (s : State) (i j : Nat) (f : Red → Red) : (s.modRed i j f).launches = s.launches := rfl
@[simp] theorem modRed_heats (s : State) (i j : Nat) (f : Red → Red) : (s.modRed i j f).heats = s.heats := rfl
@[simp] theorem modRed_jobrecs (s : State) (i j : Nat) (f : Red → Red) : (s.modRed i j f).jobrecs = s.jobrecs := rfl
@[simp] theorem modRed_insts (s : State) (i j : Nat) (f : Red → Red) : (s.modRed i j f).insts = s.insts := rfl
@[simp] theorem modRed_images (s : State) (i j : Nat) (f : Red → Red) : (s.modRed i j f).images = s.images := rfl
@[simp] theorem modRed_pairs (s : State) (i j : Nat) (f : Red → Red) : (s.modRed i j f).pairs = s.pairs := rfl
@[simp] theorem modRed_classes (s : State) (i j : Nat) (f : Red → Red) : (s.modRed i j f).classes = s.classes := rfl
@[simp] theorem modRed_l2 (s : State) (i j : Nat) (f : Red → Red) : (s.modRed i j f).l2 = s.l2 := rfl
@[simp] theorem modRed_vslots (s : State) (i j : Nat) (f : Red → Red) : (s.modRed i j f).vslots = s.vslots := rfl
@[simp] theorem modRed_vedits (s : State) (i j : Nat) (f : Red → Red) : (s.modRed i j f).vedits = s.vedits := rfl
@[simp] theorem modRed_pkg (s : State) (i j : Nat) (f : Red → Red) : (s.modRed i j f).pkg = s.pkg := rfl
@[simp] theorem modRed_mail (s : State) (i j : Nat) (f : Red → Red) : (s.modRed i j f).mail = s.mail := rfl
@[simp] theorem modRed_cur (s : State) (i j : Nat) (f : Red → Red) : (s.modRed i j f).cur = s.cur := rfl
@[simp] theorem modRed_nextId (s : State) (i j : Nat) (f : Red → Red) : (s.modRed i j f).nextId = s.nextId := rfl
@[simp] theorem modRed_sched (s : State) (i j : Nat) (f : Red → Red) : (s.modRed i j f).sched = s.sched := rfl
@[simp] theorem modRed_tick (s : State) (i j : Nat) (f : Red → Red) : (s.modRed i j f).tick = s.tick := rfl
@[simp] theorem modRed_draws (s : State) (i j : Nat) (f : Red → Red) : (s.modRed i j f).draws = s.draws := rfl
@[simp] theorem modRec_mem (s : State) (i : Nat) (f : Rec → Rec) : (s.modRec i f).mem = s.mem := rfl
@[simp] theorem modRec_cells (s : State) (i : Nat) (f : Rec → Rec) : (s.modRec i f).cells = s.cells := rfl
@[simp] theorem modRec_made (s : State) (i : Nat) (f : Rec → Rec) : (s.modRec i f).made = s.made := rfl
@[simp] theorem modRec_stalls (s : State) (i : Nat) (f : Rec → Rec) : (s.modRec i f).stalls = s.stalls := rfl
@[simp] theorem modRec_halls (s : State) (i : Nat) (f : Rec → Rec) : (s.modRec i f).halls = s.halls := rfl
@[simp] theorem modRec_ctxs (s : State) (i : Nat) (f : Rec → Rec) : (s.modRec i f).ctxs = s.ctxs := rfl
@[simp] theorem modRec_frames (s : State) (i : Nat) (f : Rec → Rec) : (s.modRec i f).frames = s.frames := rfl
@[simp] theorem modRec_blocks (s : State) (i : Nat) (f : Rec → Rec) : (s.modRec i f).blocks = s.blocks := rfl
@[simp] theorem modRec_ops (s : State) (i : Nat) (f : Rec → Rec) : (s.modRec i f).ops = s.ops := rfl
@[simp] theorem modRec_flight (s : State) (i : Nat) (f : Rec → Rec) : (s.modRec i f).flight = s.flight := rfl
@[simp] theorem modRec_walks (s : State) (i : Nat) (f : Rec → Rec) : (s.modRec i f).walks = s.walks := rfl
@[simp] theorem modRec_conts (s : State) (i : Nat) (f : Rec → Rec) : (s.modRec i f).conts = s.conts := rfl
@[simp] theorem modRec_origins (s : State) (i : Nat) (f : Rec → Rec) : (s.modRec i f).origins = s.origins := rfl
@[simp] theorem modRec_fences (s : State) (i : Nat) (f : Rec → Rec) : (s.modRec i f).fences = s.fences := rfl
@[simp] theorem modRec_early (s : State) (i : Nat) (f : Rec → Rec) : (s.modRec i f).early = s.early := rfl
@[simp] theorem modRec_copies (s : State) (i : Nat) (f : Rec → Rec) : (s.modRec i f).copies = s.copies := rfl
@[simp] theorem modRec_launches (s : State) (i : Nat) (f : Rec → Rec) : (s.modRec i f).launches = s.launches := rfl
@[simp] theorem modRec_heats (s : State) (i : Nat) (f : Rec → Rec) : (s.modRec i f).heats = s.heats := rfl
@[simp] theorem modRec_jobrecs (s : State) (i : Nat) (f : Rec → Rec) : (s.modRec i f).jobrecs = s.jobrecs := rfl
@[simp] theorem modRec_insts (s : State) (i : Nat) (f : Rec → Rec) : (s.modRec i f).insts = s.insts := rfl
@[simp] theorem modRec_images (s : State) (i : Nat) (f : Rec → Rec) : (s.modRec i f).images = s.images := rfl
@[simp] theorem modRec_reds (s : State) (i : Nat) (f : Rec → Rec) : (s.modRec i f).reds = s.reds := rfl
@[simp] theorem modRec_pairs (s : State) (i : Nat) (f : Rec → Rec) : (s.modRec i f).pairs = s.pairs := rfl
@[simp] theorem modRec_classes (s : State) (i : Nat) (f : Rec → Rec) : (s.modRec i f).classes = s.classes := rfl
@[simp] theorem modRec_l2 (s : State) (i : Nat) (f : Rec → Rec) : (s.modRec i f).l2 = s.l2 := rfl
@[simp] theorem modRec_vslots (s : State) (i : Nat) (f : Rec → Rec) : (s.modRec i f).vslots = s.vslots := rfl
@[simp] theorem modRec_vedits (s : State) (i : Nat) (f : Rec → Rec) : (s.modRec i f).vedits = s.vedits := rfl
@[simp] theorem modRec_pkg (s : State) (i : Nat) (f : Rec → Rec) : (s.modRec i f).pkg = s.pkg := rfl
@[simp] theorem modRec_mail (s : State) (i : Nat) (f : Rec → Rec) : (s.modRec i f).mail = s.mail := rfl
@[simp] theorem modRec_cur (s : State) (i : Nat) (f : Rec → Rec) : (s.modRec i f).cur = s.cur := rfl
@[simp] theorem modRec_nextId (s : State) (i : Nat) (f : Rec → Rec) : (s.modRec i f).nextId = s.nextId := rfl
@[simp] theorem modRec_sched (s : State) (i : Nat) (f : Rec → Rec) : (s.modRec i f).sched = s.sched := rfl
@[simp] theorem modRec_tick (s : State) (i : Nat) (f : Rec → Rec) : (s.modRec i f).tick = s.tick := rfl
@[simp] theorem modRec_draws (s : State) (i : Nat) (f : Rec → Rec) : (s.modRec i f).draws = s.draws := rfl
@[simp] theorem modPair_mem (s : State) (i j : Nat) (f : Pair → Pair) : (s.modPair i j f).mem = s.mem := rfl
@[simp] theorem modPair_cells (s : State) (i j : Nat) (f : Pair → Pair) : (s.modPair i j f).cells = s.cells := rfl
@[simp] theorem modPair_made (s : State) (i j : Nat) (f : Pair → Pair) : (s.modPair i j f).made = s.made := rfl
@[simp] theorem modPair_stalls (s : State) (i j : Nat) (f : Pair → Pair) : (s.modPair i j f).stalls = s.stalls := rfl
@[simp] theorem modPair_halls (s : State) (i j : Nat) (f : Pair → Pair) : (s.modPair i j f).halls = s.halls := rfl
@[simp] theorem modPair_ctxs (s : State) (i j : Nat) (f : Pair → Pair) : (s.modPair i j f).ctxs = s.ctxs := rfl
@[simp] theorem modPair_frames (s : State) (i j : Nat) (f : Pair → Pair) : (s.modPair i j f).frames = s.frames := rfl
@[simp] theorem modPair_blocks (s : State) (i j : Nat) (f : Pair → Pair) : (s.modPair i j f).blocks = s.blocks := rfl
@[simp] theorem modPair_ops (s : State) (i j : Nat) (f : Pair → Pair) : (s.modPair i j f).ops = s.ops := rfl
@[simp] theorem modPair_flight (s : State) (i j : Nat) (f : Pair → Pair) : (s.modPair i j f).flight = s.flight := rfl
@[simp] theorem modPair_walks (s : State) (i j : Nat) (f : Pair → Pair) : (s.modPair i j f).walks = s.walks := rfl
@[simp] theorem modPair_conts (s : State) (i j : Nat) (f : Pair → Pair) : (s.modPair i j f).conts = s.conts := rfl
@[simp] theorem modPair_origins (s : State) (i j : Nat) (f : Pair → Pair) : (s.modPair i j f).origins = s.origins := rfl
@[simp] theorem modPair_fences (s : State) (i j : Nat) (f : Pair → Pair) : (s.modPair i j f).fences = s.fences := rfl
@[simp] theorem modPair_early (s : State) (i j : Nat) (f : Pair → Pair) : (s.modPair i j f).early = s.early := rfl
@[simp] theorem modPair_copies (s : State) (i j : Nat) (f : Pair → Pair) : (s.modPair i j f).copies = s.copies := rfl
@[simp] theorem modPair_recs (s : State) (i j : Nat) (f : Pair → Pair) : (s.modPair i j f).recs = s.recs := rfl
@[simp] theorem modPair_launches (s : State) (i j : Nat) (f : Pair → Pair) : (s.modPair i j f).launches = s.launches := rfl
@[simp] theorem modPair_heats (s : State) (i j : Nat) (f : Pair → Pair) : (s.modPair i j f).heats = s.heats := rfl
@[simp] theorem modPair_jobrecs (s : State) (i j : Nat) (f : Pair → Pair) : (s.modPair i j f).jobrecs = s.jobrecs := rfl
@[simp] theorem modPair_insts (s : State) (i j : Nat) (f : Pair → Pair) : (s.modPair i j f).insts = s.insts := rfl
@[simp] theorem modPair_images (s : State) (i j : Nat) (f : Pair → Pair) : (s.modPair i j f).images = s.images := rfl
@[simp] theorem modPair_reds (s : State) (i j : Nat) (f : Pair → Pair) : (s.modPair i j f).reds = s.reds := rfl
@[simp] theorem modPair_classes (s : State) (i j : Nat) (f : Pair → Pair) : (s.modPair i j f).classes = s.classes := rfl
@[simp] theorem modPair_l2 (s : State) (i j : Nat) (f : Pair → Pair) : (s.modPair i j f).l2 = s.l2 := rfl
@[simp] theorem modPair_vslots (s : State) (i j : Nat) (f : Pair → Pair) : (s.modPair i j f).vslots = s.vslots := rfl
@[simp] theorem modPair_vedits (s : State) (i j : Nat) (f : Pair → Pair) : (s.modPair i j f).vedits = s.vedits := rfl
@[simp] theorem modPair_pkg (s : State) (i j : Nat) (f : Pair → Pair) : (s.modPair i j f).pkg = s.pkg := rfl
@[simp] theorem modPair_mail (s : State) (i j : Nat) (f : Pair → Pair) : (s.modPair i j f).mail = s.mail := rfl
@[simp] theorem modPair_cur (s : State) (i j : Nat) (f : Pair → Pair) : (s.modPair i j f).cur = s.cur := rfl
@[simp] theorem modPair_nextId (s : State) (i j : Nat) (f : Pair → Pair) : (s.modPair i j f).nextId = s.nextId := rfl
@[simp] theorem modPair_sched (s : State) (i j : Nat) (f : Pair → Pair) : (s.modPair i j f).sched = s.sched := rfl
@[simp] theorem modPair_tick (s : State) (i j : Nat) (f : Pair → Pair) : (s.modPair i j f).tick = s.tick := rfl
@[simp] theorem modPair_draws (s : State) (i j : Nat) (f : Pair → Pair) : (s.modPair i j f).draws = s.draws := rfl
@[simp] theorem modStall_mem (s : State) (i : Nat) (f : Stall → Stall) : (s.modStall i f).mem = s.mem := rfl
@[simp] theorem modStall_cells (s : State) (i : Nat) (f : Stall → Stall) : (s.modStall i f).cells = s.cells := rfl
@[simp] theorem modStall_made (s : State) (i : Nat) (f : Stall → Stall) : (s.modStall i f).made = s.made := rfl
@[simp] theorem modStall_halls (s : State) (i : Nat) (f : Stall → Stall) : (s.modStall i f).halls = s.halls := rfl
@[simp] theorem modStall_ctxs (s : State) (i : Nat) (f : Stall → Stall) : (s.modStall i f).ctxs = s.ctxs := rfl
@[simp] theorem modStall_frames (s : State) (i : Nat) (f : Stall → Stall) : (s.modStall i f).frames = s.frames := rfl
@[simp] theorem modStall_blocks (s : State) (i : Nat) (f : Stall → Stall) : (s.modStall i f).blocks = s.blocks := rfl
@[simp] theorem modStall_ops (s : State) (i : Nat) (f : Stall → Stall) : (s.modStall i f).ops = s.ops := rfl
@[simp] theorem modStall_flight (s : State) (i : Nat) (f : Stall → Stall) : (s.modStall i f).flight = s.flight := rfl
@[simp] theorem modStall_walks (s : State) (i : Nat) (f : Stall → Stall) : (s.modStall i f).walks = s.walks := rfl
@[simp] theorem modStall_conts (s : State) (i : Nat) (f : Stall → Stall) : (s.modStall i f).conts = s.conts := rfl
@[simp] theorem modStall_origins (s : State) (i : Nat) (f : Stall → Stall) : (s.modStall i f).origins = s.origins := rfl
@[simp] theorem modStall_fences (s : State) (i : Nat) (f : Stall → Stall) : (s.modStall i f).fences = s.fences := rfl
@[simp] theorem modStall_early (s : State) (i : Nat) (f : Stall → Stall) : (s.modStall i f).early = s.early := rfl
@[simp] theorem modStall_copies (s : State) (i : Nat) (f : Stall → Stall) : (s.modStall i f).copies = s.copies := rfl
@[simp] theorem modStall_recs (s : State) (i : Nat) (f : Stall → Stall) : (s.modStall i f).recs = s.recs := rfl
@[simp] theorem modStall_launches (s : State) (i : Nat) (f : Stall → Stall) : (s.modStall i f).launches = s.launches := rfl
@[simp] theorem modStall_heats (s : State) (i : Nat) (f : Stall → Stall) : (s.modStall i f).heats = s.heats := rfl
@[simp] theorem modStall_jobrecs (s : State) (i : Nat) (f : Stall → Stall) : (s.modStall i f).jobrecs = s.jobrecs := rfl
@[simp] theorem modStall_insts (s : State) (i : Nat) (f : Stall → Stall) : (s.modStall i f).insts = s.insts := rfl
@[simp] theorem modStall_images (s : State) (i : Nat) (f : Stall → Stall) : (s.modStall i f).images = s.images := rfl
@[simp] theorem modStall_reds (s : State) (i : Nat) (f : Stall → Stall) : (s.modStall i f).reds = s.reds := rfl
@[simp] theorem modStall_pairs (s : State) (i : Nat) (f : Stall → Stall) : (s.modStall i f).pairs = s.pairs := rfl
@[simp] theorem modStall_classes (s : State) (i : Nat) (f : Stall → Stall) : (s.modStall i f).classes = s.classes := rfl
@[simp] theorem modStall_l2 (s : State) (i : Nat) (f : Stall → Stall) : (s.modStall i f).l2 = s.l2 := rfl
@[simp] theorem modStall_vslots (s : State) (i : Nat) (f : Stall → Stall) : (s.modStall i f).vslots = s.vslots := rfl
@[simp] theorem modStall_vedits (s : State) (i : Nat) (f : Stall → Stall) : (s.modStall i f).vedits = s.vedits := rfl
@[simp] theorem modStall_pkg (s : State) (i : Nat) (f : Stall → Stall) : (s.modStall i f).pkg = s.pkg := rfl
@[simp] theorem modStall_mail (s : State) (i : Nat) (f : Stall → Stall) : (s.modStall i f).mail = s.mail := rfl
@[simp] theorem modStall_cur (s : State) (i : Nat) (f : Stall → Stall) : (s.modStall i f).cur = s.cur := rfl
@[simp] theorem modStall_nextId (s : State) (i : Nat) (f : Stall → Stall) : (s.modStall i f).nextId = s.nextId := rfl
@[simp] theorem modStall_sched (s : State) (i : Nat) (f : Stall → Stall) : (s.modStall i f).sched = s.sched := rfl
@[simp] theorem modStall_tick (s : State) (i : Nat) (f : Stall → Stall) : (s.modStall i f).tick = s.tick := rfl
@[simp] theorem modStall_draws (s : State) (i : Nat) (f : Stall → Stall) : (s.modStall i f).draws = s.draws := rfl
@[simp] theorem modHall_mem (s : State) (i : Nat) (f : Hall → Hall) : (s.modHall i f).mem = s.mem := rfl
@[simp] theorem modHall_cells (s : State) (i : Nat) (f : Hall → Hall) : (s.modHall i f).cells = s.cells := rfl
@[simp] theorem modHall_made (s : State) (i : Nat) (f : Hall → Hall) : (s.modHall i f).made = s.made := rfl
@[simp] theorem modHall_stalls (s : State) (i : Nat) (f : Hall → Hall) : (s.modHall i f).stalls = s.stalls := rfl
@[simp] theorem modHall_ctxs (s : State) (i : Nat) (f : Hall → Hall) : (s.modHall i f).ctxs = s.ctxs := rfl
@[simp] theorem modHall_frames (s : State) (i : Nat) (f : Hall → Hall) : (s.modHall i f).frames = s.frames := rfl
@[simp] theorem modHall_blocks (s : State) (i : Nat) (f : Hall → Hall) : (s.modHall i f).blocks = s.blocks := rfl
@[simp] theorem modHall_ops (s : State) (i : Nat) (f : Hall → Hall) : (s.modHall i f).ops = s.ops := rfl
@[simp] theorem modHall_flight (s : State) (i : Nat) (f : Hall → Hall) : (s.modHall i f).flight = s.flight := rfl
@[simp] theorem modHall_walks (s : State) (i : Nat) (f : Hall → Hall) : (s.modHall i f).walks = s.walks := rfl
@[simp] theorem modHall_conts (s : State) (i : Nat) (f : Hall → Hall) : (s.modHall i f).conts = s.conts := rfl
@[simp] theorem modHall_origins (s : State) (i : Nat) (f : Hall → Hall) : (s.modHall i f).origins = s.origins := rfl
@[simp] theorem modHall_fences (s : State) (i : Nat) (f : Hall → Hall) : (s.modHall i f).fences = s.fences := rfl
@[simp] theorem modHall_early (s : State) (i : Nat) (f : Hall → Hall) : (s.modHall i f).early = s.early := rfl
@[simp] theorem modHall_copies (s : State) (i : Nat) (f : Hall → Hall) : (s.modHall i f).copies = s.copies := rfl
@[simp] theorem modHall_recs (s : State) (i : Nat) (f : Hall → Hall) : (s.modHall i f).recs = s.recs := rfl
@[simp] theorem modHall_launches (s : State) (i : Nat) (f : Hall → Hall) : (s.modHall i f).launches = s.launches := rfl
@[simp] theorem modHall_heats (s : State) (i : Nat) (f : Hall → Hall) : (s.modHall i f).heats = s.heats := rfl
@[simp] theorem modHall_jobrecs (s : State) (i : Nat) (f : Hall → Hall) : (s.modHall i f).jobrecs = s.jobrecs := rfl
@[simp] theorem modHall_insts (s : State) (i : Nat) (f : Hall → Hall) : (s.modHall i f).insts = s.insts := rfl
@[simp] theorem modHall_images (s : State) (i : Nat) (f : Hall → Hall) : (s.modHall i f).images = s.images := rfl
@[simp] theorem modHall_reds (s : State) (i : Nat) (f : Hall → Hall) : (s.modHall i f).reds = s.reds := rfl
@[simp] theorem modHall_pairs (s : State) (i : Nat) (f : Hall → Hall) : (s.modHall i f).pairs = s.pairs := rfl
@[simp] theorem modHall_classes (s : State) (i : Nat) (f : Hall → Hall) : (s.modHall i f).classes = s.classes := rfl
@[simp] theorem modHall_l2 (s : State) (i : Nat) (f : Hall → Hall) : (s.modHall i f).l2 = s.l2 := rfl
@[simp] theorem modHall_vslots (s : State) (i : Nat) (f : Hall → Hall) : (s.modHall i f).vslots = s.vslots := rfl
@[simp] theorem modHall_vedits (s : State) (i : Nat) (f : Hall → Hall) : (s.modHall i f).vedits = s.vedits := rfl
@[simp] theorem modHall_pkg (s : State) (i : Nat) (f : Hall → Hall) : (s.modHall i f).pkg = s.pkg := rfl
@[simp] theorem modHall_mail (s : State) (i : Nat) (f : Hall → Hall) : (s.modHall i f).mail = s.mail := rfl
@[simp] theorem modHall_cur (s : State) (i : Nat) (f : Hall → Hall) : (s.modHall i f).cur = s.cur := rfl
@[simp] theorem modHall_nextId (s : State) (i : Nat) (f : Hall → Hall) : (s.modHall i f).nextId = s.nextId := rfl
@[simp] theorem modHall_sched (s : State) (i : Nat) (f : Hall → Hall) : (s.modHall i f).sched = s.sched := rfl
@[simp] theorem modHall_tick (s : State) (i : Nat) (f : Hall → Hall) : (s.modHall i f).tick = s.tick := rfl
@[simp] theorem modHall_draws (s : State) (i : Nat) (f : Hall → Hall) : (s.modHall i f).draws = s.draws := rfl
@[simp] theorem modCtx_mem (s : State) (i : Nat) (f : Ctx → Ctx) : (s.modCtx i f).mem = s.mem := rfl
@[simp] theorem modCtx_cells (s : State) (i : Nat) (f : Ctx → Ctx) : (s.modCtx i f).cells = s.cells := rfl
@[simp] theorem modCtx_made (s : State) (i : Nat) (f : Ctx → Ctx) : (s.modCtx i f).made = s.made := rfl
@[simp] theorem modCtx_stalls (s : State) (i : Nat) (f : Ctx → Ctx) : (s.modCtx i f).stalls = s.stalls := rfl
@[simp] theorem modCtx_halls (s : State) (i : Nat) (f : Ctx → Ctx) : (s.modCtx i f).halls = s.halls := rfl
@[simp] theorem modCtx_frames (s : State) (i : Nat) (f : Ctx → Ctx) : (s.modCtx i f).frames = s.frames := rfl
@[simp] theorem modCtx_blocks (s : State) (i : Nat) (f : Ctx → Ctx) : (s.modCtx i f).blocks = s.blocks := rfl
@[simp] theorem modCtx_ops (s : State) (i : Nat) (f : Ctx → Ctx) : (s.modCtx i f).ops = s.ops := rfl
@[simp] theorem modCtx_flight (s : State) (i : Nat) (f : Ctx → Ctx) : (s.modCtx i f).flight = s.flight := rfl
@[simp] theorem modCtx_walks (s : State) (i : Nat) (f : Ctx → Ctx) : (s.modCtx i f).walks = s.walks := rfl
@[simp] theorem modCtx_conts (s : State) (i : Nat) (f : Ctx → Ctx) : (s.modCtx i f).conts = s.conts := rfl
@[simp] theorem modCtx_origins (s : State) (i : Nat) (f : Ctx → Ctx) : (s.modCtx i f).origins = s.origins := rfl
@[simp] theorem modCtx_fences (s : State) (i : Nat) (f : Ctx → Ctx) : (s.modCtx i f).fences = s.fences := rfl
@[simp] theorem modCtx_early (s : State) (i : Nat) (f : Ctx → Ctx) : (s.modCtx i f).early = s.early := rfl
@[simp] theorem modCtx_copies (s : State) (i : Nat) (f : Ctx → Ctx) : (s.modCtx i f).copies = s.copies := rfl
@[simp] theorem modCtx_recs (s : State) (i : Nat) (f : Ctx → Ctx) : (s.modCtx i f).recs = s.recs := rfl
@[simp] theorem modCtx_launches (s : State) (i : Nat) (f : Ctx → Ctx) : (s.modCtx i f).launches = s.launches := rfl
@[simp] theorem modCtx_heats (s : State) (i : Nat) (f : Ctx → Ctx) : (s.modCtx i f).heats = s.heats := rfl
@[simp] theorem modCtx_jobrecs (s : State) (i : Nat) (f : Ctx → Ctx) : (s.modCtx i f).jobrecs = s.jobrecs := rfl
@[simp] theorem modCtx_insts (s : State) (i : Nat) (f : Ctx → Ctx) : (s.modCtx i f).insts = s.insts := rfl
@[simp] theorem modCtx_images (s : State) (i : Nat) (f : Ctx → Ctx) : (s.modCtx i f).images = s.images := rfl
@[simp] theorem modCtx_reds (s : State) (i : Nat) (f : Ctx → Ctx) : (s.modCtx i f).reds = s.reds := rfl
@[simp] theorem modCtx_pairs (s : State) (i : Nat) (f : Ctx → Ctx) : (s.modCtx i f).pairs = s.pairs := rfl
@[simp] theorem modCtx_classes (s : State) (i : Nat) (f : Ctx → Ctx) : (s.modCtx i f).classes = s.classes := rfl
@[simp] theorem modCtx_l2 (s : State) (i : Nat) (f : Ctx → Ctx) : (s.modCtx i f).l2 = s.l2 := rfl
@[simp] theorem modCtx_vslots (s : State) (i : Nat) (f : Ctx → Ctx) : (s.modCtx i f).vslots = s.vslots := rfl
@[simp] theorem modCtx_vedits (s : State) (i : Nat) (f : Ctx → Ctx) : (s.modCtx i f).vedits = s.vedits := rfl
@[simp] theorem modCtx_pkg (s : State) (i : Nat) (f : Ctx → Ctx) : (s.modCtx i f).pkg = s.pkg := rfl
@[simp] theorem modCtx_mail (s : State) (i : Nat) (f : Ctx → Ctx) : (s.modCtx i f).mail = s.mail := rfl
@[simp] theorem modCtx_cur (s : State) (i : Nat) (f : Ctx → Ctx) : (s.modCtx i f).cur = s.cur := rfl
@[simp] theorem modCtx_nextId (s : State) (i : Nat) (f : Ctx → Ctx) : (s.modCtx i f).nextId = s.nextId := rfl
@[simp] theorem modCtx_sched (s : State) (i : Nat) (f : Ctx → Ctx) : (s.modCtx i f).sched = s.sched := rfl
@[simp] theorem modCtx_tick (s : State) (i : Nat) (f : Ctx → Ctx) : (s.modCtx i f).tick = s.tick := rfl
@[simp] theorem modCtx_draws (s : State) (i : Nat) (f : Ctx → Ctx) : (s.modCtx i f).draws = s.draws := rfl
@[simp] theorem reply_mem (s : State) (n : Nat) (d : List Nat) : (s.reply n d).mem = s.mem := rfl
@[simp] theorem reply_cells (s : State) (n : Nat) (d : List Nat) : (s.reply n d).cells = s.cells := rfl
@[simp] theorem reply_made (s : State) (n : Nat) (d : List Nat) : (s.reply n d).made = s.made := rfl
@[simp] theorem reply_stalls (s : State) (n : Nat) (d : List Nat) : (s.reply n d).stalls = s.stalls := rfl
@[simp] theorem reply_halls (s : State) (n : Nat) (d : List Nat) : (s.reply n d).halls = s.halls := rfl
@[simp] theorem reply_ctxs (s : State) (n : Nat) (d : List Nat) : (s.reply n d).ctxs = s.ctxs := rfl
@[simp] theorem reply_frames (s : State) (n : Nat) (d : List Nat) : (s.reply n d).frames = s.frames := rfl
@[simp] theorem reply_blocks (s : State) (n : Nat) (d : List Nat) : (s.reply n d).blocks = s.blocks := rfl
@[simp] theorem reply_ops (s : State) (n : Nat) (d : List Nat) : (s.reply n d).ops = s.ops := rfl
@[simp] theorem reply_flight (s : State) (n : Nat) (d : List Nat) : (s.reply n d).flight = s.flight := rfl
@[simp] theorem reply_walks (s : State) (n : Nat) (d : List Nat) : (s.reply n d).walks = s.walks := rfl
@[simp] theorem reply_conts (s : State) (n : Nat) (d : List Nat) : (s.reply n d).conts = s.conts := rfl
@[simp] theorem reply_origins (s : State) (n : Nat) (d : List Nat) : (s.reply n d).origins = s.origins := rfl
@[simp] theorem reply_fences (s : State) (n : Nat) (d : List Nat) : (s.reply n d).fences = s.fences := rfl
@[simp] theorem reply_early (s : State) (n : Nat) (d : List Nat) : (s.reply n d).early = s.early := rfl
@[simp] theorem reply_copies (s : State) (n : Nat) (d : List Nat) : (s.reply n d).copies = s.copies := rfl
@[simp] theorem reply_recs (s : State) (n : Nat) (d : List Nat) : (s.reply n d).recs = s.recs := rfl
@[simp] theorem reply_launches (s : State) (n : Nat) (d : List Nat) : (s.reply n d).launches = s.launches := rfl
@[simp] theorem reply_heats (s : State) (n : Nat) (d : List Nat) : (s.reply n d).heats = s.heats := rfl
@[simp] theorem reply_jobrecs (s : State) (n : Nat) (d : List Nat) : (s.reply n d).jobrecs = s.jobrecs := rfl
@[simp] theorem reply_insts (s : State) (n : Nat) (d : List Nat) : (s.reply n d).insts = s.insts := rfl
@[simp] theorem reply_images (s : State) (n : Nat) (d : List Nat) : (s.reply n d).images = s.images := rfl
@[simp] theorem reply_reds (s : State) (n : Nat) (d : List Nat) : (s.reply n d).reds = s.reds := rfl
@[simp] theorem reply_pairs (s : State) (n : Nat) (d : List Nat) : (s.reply n d).pairs = s.pairs := rfl
@[simp] theorem reply_classes (s : State) (n : Nat) (d : List Nat) : (s.reply n d).classes = s.classes := rfl
@[simp] theorem reply_l2 (s : State) (n : Nat) (d : List Nat) : (s.reply n d).l2 = s.l2 := rfl
@[simp] theorem reply_vslots (s : State) (n : Nat) (d : List Nat) : (s.reply n d).vslots = s.vslots := rfl
@[simp] theorem reply_vedits (s : State) (n : Nat) (d : List Nat) : (s.reply n d).vedits = s.vedits := rfl
@[simp] theorem reply_pkg (s : State) (n : Nat) (d : List Nat) : (s.reply n d).pkg = s.pkg := rfl
@[simp] theorem reply_cur (s : State) (n : Nat) (d : List Nat) : (s.reply n d).cur = s.cur := rfl
@[simp] theorem reply_nextId (s : State) (n : Nat) (d : List Nat) : (s.reply n d).nextId = s.nextId := rfl
@[simp] theorem reply_sched (s : State) (n : Nat) (d : List Nat) : (s.reply n d).sched = s.sched := rfl
@[simp] theorem reply_tick (s : State) (n : Nat) (d : List Nat) : (s.reply n d).tick = s.tick := rfl
@[simp] theorem reply_draws (s : State) (n : Nat) (d : List Nat) : (s.reply n d).draws = s.draws := rfl
@[simp] theorem ship_mem (s : State) (o : Org) (n : Nat) (c : Cargo) : (s.ship o n c).mem = s.mem := rfl
@[simp] theorem ship_cells (s : State) (o : Org) (n : Nat) (c : Cargo) : (s.ship o n c).cells = s.cells := rfl
@[simp] theorem ship_made (s : State) (o : Org) (n : Nat) (c : Cargo) : (s.ship o n c).made = s.made := rfl
@[simp] theorem ship_stalls (s : State) (o : Org) (n : Nat) (c : Cargo) : (s.ship o n c).stalls = s.stalls := rfl
@[simp] theorem ship_halls (s : State) (o : Org) (n : Nat) (c : Cargo) : (s.ship o n c).halls = s.halls := rfl
@[simp] theorem ship_ctxs (s : State) (o : Org) (n : Nat) (c : Cargo) : (s.ship o n c).ctxs = s.ctxs := rfl
@[simp] theorem ship_frames (s : State) (o : Org) (n : Nat) (c : Cargo) : (s.ship o n c).frames = s.frames := rfl
@[simp] theorem ship_blocks (s : State) (o : Org) (n : Nat) (c : Cargo) : (s.ship o n c).blocks = s.blocks := rfl
@[simp] theorem ship_ops (s : State) (o : Org) (n : Nat) (c : Cargo) : (s.ship o n c).ops = s.ops := rfl
@[simp] theorem ship_walks (s : State) (o : Org) (n : Nat) (c : Cargo) : (s.ship o n c).walks = s.walks := rfl
@[simp] theorem ship_conts (s : State) (o : Org) (n : Nat) (c : Cargo) : (s.ship o n c).conts = s.conts := rfl
@[simp] theorem ship_origins (s : State) (o : Org) (n : Nat) (c : Cargo) : (s.ship o n c).origins = s.origins := rfl
@[simp] theorem ship_fences (s : State) (o : Org) (n : Nat) (c : Cargo) : (s.ship o n c).fences = s.fences := rfl
@[simp] theorem ship_early (s : State) (o : Org) (n : Nat) (c : Cargo) : (s.ship o n c).early = s.early := rfl
@[simp] theorem ship_copies (s : State) (o : Org) (n : Nat) (c : Cargo) : (s.ship o n c).copies = s.copies := rfl
@[simp] theorem ship_recs (s : State) (o : Org) (n : Nat) (c : Cargo) : (s.ship o n c).recs = s.recs := rfl
@[simp] theorem ship_launches (s : State) (o : Org) (n : Nat) (c : Cargo) : (s.ship o n c).launches = s.launches := rfl
@[simp] theorem ship_heats (s : State) (o : Org) (n : Nat) (c : Cargo) : (s.ship o n c).heats = s.heats := rfl
@[simp] theorem ship_jobrecs (s : State) (o : Org) (n : Nat) (c : Cargo) : (s.ship o n c).jobrecs = s.jobrecs := rfl
@[simp] theorem ship_insts (s : State) (o : Org) (n : Nat) (c : Cargo) : (s.ship o n c).insts = s.insts := rfl
@[simp] theorem ship_images (s : State) (o : Org) (n : Nat) (c : Cargo) : (s.ship o n c).images = s.images := rfl
@[simp] theorem ship_reds (s : State) (o : Org) (n : Nat) (c : Cargo) : (s.ship o n c).reds = s.reds := rfl
@[simp] theorem ship_pairs (s : State) (o : Org) (n : Nat) (c : Cargo) : (s.ship o n c).pairs = s.pairs := rfl
@[simp] theorem ship_classes (s : State) (o : Org) (n : Nat) (c : Cargo) : (s.ship o n c).classes = s.classes := rfl
@[simp] theorem ship_l2 (s : State) (o : Org) (n : Nat) (c : Cargo) : (s.ship o n c).l2 = s.l2 := rfl
@[simp] theorem ship_vslots (s : State) (o : Org) (n : Nat) (c : Cargo) : (s.ship o n c).vslots = s.vslots := rfl
@[simp] theorem ship_vedits (s : State) (o : Org) (n : Nat) (c : Cargo) : (s.ship o n c).vedits = s.vedits := rfl
@[simp] theorem ship_pkg (s : State) (o : Org) (n : Nat) (c : Cargo) : (s.ship o n c).pkg = s.pkg := rfl
@[simp] theorem ship_mail (s : State) (o : Org) (n : Nat) (c : Cargo) : (s.ship o n c).mail = s.mail := rfl
@[simp] theorem ship_cur (s : State) (o : Org) (n : Nat) (c : Cargo) : (s.ship o n c).cur = s.cur := rfl
@[simp] theorem ship_sched (s : State) (o : Org) (n : Nat) (c : Cargo) : (s.ship o n c).sched = s.sched := rfl
@[simp] theorem ship_tick (s : State) (o : Org) (n : Nat) (c : Cargo) : (s.ship o n c).tick = s.tick := rfl
@[simp] theorem ship_draws (s : State) (o : Org) (n : Nat) (c : Cargo) : (s.ship o n c).draws = s.draws := rfl
@[simp] theorem land_mem (s : State) (k : Nat) : (s.land k).mem = s.mem := rfl
@[simp] theorem land_cells (s : State) (k : Nat) : (s.land k).cells = s.cells := rfl
@[simp] theorem land_made (s : State) (k : Nat) : (s.land k).made = s.made := rfl
@[simp] theorem land_stalls (s : State) (k : Nat) : (s.land k).stalls = s.stalls := rfl
@[simp] theorem land_halls (s : State) (k : Nat) : (s.land k).halls = s.halls := rfl
@[simp] theorem land_ctxs (s : State) (k : Nat) : (s.land k).ctxs = s.ctxs := rfl
@[simp] theorem land_frames (s : State) (k : Nat) : (s.land k).frames = s.frames := rfl
@[simp] theorem land_blocks (s : State) (k : Nat) : (s.land k).blocks = s.blocks := rfl
@[simp] theorem land_ops (s : State) (k : Nat) : (s.land k).ops = s.ops := rfl
@[simp] theorem land_walks (s : State) (k : Nat) : (s.land k).walks = s.walks := rfl
@[simp] theorem land_conts (s : State) (k : Nat) : (s.land k).conts = s.conts := rfl
@[simp] theorem land_origins (s : State) (k : Nat) : (s.land k).origins = s.origins := rfl
@[simp] theorem land_fences (s : State) (k : Nat) : (s.land k).fences = s.fences := rfl
@[simp] theorem land_early (s : State) (k : Nat) : (s.land k).early = s.early := rfl
@[simp] theorem land_copies (s : State) (k : Nat) : (s.land k).copies = s.copies := rfl
@[simp] theorem land_recs (s : State) (k : Nat) : (s.land k).recs = s.recs := rfl
@[simp] theorem land_launches (s : State) (k : Nat) : (s.land k).launches = s.launches := rfl
@[simp] theorem land_heats (s : State) (k : Nat) : (s.land k).heats = s.heats := rfl
@[simp] theorem land_jobrecs (s : State) (k : Nat) : (s.land k).jobrecs = s.jobrecs := rfl
@[simp] theorem land_insts (s : State) (k : Nat) : (s.land k).insts = s.insts := rfl
@[simp] theorem land_images (s : State) (k : Nat) : (s.land k).images = s.images := rfl
@[simp] theorem land_reds (s : State) (k : Nat) : (s.land k).reds = s.reds := rfl
@[simp] theorem land_pairs (s : State) (k : Nat) : (s.land k).pairs = s.pairs := rfl
@[simp] theorem land_classes (s : State) (k : Nat) : (s.land k).classes = s.classes := rfl
@[simp] theorem land_l2 (s : State) (k : Nat) : (s.land k).l2 = s.l2 := rfl
@[simp] theorem land_vslots (s : State) (k : Nat) : (s.land k).vslots = s.vslots := rfl
@[simp] theorem land_vedits (s : State) (k : Nat) : (s.land k).vedits = s.vedits := rfl
@[simp] theorem land_pkg (s : State) (k : Nat) : (s.land k).pkg = s.pkg := rfl
@[simp] theorem land_mail (s : State) (k : Nat) : (s.land k).mail = s.mail := rfl
@[simp] theorem land_cur (s : State) (k : Nat) : (s.land k).cur = s.cur := rfl
@[simp] theorem land_nextId (s : State) (k : Nat) : (s.land k).nextId = s.nextId := rfl
@[simp] theorem land_sched (s : State) (k : Nat) : (s.land k).sched = s.sched := rfl
@[simp] theorem land_tick (s : State) (k : Nat) : (s.land k).tick = s.tick := rfl
@[simp] theorem land_draws (s : State) (k : Nat) : (s.land k).draws = s.draws := rfl
@[simp] theorem wrBytes_cells (s : State) (a : Nat) (l : List Byte) : (s.wrBytes a l).cells = s.cells := rfl
@[simp] theorem wrBytes_made (s : State) (a : Nat) (l : List Byte) : (s.wrBytes a l).made = s.made := rfl
@[simp] theorem wrBytes_stalls (s : State) (a : Nat) (l : List Byte) : (s.wrBytes a l).stalls = s.stalls := rfl
@[simp] theorem wrBytes_halls (s : State) (a : Nat) (l : List Byte) : (s.wrBytes a l).halls = s.halls := rfl
@[simp] theorem wrBytes_ctxs (s : State) (a : Nat) (l : List Byte) : (s.wrBytes a l).ctxs = s.ctxs := rfl
@[simp] theorem wrBytes_frames (s : State) (a : Nat) (l : List Byte) : (s.wrBytes a l).frames = s.frames := rfl
@[simp] theorem wrBytes_blocks (s : State) (a : Nat) (l : List Byte) : (s.wrBytes a l).blocks = s.blocks := rfl
@[simp] theorem wrBytes_ops (s : State) (a : Nat) (l : List Byte) : (s.wrBytes a l).ops = s.ops := rfl
@[simp] theorem wrBytes_flight (s : State) (a : Nat) (l : List Byte) : (s.wrBytes a l).flight = s.flight := rfl
@[simp] theorem wrBytes_walks (s : State) (a : Nat) (l : List Byte) : (s.wrBytes a l).walks = s.walks := rfl
@[simp] theorem wrBytes_conts (s : State) (a : Nat) (l : List Byte) : (s.wrBytes a l).conts = s.conts := rfl
@[simp] theorem wrBytes_origins (s : State) (a : Nat) (l : List Byte) : (s.wrBytes a l).origins = s.origins := rfl
@[simp] theorem wrBytes_fences (s : State) (a : Nat) (l : List Byte) : (s.wrBytes a l).fences = s.fences := rfl
@[simp] theorem wrBytes_early (s : State) (a : Nat) (l : List Byte) : (s.wrBytes a l).early = s.early := rfl
@[simp] theorem wrBytes_copies (s : State) (a : Nat) (l : List Byte) : (s.wrBytes a l).copies = s.copies := rfl
@[simp] theorem wrBytes_recs (s : State) (a : Nat) (l : List Byte) : (s.wrBytes a l).recs = s.recs := rfl
@[simp] theorem wrBytes_launches (s : State) (a : Nat) (l : List Byte) : (s.wrBytes a l).launches = s.launches := rfl
@[simp] theorem wrBytes_heats (s : State) (a : Nat) (l : List Byte) : (s.wrBytes a l).heats = s.heats := rfl
@[simp] theorem wrBytes_jobrecs (s : State) (a : Nat) (l : List Byte) : (s.wrBytes a l).jobrecs = s.jobrecs := rfl
@[simp] theorem wrBytes_insts (s : State) (a : Nat) (l : List Byte) : (s.wrBytes a l).insts = s.insts := rfl
@[simp] theorem wrBytes_images (s : State) (a : Nat) (l : List Byte) : (s.wrBytes a l).images = s.images := rfl
@[simp] theorem wrBytes_reds (s : State) (a : Nat) (l : List Byte) : (s.wrBytes a l).reds = s.reds := rfl
@[simp] theorem wrBytes_pairs (s : State) (a : Nat) (l : List Byte) : (s.wrBytes a l).pairs = s.pairs := rfl
@[simp] theorem wrBytes_classes (s : State) (a : Nat) (l : List Byte) : (s.wrBytes a l).classes = s.classes := rfl
@[simp] theorem wrBytes_l2 (s : State) (a : Nat) (l : List Byte) : (s.wrBytes a l).l2 = s.l2 := rfl
@[simp] theorem wrBytes_vslots (s : State) (a : Nat) (l : List Byte) : (s.wrBytes a l).vslots = s.vslots := rfl
@[simp] theorem wrBytes_vedits (s : State) (a : Nat) (l : List Byte) : (s.wrBytes a l).vedits = s.vedits := rfl
@[simp] theorem wrBytes_pkg (s : State) (a : Nat) (l : List Byte) : (s.wrBytes a l).pkg = s.pkg := rfl
@[simp] theorem wrBytes_mail (s : State) (a : Nat) (l : List Byte) : (s.wrBytes a l).mail = s.mail := rfl
@[simp] theorem wrBytes_cur (s : State) (a : Nat) (l : List Byte) : (s.wrBytes a l).cur = s.cur := rfl
@[simp] theorem wrBytes_nextId (s : State) (a : Nat) (l : List Byte) : (s.wrBytes a l).nextId = s.nextId := rfl
@[simp] theorem wrBytes_sched (s : State) (a : Nat) (l : List Byte) : (s.wrBytes a l).sched = s.sched := rfl
@[simp] theorem wrBytes_tick (s : State) (a : Nat) (l : List Byte) : (s.wrBytes a l).tick = s.tick := rfl
@[simp] theorem wrBytes_draws (s : State) (a : Nat) (l : List Byte) : (s.wrBytes a l).draws = s.draws := rfl
@[simp] theorem wrLE_cells (s : State) (a n v : Nat) : (s.wrLE a n v).cells = s.cells := rfl
@[simp] theorem wrLE_made (s : State) (a n v : Nat) : (s.wrLE a n v).made = s.made := rfl
@[simp] theorem wrLE_stalls (s : State) (a n v : Nat) : (s.wrLE a n v).stalls = s.stalls := rfl
@[simp] theorem wrLE_halls (s : State) (a n v : Nat) : (s.wrLE a n v).halls = s.halls := rfl
@[simp] theorem wrLE_ctxs (s : State) (a n v : Nat) : (s.wrLE a n v).ctxs = s.ctxs := rfl
@[simp] theorem wrLE_frames (s : State) (a n v : Nat) : (s.wrLE a n v).frames = s.frames := rfl
@[simp] theorem wrLE_blocks (s : State) (a n v : Nat) : (s.wrLE a n v).blocks = s.blocks := rfl
@[simp] theorem wrLE_ops (s : State) (a n v : Nat) : (s.wrLE a n v).ops = s.ops := rfl
@[simp] theorem wrLE_flight (s : State) (a n v : Nat) : (s.wrLE a n v).flight = s.flight := rfl
@[simp] theorem wrLE_walks (s : State) (a n v : Nat) : (s.wrLE a n v).walks = s.walks := rfl
@[simp] theorem wrLE_conts (s : State) (a n v : Nat) : (s.wrLE a n v).conts = s.conts := rfl
@[simp] theorem wrLE_origins (s : State) (a n v : Nat) : (s.wrLE a n v).origins = s.origins := rfl
@[simp] theorem wrLE_fences (s : State) (a n v : Nat) : (s.wrLE a n v).fences = s.fences := rfl
@[simp] theorem wrLE_early (s : State) (a n v : Nat) : (s.wrLE a n v).early = s.early := rfl
@[simp] theorem wrLE_copies (s : State) (a n v : Nat) : (s.wrLE a n v).copies = s.copies := rfl
@[simp] theorem wrLE_recs (s : State) (a n v : Nat) : (s.wrLE a n v).recs = s.recs := rfl
@[simp] theorem wrLE_launches (s : State) (a n v : Nat) : (s.wrLE a n v).launches = s.launches := rfl
@[simp] theorem wrLE_heats (s : State) (a n v : Nat) : (s.wrLE a n v).heats = s.heats := rfl
@[simp] theorem wrLE_jobrecs (s : State) (a n v : Nat) : (s.wrLE a n v).jobrecs = s.jobrecs := rfl
@[simp] theorem wrLE_insts (s : State) (a n v : Nat) : (s.wrLE a n v).insts = s.insts := rfl
@[simp] theorem wrLE_images (s : State) (a n v : Nat) : (s.wrLE a n v).images = s.images := rfl
@[simp] theorem wrLE_reds (s : State) (a n v : Nat) : (s.wrLE a n v).reds = s.reds := rfl
@[simp] theorem wrLE_pairs (s : State) (a n v : Nat) : (s.wrLE a n v).pairs = s.pairs := rfl
@[simp] theorem wrLE_classes (s : State) (a n v : Nat) : (s.wrLE a n v).classes = s.classes := rfl
@[simp] theorem wrLE_l2 (s : State) (a n v : Nat) : (s.wrLE a n v).l2 = s.l2 := rfl
@[simp] theorem wrLE_vslots (s : State) (a n v : Nat) : (s.wrLE a n v).vslots = s.vslots := rfl
@[simp] theorem wrLE_vedits (s : State) (a n v : Nat) : (s.wrLE a n v).vedits = s.vedits := rfl
@[simp] theorem wrLE_pkg (s : State) (a n v : Nat) : (s.wrLE a n v).pkg = s.pkg := rfl
@[simp] theorem wrLE_mail (s : State) (a n v : Nat) : (s.wrLE a n v).mail = s.mail := rfl
@[simp] theorem wrLE_cur (s : State) (a n v : Nat) : (s.wrLE a n v).cur = s.cur := rfl
@[simp] theorem wrLE_nextId (s : State) (a n v : Nat) : (s.wrLE a n v).nextId = s.nextId := rfl
@[simp] theorem wrLE_sched (s : State) (a n v : Nat) : (s.wrLE a n v).sched = s.sched := rfl
@[simp] theorem wrLE_tick (s : State) (a n v : Nat) : (s.wrLE a n v).tick = s.tick := rfl
@[simp] theorem wrLE_draws (s : State) (a n v : Nat) : (s.wrLE a n v).draws = s.draws := rfl
@[simp] theorem count_mem (s : State) (i k n : Nat) : (s.count i k n).mem = s.mem := by
  simp only [State.count]; split <;> rfl
@[simp] theorem count_cells (s : State) (i k n : Nat) : (s.count i k n).cells = s.cells := by
  simp only [State.count]; split <;> rfl
@[simp] theorem count_made (s : State) (i k n : Nat) : (s.count i k n).made = s.made := by
  simp only [State.count]; split <;> rfl
@[simp] theorem count_halls (s : State) (i k n : Nat) : (s.count i k n).halls = s.halls := by
  simp only [State.count]; split <;> rfl
@[simp] theorem count_frames (s : State) (i k n : Nat) : (s.count i k n).frames = s.frames := by
  simp only [State.count]; split <;> rfl
@[simp] theorem count_blocks (s : State) (i k n : Nat) : (s.count i k n).blocks = s.blocks := by
  simp only [State.count]; split <;> rfl
@[simp] theorem count_ops (s : State) (i k n : Nat) : (s.count i k n).ops = s.ops := by
  simp only [State.count]; split <;> rfl
@[simp] theorem count_flight (s : State) (i k n : Nat) : (s.count i k n).flight = s.flight := by
  simp only [State.count]; split <;> rfl
@[simp] theorem count_walks (s : State) (i k n : Nat) : (s.count i k n).walks = s.walks := by
  simp only [State.count]; split <;> rfl
@[simp] theorem count_conts (s : State) (i k n : Nat) : (s.count i k n).conts = s.conts := by
  simp only [State.count]; split <;> rfl
@[simp] theorem count_origins (s : State) (i k n : Nat) : (s.count i k n).origins = s.origins := by
  simp only [State.count]; split <;> rfl
@[simp] theorem count_fences (s : State) (i k n : Nat) : (s.count i k n).fences = s.fences := by
  simp only [State.count]; split <;> rfl
@[simp] theorem count_early (s : State) (i k n : Nat) : (s.count i k n).early = s.early := by
  simp only [State.count]; split <;> rfl
@[simp] theorem count_copies (s : State) (i k n : Nat) : (s.count i k n).copies = s.copies := by
  simp only [State.count]; split <;> rfl
@[simp] theorem count_recs (s : State) (i k n : Nat) : (s.count i k n).recs = s.recs := by
  simp only [State.count]; split <;> rfl
@[simp] theorem count_launches (s : State) (i k n : Nat) : (s.count i k n).launches = s.launches := by
  simp only [State.count]; split <;> rfl
@[simp] theorem count_heats (s : State) (i k n : Nat) : (s.count i k n).heats = s.heats := by
  simp only [State.count]; split <;> rfl
@[simp] theorem count_jobrecs (s : State) (i k n : Nat) : (s.count i k n).jobrecs = s.jobrecs := by
  simp only [State.count]; split <;> rfl
@[simp] theorem count_insts (s : State) (i k n : Nat) : (s.count i k n).insts = s.insts := by
  simp only [State.count]; split <;> rfl
@[simp] theorem count_images (s : State) (i k n : Nat) : (s.count i k n).images = s.images := by
  simp only [State.count]; split <;> rfl
@[simp] theorem count_reds (s : State) (i k n : Nat) : (s.count i k n).reds = s.reds := by
  simp only [State.count]; split <;> rfl
@[simp] theorem count_pairs (s : State) (i k n : Nat) : (s.count i k n).pairs = s.pairs := by
  simp only [State.count]; split <;> rfl
@[simp] theorem count_classes (s : State) (i k n : Nat) : (s.count i k n).classes = s.classes := by
  simp only [State.count]; split <;> rfl
@[simp] theorem count_l2 (s : State) (i k n : Nat) : (s.count i k n).l2 = s.l2 := by
  simp only [State.count]; split <;> rfl
@[simp] theorem count_vslots (s : State) (i k n : Nat) : (s.count i k n).vslots = s.vslots := by
  simp only [State.count]; split <;> rfl
@[simp] theorem count_vedits (s : State) (i k n : Nat) : (s.count i k n).vedits = s.vedits := by
  simp only [State.count]; split <;> rfl
@[simp] theorem count_pkg (s : State) (i k n : Nat) : (s.count i k n).pkg = s.pkg := by
  simp only [State.count]; split <;> rfl
@[simp] theorem count_mail (s : State) (i k n : Nat) : (s.count i k n).mail = s.mail := by
  simp only [State.count]; split <;> rfl
@[simp] theorem count_cur (s : State) (i k n : Nat) : (s.count i k n).cur = s.cur := by
  simp only [State.count]; split <;> rfl
@[simp] theorem count_nextId (s : State) (i k n : Nat) : (s.count i k n).nextId = s.nextId := by
  simp only [State.count]; split <;> rfl
@[simp] theorem count_sched (s : State) (i k n : Nat) : (s.count i k n).sched = s.sched := by
  simp only [State.count]; split <;> rfl
@[simp] theorem count_tick (s : State) (i k n : Nat) : (s.count i k n).tick = s.tick := by
  simp only [State.count]; split <;> rfl
@[simp] theorem count_draws (s : State) (i k n : Nat) : (s.count i k n).draws = s.draws := by
  simp only [State.count]; split <;> rfl

end Sys2Proof.Machine.State
namespace Sys2Proof.Machine

/-! Reads by key -/

/-- Updating the entries of one key leaves the lookup of another, and updates the lookup of that one. -/
theorem find?_map_key {α : Type} (key : α → Nat) (k i : Nat) (f : α → α) (hf : ∀ a, key (f a) = key a) (l : List α) :
    (l.map fun x => if key x == k then f x else x).find? (fun x => key x == i) =
      if i = k then (l.find? fun x => key x == i).map f else l.find? fun x => key x == i := by
  induction l with
  | nil => simp
  | cons a l ih =>
    simp only [List.map_cons, List.find?_cons]
    by_cases ha : key a == k
    · have hk : key a = k := by simpa using ha
      simp only [ha, if_true, hf]
      by_cases hi : i = k
      · subst hi; simp [hk]
      · have : (key a == i) = false := by simpa [hk] using fun e => hi e.symm
        simp only [this, ih, if_neg hi]
    · simp only [ha, Bool.false_eq_true, if_false]
      by_cases hi : i = k
      · subst hi; rw [ih]; simp [ha]
      · rw [ih]; simp [hi]

theorem block?_modBlock (s : State) (k i : Nat) (f : Block → Block) (hf : ∀ b, (f b).bid = b.bid) :
    (s.modBlock k f).block? i = if i = k then (s.block? i).map f else s.block? i :=
  find?_map_key Block.bid k i f hf s.blocks
theorem frame?_modFrame (s : State) (k i : Nat) (f : Frame → Frame) (hf : ∀ b, (f b).fid = b.fid) :
    (s.modFrame k f).frame? i = if i = k then (s.frame? i).map f else s.frame? i :=
  find?_map_key Frame.fid k i f hf s.frames
theorem inst?_modInst (s : State) (k i : Nat) (f : Inst → Inst) (hf : ∀ b, (f b).iid = b.iid) :
    (s.modInst k f).inst? i = if i = k then (s.inst? i).map f else s.inst? i :=
  find?_map_key Inst.iid k i f hf s.insts
theorem ctx?_modCtx (s : State) (k i : Nat) (f : Ctx → Ctx) (hf : ∀ b, (f b).num = b.num) :
    (s.modCtx k f).ctx? i = if i = k then (s.ctx? i).map f else s.ctx? i :=
  find?_map_key Ctx.num k i f hf s.ctxs
theorem stall?_modStall (s : State) (k i : Nat) (f : Stall → Stall) :
    (s.modStall k f).stall? i = if i = k then (s.stall? i).map f else s.stall? i := by
  have h := find?_map_key (α := Nat × Stall) Prod.fst k i (fun e => (e.1, f e.2)) (fun _ => rfl) s.stalls
  simp only [State.modStall, State.stall?, h]
  split <;> simp [Option.map_map, Function.comp_def]

/-- A lookup finds an entry of its key. -/
theorem bid_of_block? {s : State} {i : Nat} {b : Block} (h : s.block? i = some b) : b.bid = i := by
  simpa using List.find?_some h
theorem fid_of_frame? {s : State} {i : Nat} {f : Frame} (h : s.frame? i = some f) : f.fid = i := by
  simpa using List.find?_some h

end Sys2Proof.Machine
end

