-- ==== Sys2Proof/Laws/Memory.lean ====
section
/-! SUPPORT. Sparse storage: reading after writing, and that every operation on bytes keeps the canonical form. -/
namespace Sys2Proof.Machine

/-! Reading after writing -/

theorem spGet_below [DecidableEq α] (d : α) : ∀ (l : List (Nat × α)) (lo a : Nat), spOk d lo l = true → a < lo → spGet d l a = d
  | [], _, _, _, _ => rfl
  | (k, v) :: t, lo, a, h, hl => by
    simp only [spOk, Bool.and_eq_true, decide_eq_true_eq] at h
    have : k ≠ a := by omega
    simp [spGet, this, spGet_below d t (k + 1) a h.2 (by omega)]

/-- A written key reads as written; every other key reads as before. -/
theorem spGet_spPut [DecidableEq α] (d : α) : ∀ (l : List (Nat × α)) (lo a : Nat) (v : α) (b : Nat), spOk d lo l = true →
    spGet d (spPut d l a v) b = if b = a then v else spGet d l b
  | [], _, a, v, b, _ => by
    unfold spPut
    by_cases hv : v = d
    · rw [if_pos hv]; by_cases hb : b = a
      · rw [if_pos hb]; exact hv.symm
      · rw [if_neg hb]
    · rw [if_neg hv]; by_cases hb : b = a
      · rw [if_pos hb]; simp [spGet, hb]
      · rw [if_neg hb]; simp [spGet, show a ≠ b from fun e => hb e.symm]
  | (k, w) :: t, lo, a, v, b, h => by
    simp only [spOk, Bool.and_eq_true, decide_eq_true_eq] at h
    have ht := h.2
    unfold spPut
    by_cases h1 : a < k
    · rw [if_pos h1]
      by_cases hv : v = d
      · rw [if_pos hv]
        by_cases hb : b = a
        · rw [if_pos hb, hb, hv]
          simp [spGet, show k ≠ a by omega, spGet_below d t (k + 1) a ht (by omega)]
        · rw [if_neg hb]
      · rw [if_neg hv]
        by_cases hb : b = a <;> simp [spGet, hb, eq_comm]
        intro hab; exact absurd hab.symm hb
    · rw [if_neg h1]
      by_cases h2 : a = k
      · rw [if_pos h2]
        by_cases hv : v = d
        · rw [if_pos hv]
          by_cases hb : b = a
          · rw [if_pos hb, hb, hv]; exact spGet_below d t (k + 1) a ht (by omega)
          · rw [if_neg hb]; simp [spGet, show k ≠ b by omega]
        · rw [if_neg hv]
          by_cases hb : b = a
          · simp [spGet, hb]
          · simp [spGet, show a ≠ b by omega, show k ≠ b by omega, hb]
      · rw [if_neg h2]
        have ih := spGet_spPut d t (k + 1) a v b ht
        by_cases hb : b = k
        · simp [spGet, hb, show k ≠ a by omega]
        · simp [spGet, show k ≠ b by omega, ih]

theorem spOk_mono [DecidableEq α] (d : α) : ∀ (l : List (Nat × α)) (lo lo' : Nat), spOk d lo l = true → lo' ≤ lo → spOk d lo' l = true
  | [], _, _, _, _ => rfl
  | (k, w) :: t, lo, lo', h, hl => by
    simp only [spOk, Bool.and_eq_true, decide_eq_true_eq] at h ⊢
    exact ⟨⟨by omega, h.1.2⟩, h.2⟩

theorem spPut_ok [DecidableEq α] (d : α) : ∀ (l : List (Nat × α)) (lo a : Nat) (v : α), spOk d lo l = true → lo ≤ a →
    spOk d lo (spPut d l a v) = true
  | [], lo, a, v, _, hl => by by_cases hv : v = d <;> simp [spPut, spOk, hv, hl]
  | (k, w) :: t, lo, a, v, h, hl => by
    simp only [spOk, Bool.and_eq_true, decide_eq_true_eq] at h
    unfold spPut
    by_cases h1 : a < k
    · rw [if_pos h1]
      by_cases hv : v = d
      · simp [hv, spOk, h]
      · rw [if_neg hv]
        have : (decide (w = d)) = false := by simpa using h.1.2
        simp [spOk, hl, hv, h, show a + 1 ≤ k by omega, this]
    · rw [if_neg h1]
      by_cases h2 : a = k
      · rw [if_pos h2]
        by_cases hv : v = d
        · rw [if_pos hv]; exact spOk_mono d t (k + 1) lo h.2 (by omega)
        · have := h.2; simp [spOk, hv, h2, this]; omega
      · rw [if_neg h2]
        simp only [spOk, Bool.and_eq_true, decide_eq_true_eq]
        exact ⟨h.1, spPut_ok d t (k + 1) a v h.2 (by omega)⟩

theorem spOk_filter [DecidableEq α] (d : α) (p : Nat × α → Bool) : ∀ (l : List (Nat × α)) (lo : Nat), spOk d lo l = true →
    spOk d lo (l.filter p) = true
  | [], _, _ => rfl
  | (k, w) :: t, lo, h => by
    simp only [spOk, Bool.and_eq_true, decide_eq_true_eq] at h
    have ih := spOk_filter d p t (k + 1) h.2
    by_cases hp : p (k, w)
    · simp only [List.filter_cons, hp, if_true, spOk, Bool.and_eq_true, decide_eq_true_eq]; exact ⟨h.1, ih⟩
    · simp only [List.filter_cons, hp, Bool.false_eq_true, if_false]
      exact spOk_mono d _ _ _ ih (by omega)

theorem spDrop_ok [DecidableEq α] (d : α) (p : Nat → Bool) (l : List (Nat × α)) (h : spOk d 0 l = true) : spOk d 0 (spDrop p l) = true :=
  spOk_filter d _ l 0 h

theorem putBytes_ok : ∀ (bs : List Byte) (m : List Host.Cell) (a : Nat), Memory.wf m = true → Memory.wf (putBytes m a bs) = true
  | [], _, _, h => h
  | b :: bs, m, a, h => putBytes_ok bs _ _ (spPut_ok (0 : Byte) m 0 a b h (Nat.zero_le _))

/-- Bytes written at successive keys read back; every other key reads as before. -/
theorem spGet_putBytes : ∀ (bs : List Byte) (m : List Host.Cell) (a b : Nat), Memory.wf m = true →
    spGet 0 (putBytes m a bs) b = if a ≤ b ∧ b < a + bs.length then bs.getD (b - a) 0 else spGet 0 m b
  | [], m, a, b, _ => by simp only [putBytes, List.length_nil, Nat.add_zero]; split <;> first | omega | rfl
  | x :: bs, m, a, b, h => by
    rw [putBytes, spGet_putBytes bs _ (a + 1) b (spPut_ok (0 : Byte) m 0 a x h (Nat.zero_le _)), spGet_spPut (0 : Byte) m 0 a x b h]
    simp only [List.length_cons]
    by_cases h1 : b = a
    · subst h1; rw [if_neg (by omega), if_pos rfl, if_pos (by omega)]; simp
    · by_cases h2 : a + 1 ≤ b ∧ b < a + 1 + bs.length
      · rw [if_pos h2, if_pos (by omega), show b - a = (b - (a + 1)) + 1 by omega]; rfl
      · rw [if_neg h2, if_neg h1, if_neg (by omega)]

/-! Operations on the bytes of the state keep the canonical form -/

theorem ok_iff (s : State) : s.ok = true ↔ Memory.wf s.mem = true ∧ spOk (0 : Byte) 0 s.cells = true ∧ s.halls.length = 4 := by
  simp [State.ok, and_assoc]

theorem ok_of_same {s t : State} (h : s.ok = true) (h1 : t.mem = s.mem) (h2 : t.cells = s.cells) (h3 : t.halls.length = s.halls.length) :
    t.ok = true := by rw [ok_iff] at *; rw [h1, h2, h3]; exact h

theorem reset_ok : State.reset.ok = true := by decide

theorem wrBytes_ok {s : State} (h : s.ok = true) (a : Nat) (bs : List Byte) : (s.wrBytes a bs).ok = true := by
  have h' := (ok_iff s).1 h
  exact (ok_iff _).2 ⟨putBytes_ok bs s.mem a h'.1, h'.2⟩
theorem wrLE_ok {s : State} (h : s.ok = true) (a n v : Nat) : (s.wrLE a n v).ok = true := wrBytes_ok h _ _
theorem putMem_ok {s : State} (h : s.ok = true) (a : Nat) (b : Byte) : State.ok { s with mem := spPut 0 s.mem a b } = true := by
  have h' := (ok_iff s).1 h
  have hm := spPut_ok (0 : Byte) s.mem 0 a b h'.1 (Nat.zero_le _)
  exact (ok_iff _).2 ⟨hm, h'.2⟩
theorem putCell_ok {s : State} (h : s.ok = true) (a : Nat) (b : Byte) : State.ok { s with cells := spPut 0 s.cells a b } = true := by
  have h' := (ok_iff s).1 h
  have hc := spPut_ok (0 : Byte) s.cells 0 a b h'.2.1 (Nat.zero_le _)
  exact (ok_iff _).2 ⟨h'.1, hc, h'.2.2⟩

theorem putCells_ok {s : State} (h : s.ok = true) (m : List (Nat × Nat × Nat)) (a : Nat) (bs : List Byte) :
    State.ok { s with made := m, cells := putBytes s.cells a bs } = true := by
  have h' := (ok_iff s).1 h
  exact (ok_iff _).2 ⟨h'.1, putBytes_ok bs s.cells a h'.2.1, h'.2.2⟩

theorem materialise_ok {s : State} (h : s.ok = true) (c k va pa : Nat) : (s.materialise c k va pa).ok = true := by
  unfold State.materialise
  split
  · exact h
  · exact putCells_ok h _ _ _

theorem wrLoc_ok {s : State} (h : s.ok = true) (c k : Nat) (b : BLoc) (v : Byte) : (s.wrLoc c k b v).ok = true := by
  unfold State.wrLoc
  split
  · exact putCell_ok (materialise_ok h _ _ _ _) _ _
  · exact putMem_ok h _ _

theorem wrLocs_ok (c k : Nat) : ∀ (bs : List BLoc) (vs : List Byte) (s : State), s.ok = true → (s.wrLocs c k bs vs).ok = true
  | [], _, _, h => h
  | _ :: _, [], _, h => h
  | b :: bs, v :: vs, _, h => wrLocs_ok c k bs vs _ (wrLoc_ok h c k b v)

theorem wrAcc_ok {s : State} (h : s.ok = true) (a : Acc) (bs : List Byte) : (s.wrAcc a bs).ok = true := wrLocs_ok _ _ _ _ _ h

theorem modHall_ok {s : State} (h : s.ok = true) (i : Nat) (f : Hall → Hall) : (s.modHall i f).ok = true := by
  refine ok_of_same h rfl rfl ?_; simp [State.modHall]

theorem vaWrite_ok (ctx : Nat) : ∀ (bs : List Byte) (s : State) (va : Nat), s.ok = true → (s.vaWrite ctx va bs).ok = true
  | [], _, _, h => h
  | b :: bs, s, va, h => by
    unfold State.vaWrite
    apply vaWrite_ok ctx bs
    split
    · exact putMem_ok h _ _
    · exact h

end Sys2Proof.Machine
end

