-- ==== Sys2Proof/Laws/Words.lean ====
section
/-! SUPPORT. What an executing word does to the machine, once for each shared operation of Operands.lean: its block and the counter
INSTR change, and nothing else. -/
namespace Sys2Proof.Machine

/-! The current word -/

theorem cx?_eq {s : State} {c : Cx} (h : s.cx? = some c) :
    s.cur = some (c.b.bid, c.slot) ∧ s.block? c.b.bid = some c.b ∧ s.frame? c.b.fid = some c.f := by
  unfold State.cx? at h
  split at h
  · cases h
  · rename_i bid slot hc
    split at h
    · cases h
    · rename_i b hb
      split at h
      · cases h
      · rename_i f hf
        cases h
        have := bid_of_block? hb
        subst this
        exact ⟨hc, hb, hf⟩

theorem runWord_on {s : State} {h : Hd} {c : Cx} (r : Runs s h c) (k : Cx → State) : s.runWord h k = .next (k c) := by
  simp [State.runWord, r.1, r.2]
theorem runWord_off {s : State} {h : Hd} {c : Cx} (h1 : s.cx? = some c) (h2 : h.off c = true) (k : Cx → State) :
    s.runWord h k = .next (s.predOff c) := by simp [State.runWord, h1, h2]
theorem runBare_on {s : State} {c : Cx} (h1 : s.cx? = some c) (k : Cx → State) : s.runBare k = .next (k c) := by
  simp [State.runBare, h1]

/-! One block, one counter -/

/-- Updating the current block changes that block only. -/
theorem onlyBlock_modBlock {s : State} {b : Block} (hb : s.block? b.bid = some b) (g : Block → Block)
    (hg : ∀ x, (g x).bid = x.bid) : OnlyBlock s (s.modBlock b.bid g) (g b) := by
  refine ⟨?_, fun i hi => ?_, rfl⟩
  · rw [hg, block?_modBlock _ _ _ _ hg]; simp [hb]
  · rw [block?_modBlock _ _ _ _ hg, if_neg (by simpa [hg] using hi)]

/-- Counting an event of a stall changes that counter only. -/
theorem onlyCounter_count (s : State) (st k : Nat) : OnlyCounter s (s.count st k 1) st k := by
  unfold State.count
  have hs : ∀ n, (s.modStall st fun x => { x with counters := x.counters.modify k (bump 1) }).stall? n =
      (s.stall? n).map fun x => { x with counters := if n = st then x.counters.modify k (bump 1) else x.counters } := by
    intro n; rw [stall?_modStall]; split <;> simp
  have ho : ((s.modStall st fun x => { x with counters := x.counters.modify k (bump 1) }).stallD st).owner = (s.stallD st).owner := by
    simp only [State.stallD, hs]; cases s.stall? st <;> simp
  simp only [show (fun v : Nat => (v + 1) % 2 ^ 64) = bump 1 from rfl]
  split
  · rename_i c hc
    rw [ho] at hc
    refine ⟨hs, fun n => ?_, rfl⟩
    rw [ctx?_modCtx _ c n (fun x => { x with counters := x.counters.modify k (bump 1) }) (fun _ => rfl), hc]
    show (if n = c then Option.map _ (s.ctx? n) else s.ctx? n) = _
    by_cases h : n = c
    · subst h; simp
    · have : ¬ c = n := fun e => h e.symm
      simp [h, this]
  · rename_i hc
    rw [ho] at hc
    refine ⟨hs, fun n => ?_, rfl⟩
    rw [hc]; simp; rfl

/-- Counting and updating a block may be done in either order. -/
theorem modBlock_count (s : State) (st k n bid : Nat) (g : Block → Block) :
    (s.count st k n).modBlock bid g = (s.modBlock bid g).count st k n := by
  unfold State.count
  have : ∀ (u : State), (u.modBlock bid g).stallD st = u.stallD st := fun _ => rfl
  simp only [show ∀ f, ((s.modBlock bid g).modStall st f).stallD st = (s.modStall st f).stallD st from fun _ => rfl]
  split <;> rfl

theorem modBlock_modBlock (s : State) (bid : Nat) (f g : Block → Block) (hf : ∀ x, (f x).bid = x.bid) :
    (s.modBlock bid f).modBlock bid g = s.modBlock bid (g ∘ f) := by
  simp only [State.modBlock, List.map_map]
  congr 1
  apply List.map_congr_left
  intro x _
  by_cases h : x.bid = bid <;> simp [h, hf]

/-! Executing -/

theorem fired_eq (c : Cx) (e : Bool) : fired c e = c.b.markFired c.slot e := rfl

/-- A word that executes in a state that differs from `s` in its block only, and then updates its block. -/
theorem ran_from {s x : State} {c : Cx} {b : Block} (hx : OnlyBlock s x b) (hb : b.bid = c.b.bid) (g : Block → Block)
    (hg : ∀ y, (g y).bid = y.bid) : Ran s ((x.done c).modBlock c.b.bid g) c (g (b.markFired c.slot true)) := by
  have h1 := onlyBlock_modBlock hx.block (g ∘ fun y => y.markFired c.slot true) (fun y => hg _)
  refine ⟨x.modBlock c.b.bid (g ∘ fun y => y.markFired c.slot true), ⟨?_, fun i hi => ?_, ?_⟩, ?_⟩
  · rw [← hb]; exact h1.block
  · rw [← hb, h1.others i hi]; exact hx.others i (by rwa [show (g (b.markFired c.slot true)).bid = b.bid from hg _] at hi)
  · rw [show x.modBlock c.b.bid (g ∘ fun y => y.markFired c.slot true) =
      { x with blocks := (x.modBlock c.b.bid (g ∘ fun y => y.markFired c.slot true)).blocks } from rfl, hx.rest]
  · rw [State.done, modBlock_count, modBlock_modBlock x c.b.bid (fun y => y.markFired c.slot true) g (fun _ => rfl)]
    exact onlyCounter_count _ _ _

theorem onlyBlock_refl {s : State} {b : Block} (hb : s.block? b.bid = some b) : OnlyBlock s s b := ⟨hb, fun _ _ => rfl, rfl⟩

/-- A word that executes and then updates its block. -/
theorem ran_mod {s : State} {c : Cx} (h : s.cx? = some c) (g : Block → Block) (hg : ∀ x, (g x).bid = x.bid) :
    Ran s ((s.done c).modBlock c.b.bid g) c (g (fired c true)) := ran_from (onlyBlock_refl (cx?_eq h).2.1) rfl g hg

theorem ran_done {s : State} {c : Cx} (h : s.cx? = some c) : Ran s (s.done c) c (fired c true) := by
  have hb := (cx?_eq h).2.1
  exact ⟨_, onlyBlock_modBlock hb (fun b => b.markFired c.slot true) (fun _ => rfl), onlyCounter_count _ _ _⟩

theorem predOff_only {s : State} {c : Cx} (h : s.cx? = some c) : OnlyBlock s (s.predOff c) (fired c false) :=
  onlyBlock_modBlock (cx?_eq h).2.1 (fun b => b.markFired c.slot false) (fun _ => rfl)

/-- Delivery: each named target gets a token, and nothing else changes (R53). -/
theorem delivers_from {s : State} {c : Cx} (h : s.cx? = some c) (hd : Hd) (v : W64) (a : Arrival) :
    Delivers s (s.deliverFrom c hd v a) c hd v :=
  ⟨a, ran_mod h (fun b => { b with transit := b.transit ++ targetsOf c.slot hd v a }) (fun _ => rfl)⟩
theorem delivers_deliver {s : State} {c : Cx} (h : s.cx? = some c) (hd : Hd) (v : W64) :
    Delivers s (s.deliver c hd v) c hd v := delivers_from h hd v _

/-- An effect waits for the commit (R46). -/
theorem records_effect {s : State} {c : Cx} (h : s.cx? = some c) (e : Effect) : Records s (s.effect c e) c e :=
  ran_mod h (fun b => { b with effs := b.effs ++ [(c.slot, e)] }) (fun _ => rfl)

theorem waitsOn_waitOn {s : State} {c : Cx} (h : s.cx? = some c) (w : Wait) : WaitsOn s (s.waitOn c w) c w :=
  onlyBlock_modBlock (cx?_eq h).2.1 (fun b => { b with waits := (c.slot, w) :: b.waits.filter fun x => x.1 != c.slot }) (fun _ => rfl)

/-- A word that delivers a value wherever it runs. -/
theorem gives_of {i : Instr} {h : Hd} {f v : Cx → W64} (he : ∀ s, exec i s = s.runWord h fun c => s.deliver c h (f c))
    (hv : ∀ c, f c = v c) : Gives i h v := by
  intro s c r
  refine ⟨_, (he s).trans (runWord_on r _), ?_⟩
  rw [hv]; exact delivers_deliver r.1 h _

/-! LSIDs -/

theorem onlyBlock_noted {s : State} {c : Cx} (h : s.cx? = some c) (n : BitVec 5) :
    OnlyBlock s (noted s c n) { c.b with lsids := c.b.lsids ++ [(n.toNat, c.slot)] } :=
  onlyBlock_modBlock (cx?_eq h).2.1 (fun b => { b with lsids := b.lsids ++ [(n.toNat, c.slot)] }) (fun _ => rfl)

/-- The first memory word of an LSID notes it and goes on (R46). -/
theorem satisfyLsid_first {s : State} {c : Cx} {n : BitVec 5} (h : FirstOf c n) (k : State → State) :
    s.satisfyLsid c n k = k (noted s c n) := by
  have h1 : (c.b.lsids.any fun e => e.1 == n.toNat && e.2 != c.slot) = false := by
    simp only [List.any_eq_false]; intro e he; simp [h e he]
  have h2 : (c.b.lsids.any fun e => e.1 == n.toNat) = false := by
    simp only [List.any_eq_false]; intro e he; simpa using h e he
  simp [State.satisfyLsid, h1, h2, noted]

/-- The check of an access does not look at blocks. -/
theorem checkAccess_blocks (s : State) (l : List Block) (st ctx bid : Nat) (n : Need) (w : Bool) (ea : W64) (size heat : Nat) :
    State.checkAccess { s with blocks := l } st ctx bid n w ea size heat = s.checkAccess st ctx bid n w ea size heat := rfl

theorem checkAccess_noted (s : State) (c : Cx) (l : BitVec 5) (st ctx bid : Nat) (n : Need) (w : Bool) (ea : W64) (size heat : Nat) :
    (noted s c l).checkAccess st ctx bid n w ea size heat = s.checkAccess st ctx bid n w ea size heat :=
  checkAccess_blocks s _ st ctx bid n w ea size heat

/-! Outstanding operations -/

/-- Counting an event and changing the outstanding operations may be done in either order. -/
theorem count_with_ops (s : State) (st k n : Nat) (o : List MemOp) (i : Nat) :
    { s.count st k n with ops := o, nextId := i } = ({ s with ops := o, nextId := i } : State).count st k n := by
  unfold State.count
  simp only [show ∀ f, (({ s with ops := o, nextId := i } : State).modStall st f).stallD st = (s.modStall st f).stallD st from fun _ => rfl]
  split <;> rfl

/-- A word that executes, notes what it sees, and issues an operation. -/
theorem ran_addOp {s : State} {c : Cx} (h : s.cx? = some c) (n : BitVec 5) (x : Seen) (k : OpKind) (a : Acc) :
    Ran { s with ops := s.ops ++ [⟨s.nextId, c.b.bid, c.slot, n.toNat, k, a, none, c.org, []⟩], nextId := s.nextId + 1 }
      (((((noted s c n).done c).modBlock c.b.bid fun b => { b with seen := b.seen ++ [x] })).addOp c n k a) c (accessed c n x) := by
  have hn := onlyBlock_noted h n
  have hx : OnlyBlock { s with ops := s.ops ++ [⟨s.nextId, c.b.bid, c.slot, n.toNat, k, a, none, c.org, []⟩], nextId := s.nextId + 1 }
      { noted s c n with ops := s.ops ++ [⟨s.nextId, c.b.bid, c.slot, n.toNat, k, a, none, c.org, []⟩], nextId := s.nextId + 1 }
      { c.b with lsids := c.b.lsids ++ [(n.toNat, c.slot)] } := ⟨hn.block, hn.others, rfl⟩
  have := ran_from hx rfl (fun b => { b with seen := b.seen ++ [x] }) (fun _ => rfl)
  rw [State.done] at this ⊢
  rw [modBlock_count] at this ⊢
  have e := count_with_ops (((noted s c n).modBlock c.b.bid fun b => b.markFired c.slot true).modBlock c.b.bid fun b => { b with seen := b.seen ++ [x] })
    c.f.stall 3 1 (s.ops ++ [⟨s.nextId, c.b.bid, c.slot, n.toNat, k, a, none, c.org, []⟩]) (s.nextId + 1)
  unfold State.addOp
  have o1 : (State.count (((noted s c n).modBlock c.b.bid fun b => b.markFired c.slot true).modBlock c.b.bid
      fun b => { b with seen := b.seen ++ [x] }) c.f.stall 3 1).ops = s.ops := State.count_ops ..
  have o2 : (State.count (((noted s c n).modBlock c.b.bid fun b => b.markFired c.slot true).modBlock c.b.bid
      fun b => { b with seen := b.seen ++ [x] }) c.f.stall 3 1).nextId = s.nextId := State.count_nextId ..
  rw [o1, o2, e]
  exact this

/-- A memory word that records an effect, and what it sees of its access. -/
theorem ran_effect_sees {s x : State} {c : Cx} {b : Block} (hx : OnlyBlock s x b) (hb : b.bid = c.b.bid) (e : Effect) (a : Acc)
    (rd wr mark : Bool) : Ran s ((x.effect c e).sees c a rd wr mark) c
      { b.markFired c.slot true with effs := b.effs ++ [(c.slot, e)], seen := b.seen ++ [⟨a, rd, wr, mark⟩] } := by
  unfold State.sees State.effect
  rw [modBlock_modBlock _ _ (fun b => { b with effs := b.effs ++ [(c.slot, e)] }) _ (fun _ => rfl)]
  exact ran_from hx hb _ (fun _ => rfl)

end Sys2Proof.Machine
end

