-- ==== Sys2Proof/Laws/Access.lean ====
section
/-! SUPPORT. What performing an access does beside its own effect: counters, class services and draws (R378, R431). -/
namespace Sys2Proof.Machine

theorem onlyCounts_refl (s : State) : OnlyCounts s s := ⟨rfl, fun _ => rfl, fun _ => rfl⟩

theorem onlyCounts_trans {s t u : State} (h : OnlyCounts s t) (k : OnlyCounts t u) : OnlyCounts s u := by
  refine ⟨?_, fun n => (k.stall n).trans (h.stall n), fun n => (k.ctx n).trans (h.ctx n)⟩
  rw [k.rest, h.rest]

theorem onlyCounts_count (s : State) (st k : Nat) : OnlyCounts s (s.count st k 1) := by
  have h := onlyCounter_count s st k
  refine ⟨?_, fun n => ?_, fun n => ?_⟩
  · have := h.rest; rw [this]
  · rw [h.stall n]; cases s.stall? n <;> rfl
  · rw [h.ctx n]; cases s.ctx? n <;> rfl

/-- One sector served changes a class-table entry and, of a DRAM address, a cache set (R378, R398). -/
theorem onlyCounts_serve1 (s : State) (c : Nat) (wr : Bool) (p : Nat) : OnlyCounts s (s.serve1 c wr p) := by
  unfold State.serve1
  dsimp only
  split <;> exact ⟨rfl, fun _ => rfl, fun _ => rfl⟩

theorem onlyCounts_served (s : State) (st c : Nat) (l : List Nat) (wr : Bool) : OnlyCounts s (s.served st c l wr) := by
  unfold State.served
  generalize ((l.filter fun p => paKind p != .control).map (· / 128)).eraseDups = xs
  generalize ((s.ctx? c).map (·.params.cls)).getD 0 = k
  dsimp only
  have h : OnlyCounts s (if l.any s.missesL2 then s.count st 10 1 else s) := by
    split
    · exact onlyCounts_count _ _ _
    · exact onlyCounts_refl s
  generalize (if l.any s.missesL2 then s.count st 10 1 else s) = u at h ⊢
  induction xs generalizing u with
  | nil => exact h
  | cons x xs ih => exact ih _ (onlyCounts_trans h (onlyCounts_serve1 u k wr (x * 128)))

theorem onlyCounts_countAccess (s : State) (st : Nat) (a : Acc) (wr : Bool) : OnlyCounts s (s.countAccess st a wr) :=
  onlyCounts_trans (onlyCounts_count s st 9) (onlyCounts_served _ _ _ _ _)


end Sys2Proof.Machine
end

