-- ==== Sys2Proof/Laws/PerInstr.lean ====
section
/-! SUPPORT. A fact of every instruction's encoding, constructor by constructor: an event has no words, and only an S-format word
fills a second slot (R52, R58). -/
namespace Sys2Proof.Laws

/-- The words of an instruction have the shape of R52 and R58. -/
def EncodeShape.Statement (i : Instr) : Prop :=
  (i.isWord = false → encode i = (0, 0)) ∧ (i.twoSlot = false → (encode i).2 = 0)

theorem EncodeShape.bro : ∀ a0 a1 a2, EncodeShape.Statement (.bro a0 a1 a2) := by
  intro a0 a1 a2; exact ⟨fun h => Bool.noConfusion h, fun _ => rfl⟩
theorem EncodeShape.bri : ∀ a0 a1, EncodeShape.Statement (.bri a0 a1) := by
  intro a0 a1; exact ⟨fun h => Bool.noConfusion h, fun _ => rfl⟩
theorem EncodeShape.call : ∀ a0 a1 a2, EncodeShape.Statement (.call a0 a1 a2) := by
  intro a0 a1 a2; exact ⟨fun h => Bool.noConfusion h, fun _ => rfl⟩
theorem EncodeShape.ret : ∀ a0 a1, EncodeShape.Statement (.ret a0 a1) := by
  intro a0 a1; exact ⟨fun h => Bool.noConfusion h, fun _ => rfl⟩
theorem EncodeShape.fend : ∀ a0, EncodeShape.Statement (.fend a0) := by
  intro a0; exact ⟨fun h => Bool.noConfusion h, fun _ => rfl⟩
theorem EncodeShape.iter : ∀ a0, EncodeShape.Statement (.iter a0) := by
  intro a0; exact ⟨fun h => Bool.noConfusion h, fun _ => rfl⟩
theorem EncodeShape.null : ∀ a0 a1, EncodeShape.Statement (.null a0 a1) := by
  intro a0 a1; exact ⟨fun h => Bool.noConfusion h, fun _ => rfl⟩
theorem EncodeShape.mnull : ∀ a0 a1, EncodeShape.Statement (.mnull a0 a1) := by
  intro a0 a1; exact ⟨fun h => Bool.noConfusion h, fun _ => rfl⟩
theorem EncodeShape.grd : ∀ a0 a1, EncodeShape.Statement (.grd a0 a1) := by
  intro a0 a1; exact ⟨fun h => Bool.noConfusion h, fun _ => rfl⟩
theorem EncodeShape.gwr : ∀ a0 a1, EncodeShape.Statement (.gwr a0 a1) := by
  intro a0 a1; exact ⟨fun h => Bool.noConfusion h, fun _ => rfl⟩
theorem EncodeShape.movi : ∀ a0 a1, EncodeShape.Statement (.movi a0 a1) := by
  intro a0 a1; exact ⟨fun h => Bool.noConfusion h, fun _ => rfl⟩
theorem EncodeShape.movhi : ∀ a0 a1, EncodeShape.Statement (.movhi a0 a1) := by
  intro a0 a1; exact ⟨fun h => Bool.noConfusion h, fun _ => rfl⟩
theorem EncodeShape.mov : ∀ a0, EncodeShape.Statement (.mov a0) := by
  intro a0; exact ⟨fun h => Bool.noConfusion h, fun _ => rfl⟩
theorem EncodeShape.sel : ∀ a0, EncodeShape.Statement (.sel a0) := by
  intro a0; exact ⟨fun h => Bool.noConfusion h, fun _ => rfl⟩
theorem EncodeShape.tst : ∀ a0 a1, EncodeShape.Statement (.tst a0 a1) := by
  intro a0 a1; exact ⟨fun h => Bool.noConfusion h, fun _ => rfl⟩
theorem EncodeShape.nop : ∀ a0, EncodeShape.Statement (.nop a0) := by
  intro a0; exact ⟨fun h => Bool.noConfusion h, fun _ => rfl⟩
theorem EncodeShape.yld : ∀ a0, EncodeShape.Statement (.yld a0) := by
  intro a0; exact ⟨fun h => Bool.noConfusion h, fun _ => rfl⟩
theorem EncodeShape.add : ∀ a0 a1, EncodeShape.Statement (.add a0 a1) := by
  intro a0 a1; exact ⟨fun h => Bool.noConfusion h, fun _ => rfl⟩
theorem EncodeShape.sub : ∀ a0 a1, EncodeShape.Statement (.sub a0 a1) := by
  intro a0 a1; exact ⟨fun h => Bool.noConfusion h, fun _ => rfl⟩
theorem EncodeShape.mul : ∀ a0 a1, EncodeShape.Statement (.mul a0 a1) := by
  intro a0 a1; exact ⟨fun h => Bool.noConfusion h, fun _ => rfl⟩
theorem EncodeShape.mulh : ∀ a0 a1, EncodeShape.Statement (.mulh a0 a1) := by
  intro a0 a1; exact ⟨fun h => Bool.noConfusion h, fun _ => rfl⟩
theorem EncodeShape.mulhu : ∀ a0 a1, EncodeShape.Statement (.mulhu a0 a1) := by
  intro a0 a1; exact ⟨fun h => Bool.noConfusion h, fun _ => rfl⟩
theorem EncodeShape.div : ∀ a0 a1, EncodeShape.Statement (.div a0 a1) := by
  intro a0 a1; exact ⟨fun h => Bool.noConfusion h, fun _ => rfl⟩
theorem EncodeShape.divu : ∀ a0 a1, EncodeShape.Statement (.divu a0 a1) := by
  intro a0 a1; exact ⟨fun h => Bool.noConfusion h, fun _ => rfl⟩
theorem EncodeShape.rem : ∀ a0 a1, EncodeShape.Statement (.rem a0 a1) := by
  intro a0 a1; exact ⟨fun h => Bool.noConfusion h, fun _ => rfl⟩
theorem EncodeShape.remu : ∀ a0 a1, EncodeShape.Statement (.remu a0 a1) := by
  intro a0 a1; exact ⟨fun h => Bool.noConfusion h, fun _ => rfl⟩
theorem EncodeShape.and : ∀ a0 a1, EncodeShape.Statement (.and a0 a1) := by
  intro a0 a1; exact ⟨fun h => Bool.noConfusion h, fun _ => rfl⟩
theorem EncodeShape.or : ∀ a0 a1, EncodeShape.Statement (.or a0 a1) := by
  intro a0 a1; exact ⟨fun h => Bool.noConfusion h, fun _ => rfl⟩
theorem EncodeShape.xor : ∀ a0 a1, EncodeShape.Statement (.xor a0 a1) := by
  intro a0 a1; exact ⟨fun h => Bool.noConfusion h, fun _ => rfl⟩
theorem EncodeShape.andn : ∀ a0 a1, EncodeShape.Statement (.andn a0 a1) := by
  intro a0 a1; exact ⟨fun h => Bool.noConfusion h, fun _ => rfl⟩
theorem EncodeShape.shl : ∀ a0 a1, EncodeShape.Statement (.shl a0 a1) := by
  intro a0 a1; exact ⟨fun h => Bool.noConfusion h, fun _ => rfl⟩
theorem EncodeShape.shr : ∀ a0 a1, EncodeShape.Statement (.shr a0 a1) := by
  intro a0 a1; exact ⟨fun h => Bool.noConfusion h, fun _ => rfl⟩
theorem EncodeShape.sar : ∀ a0 a1, EncodeShape.Statement (.sar a0 a1) := by
  intro a0 a1; exact ⟨fun h => Bool.noConfusion h, fun _ => rfl⟩
theorem EncodeShape.rotl : ∀ a0 a1, EncodeShape.Statement (.rotl a0 a1) := by
  intro a0 a1; exact ⟨fun h => Bool.noConfusion h, fun _ => rfl⟩
theorem EncodeShape.clz : ∀ a0 a1, EncodeShape.Statement (.clz a0 a1) := by
  intro a0 a1; exact ⟨fun h => Bool.noConfusion h, fun _ => rfl⟩
theorem EncodeShape.ctz : ∀ a0 a1, EncodeShape.Statement (.ctz a0 a1) := by
  intro a0 a1; exact ⟨fun h => Bool.noConfusion h, fun _ => rfl⟩
theorem EncodeShape.popc : ∀ a0 a1, EncodeShape.Statement (.popc a0 a1) := by
  intro a0 a1; exact ⟨fun h => Bool.noConfusion h, fun _ => rfl⟩
theorem EncodeShape.min : ∀ a0 a1, EncodeShape.Statement (.min a0 a1) := by
  intro a0 a1; exact ⟨fun h => Bool.noConfusion h, fun _ => rfl⟩
theorem EncodeShape.max : ∀ a0 a1, EncodeShape.Statement (.max a0 a1) := by
  intro a0 a1; exact ⟨fun h => Bool.noConfusion h, fun _ => rfl⟩
theorem EncodeShape.minu : ∀ a0 a1, EncodeShape.Statement (.minu a0 a1) := by
  intro a0 a1; exact ⟨fun h => Bool.noConfusion h, fun _ => rfl⟩
theorem EncodeShape.maxu : ∀ a0 a1, EncodeShape.Statement (.maxu a0 a1) := by
  intro a0 a1; exact ⟨fun h => Bool.noConfusion h, fun _ => rfl⟩
theorem EncodeShape.abs : ∀ a0 a1, EncodeShape.Statement (.abs a0 a1) := by
  intro a0 a1; exact ⟨fun h => Bool.noConfusion h, fun _ => rfl⟩
theorem EncodeShape.addsh : ∀ a0 a1 a2, EncodeShape.Statement (.addsh a0 a1 a2) := by
  intro a0 a1 a2; exact ⟨fun h => Bool.noConfusion h, fun _ => rfl⟩
theorem EncodeShape.addi : ∀ a0 a1 a2, EncodeShape.Statement (.addi a0 a1 a2) := by
  intro a0 a1 a2; exact ⟨fun h => Bool.noConfusion h, fun _ => rfl⟩
theorem EncodeShape.andi : ∀ a0 a1, EncodeShape.Statement (.andi a0 a1) := by
  intro a0 a1; exact ⟨fun h => Bool.noConfusion h, fun _ => rfl⟩
theorem EncodeShape.ori : ∀ a0 a1, EncodeShape.Statement (.ori a0 a1) := by
  intro a0 a1; exact ⟨fun h => Bool.noConfusion h, fun _ => rfl⟩
theorem EncodeShape.xori : ∀ a0 a1, EncodeShape.Statement (.xori a0 a1) := by
  intro a0 a1; exact ⟨fun h => Bool.noConfusion h, fun _ => rfl⟩
theorem EncodeShape.shli : ∀ a0 a1 a2, EncodeShape.Statement (.shli a0 a1 a2) := by
  intro a0 a1 a2; exact ⟨fun h => Bool.noConfusion h, fun _ => rfl⟩
theorem EncodeShape.shri : ∀ a0 a1 a2, EncodeShape.Statement (.shri a0 a1 a2) := by
  intro a0 a1 a2; exact ⟨fun h => Bool.noConfusion h, fun _ => rfl⟩
theorem EncodeShape.sari : ∀ a0 a1 a2, EncodeShape.Statement (.sari a0 a1 a2) := by
  intro a0 a1 a2; exact ⟨fun h => Bool.noConfusion h, fun _ => rfl⟩
theorem EncodeShape.sext : ∀ a0 a1, EncodeShape.Statement (.sext a0 a1) := by
  intro a0 a1; exact ⟨fun h => Bool.noConfusion h, fun _ => rfl⟩
theorem EncodeShape.zext : ∀ a0 a1, EncodeShape.Statement (.zext a0 a1) := by
  intro a0 a1; exact ⟨fun h => Bool.noConfusion h, fun _ => rfl⟩
theorem EncodeShape.bfx : ∀ a0 a1 a2 a3, EncodeShape.Statement (.bfx a0 a1 a2 a3) := by
  intro a0 a1 a2 a3; exact ⟨fun h => Bool.noConfusion h, fun _ => rfl⟩
theorem EncodeShape.bfi : ∀ a0 a1 a2, EncodeShape.Statement (.bfi a0 a1 a2) := by
  intro a0 a1 a2; exact ⟨fun h => Bool.noConfusion h, fun _ => rfl⟩
theorem EncodeShape.fadd : ∀ a0, EncodeShape.Statement (.fadd a0) := by
  intro a0; exact ⟨fun h => Bool.noConfusion h, fun _ => rfl⟩
theorem EncodeShape.fsub : ∀ a0, EncodeShape.Statement (.fsub a0) := by
  intro a0; exact ⟨fun h => Bool.noConfusion h, fun _ => rfl⟩
theorem EncodeShape.fmul : ∀ a0, EncodeShape.Statement (.fmul a0) := by
  intro a0; exact ⟨fun h => Bool.noConfusion h, fun _ => rfl⟩
theorem EncodeShape.ffma : ∀ a0, EncodeShape.Statement (.ffma a0) := by
  intro a0; exact ⟨fun h => Bool.noConfusion h, fun _ => rfl⟩
theorem EncodeShape.fdiv : ∀ a0, EncodeShape.Statement (.fdiv a0) := by
  intro a0; exact ⟨fun h => Bool.noConfusion h, fun _ => rfl⟩
theorem EncodeShape.fsqrt : ∀ a0, EncodeShape.Statement (.fsqrt a0) := by
  intro a0; exact ⟨fun h => Bool.noConfusion h, fun _ => rfl⟩
theorem EncodeShape.fmin : ∀ a0, EncodeShape.Statement (.fmin a0) := by
  intro a0; exact ⟨fun h => Bool.noConfusion h, fun _ => rfl⟩
theorem EncodeShape.fmax : ∀ a0, EncodeShape.Statement (.fmax a0) := by
  intro a0; exact ⟨fun h => Bool.noConfusion h, fun _ => rfl⟩
theorem EncodeShape.ftst : ∀ a0 a1, EncodeShape.Statement (.ftst a0 a1) := by
  intro a0 a1; exact ⟨fun h => Bool.noConfusion h, fun _ => rfl⟩
theorem EncodeShape.fcvt : ∀ a0 a1 a2, EncodeShape.Statement (.fcvt a0 a1 a2) := by
  intro a0 a1 a2; exact ⟨fun h => Bool.noConfusion h, fun _ => rfl⟩
theorem EncodeShape.fclass : ∀ a0, EncodeShape.Statement (.fclass a0) := by
  intro a0; exact ⟨fun h => Bool.noConfusion h, fun _ => rfl⟩
theorem EncodeShape.frnd : ∀ a0 a1, EncodeShape.Statement (.frnd a0 a1) := by
  intro a0 a1; exact ⟨fun h => Bool.noConfusion h, fun _ => rfl⟩
theorem EncodeShape.fsgn : ∀ a0 a1, EncodeShape.Statement (.fsgn a0 a1) := by
  intro a0 a1; exact ⟨fun h => Bool.noConfusion h, fun _ => rfl⟩
theorem EncodeShape.ld : ∀ a0 a1, EncodeShape.Statement (.ld a0 a1) := by
  intro a0 a1; exact ⟨fun h => Bool.noConfusion h, fun _ => rfl⟩
theorem EncodeShape.st : ∀ a0 a1, EncodeShape.Statement (.st a0 a1) := by
  intro a0 a1; exact ⟨fun h => Bool.noConfusion h, fun _ => rfl⟩
theorem EncodeShape.ldh : ∀ a0 a1, EncodeShape.Statement (.ldh a0 a1) := by
  intro a0 a1; exact ⟨fun h => Bool.noConfusion h, fun _ => rfl⟩
theorem EncodeShape.lds : ∀ a0 a1, EncodeShape.Statement (.lds a0 a1) := by
  intro a0 a1; exact ⟨fun h => Bool.noConfusion h, fun _ => rfl⟩
theorem EncodeShape.pref : ∀ a0 a1, EncodeShape.Statement (.pref a0 a1) := by
  intro a0 a1; exact ⟨fun h => Bool.noConfusion h, fun _ => rfl⟩
theorem EncodeShape.amoAdd : ∀ a0 a1, EncodeShape.Statement (.amoAdd a0 a1) := by
  intro a0 a1; exact ⟨fun h => Bool.noConfusion h, fun _ => rfl⟩
theorem EncodeShape.amoAnd : ∀ a0 a1, EncodeShape.Statement (.amoAnd a0 a1) := by
  intro a0 a1; exact ⟨fun h => Bool.noConfusion h, fun _ => rfl⟩
theorem EncodeShape.amoOr : ∀ a0 a1, EncodeShape.Statement (.amoOr a0 a1) := by
  intro a0 a1; exact ⟨fun h => Bool.noConfusion h, fun _ => rfl⟩
theorem EncodeShape.amoXor : ∀ a0 a1, EncodeShape.Statement (.amoXor a0 a1) := by
  intro a0 a1; exact ⟨fun h => Bool.noConfusion h, fun _ => rfl⟩
theorem EncodeShape.amoSwap : ∀ a0 a1, EncodeShape.Statement (.amoSwap a0 a1) := by
  intro a0 a1; exact ⟨fun h => Bool.noConfusion h, fun _ => rfl⟩
theorem EncodeShape.amoMin : ∀ a0 a1, EncodeShape.Statement (.amoMin a0 a1) := by
  intro a0 a1; exact ⟨fun h => Bool.noConfusion h, fun _ => rfl⟩
theorem EncodeShape.amoMax : ∀ a0 a1, EncodeShape.Statement (.amoMax a0 a1) := by
  intro a0 a1; exact ⟨fun h => Bool.noConfusion h, fun _ => rfl⟩
theorem EncodeShape.cas : ∀ a0 a1, EncodeShape.Statement (.cas a0 a1) := by
  intro a0 a1; exact ⟨fun h => Bool.noConfusion h, fun _ => rfl⟩
theorem EncodeShape.fence : ∀ a0 a1, EncodeShape.Statement (.fence a0 a1) := by
  intro a0 a1; exact ⟨fun h => Bool.noConfusion h, fun _ => rfl⟩
theorem EncodeShape.stmc : ∀ a0 a1, EncodeShape.Statement (.stmc a0 a1) := by
  intro a0 a1; exact ⟨fun h => Bool.noConfusion h, fun _ => rfl⟩
theorem EncodeShape.htNew : ∀ a0, EncodeShape.Statement (.htNew a0) := by
  intro a0; exact ⟨fun h => Bool.noConfusion h, fun _ => rfl⟩
theorem EncodeShape.htEnd : ∀ a0, EncodeShape.Statement (.htEnd a0) := by
  intro a0; exact ⟨fun h => Bool.noConfusion h, fun _ => rfl⟩
theorem EncodeShape.htCancel : ∀ a0, EncodeShape.Statement (.htCancel a0) := by
  intro a0; exact ⟨fun h => Bool.noConfusion h, fun _ => rfl⟩
theorem EncodeShape.hdInit : ∀ a0 a1, EncodeShape.Statement (.hdInit a0 a1) := by
  intro a0 a1; exact ⟨fun h => Bool.noConfusion h, fun _ => rfl⟩
theorem EncodeShape.hdArr : ∀ a0 a1, EncodeShape.Statement (.hdArr a0 a1) := by
  intro a0 a1; exact ⟨fun h => Bool.noConfusion h, fun _ => rfl⟩
theorem EncodeShape.hdWait : ∀ a0 a1, EncodeShape.Statement (.hdWait a0 a1) := by
  intro a0 a1; exact ⟨fun h => Bool.noConfusion h, fun _ => rfl⟩
theorem EncodeShape.hdTest : ∀ a0 a1, EncodeShape.Statement (.hdTest a0 a1) := by
  intro a0 a1; exact ⟨fun h => Bool.noConfusion h, fun _ => rfl⟩
theorem EncodeShape.hdXpct : ∀ a0 a1, EncodeShape.Statement (.hdXpct a0 a1) := by
  intro a0 a1; exact ⟨fun h => Bool.noConfusion h, fun _ => rfl⟩
theorem EncodeShape.spawn : ∀ a0 a1, EncodeShape.Statement (.spawn a0 a1) := by
  intro a0 a1; exact ⟨fun h => Bool.noConfusion h, fun _ => rfl⟩
theorem EncodeShape.fref : ∀ a0, EncodeShape.Statement (.fref a0) := by
  intro a0; exact ⟨fun h => Bool.noConfusion h, fun _ => rfl⟩
theorem EncodeShape.fdrop : ∀ a0, EncodeShape.Statement (.fdrop a0) := by
  intro a0; exact ⟨fun h => Bool.noConfusion h, fun _ => rfl⟩
theorem EncodeShape.fget : ∀ a0 a1, EncodeShape.Statement (.fget a0 a1) := by
  intro a0 a1; exact ⟨fun h => Bool.noConfusion h, fun _ => rfl⟩
theorem EncodeShape.fset : ∀ a0 a1, EncodeShape.Statement (.fset a0 a1) := by
  intro a0 a1; exact ⟨fun h => Bool.noConfusion h, fun _ => rfl⟩
theorem EncodeShape.ftest : ∀ a0, EncodeShape.Statement (.ftest a0) := by
  intro a0; exact ⟨fun h => Bool.noConfusion h, fun _ => rfl⟩
theorem EncodeShape.peek : ∀ a0, EncodeShape.Statement (.peek a0) := by
  intro a0; exact ⟨fun h => Bool.noConfusion h, fun _ => rfl⟩
theorem EncodeShape.launch : ∀ a0, EncodeShape.Statement (.launch a0) := by
  intro a0; exact ⟨fun h => Bool.noConfusion h, fun _ => rfl⟩
theorem EncodeShape.lwait : ∀ a0, EncodeShape.Statement (.lwait a0) := by
  intro a0; exact ⟨fun h => Bool.noConfusion h, fun _ => rfl⟩
theorem EncodeShape.cancel : ∀ a0, EncodeShape.Statement (.cancel a0) := by
  intro a0; exact ⟨fun h => Bool.noConfusion h, fun _ => rfl⟩
theorem EncodeShape.send : ∀ a0, EncodeShape.Statement (.send a0) := by
  intro a0; exact ⟨fun h => Bool.noConfusion h, fun _ => rfl⟩
theorem EncodeShape.tdef : ∀ a0 a1, EncodeShape.Statement (.tdef a0 a1) := by
  intro a0 a1; exact ⟨fun h => Bool.noConfusion h, fun _ => rfl⟩
theorem EncodeShape.tstate : ∀ a0 a1 a2, EncodeShape.Statement (.tstate a0 a1 a2) := by
  intro a0 a1 a2; exact ⟨fun h => Bool.noConfusion h, fun _ => rfl⟩
theorem EncodeShape.ttest : ∀ a0 a1, EncodeShape.Statement (.ttest a0 a1) := by
  intro a0 a1; exact ⟨fun h => Bool.noConfusion h, fun _ => rfl⟩
theorem EncodeShape.tfree : ∀ a0 a1, EncodeShape.Statement (.tfree a0 a1) := by
  intro a0 a1; exact ⟨fun h => Bool.noConfusion h, fun _ => rfl⟩
theorem EncodeShape.tzero : ∀ a0 a1 a2, EncodeShape.Statement (.tzero a0 a1 a2) := by
  intro a0 a1 a2; exact ⟨fun h => Bool.noConfusion h, fun _ => rfl⟩
theorem EncodeShape.tget : ∀ a0 a1 a2, EncodeShape.Statement (.tget a0 a1 a2) := by
  intro a0 a1 a2; exact ⟨fun h => Bool.noConfusion h, fun _ => rfl⟩
theorem EncodeShape.tsetE : ∀ a0 a1, EncodeShape.Statement (.tsetE a0 a1) := by
  intro a0 a1; exact ⟨fun h => Bool.noConfusion h, fun _ => rfl⟩
theorem EncodeShape.tsetLnk : ∀ a0 a1, EncodeShape.Statement (.tsetLnk a0 a1) := by
  intro a0 a1; exact ⟨fun h => Bool.noConfusion h, fun _ => rfl⟩
theorem EncodeShape.tsetExp : ∀ a0 a1, EncodeShape.Statement (.tsetExp a0 a1) := by
  intro a0 a1; exact ⟨fun h => Bool.noConfusion h, fun _ => rfl⟩
theorem EncodeShape.tring : ∀ a0 a1 a2 a3, EncodeShape.Statement (.tring a0 a1 a2 a3) := by
  intro a0 a1 a2 a3; exact ⟨fun h => Bool.noConfusion h, fun _ => rfl⟩
theorem EncodeShape.tcopy : ∀ a0 a1 a2 a3, EncodeShape.Statement (.tcopy a0 a1 a2 a3) := by
  intro a0 a1 a2 a3; exact ⟨fun h => Bool.noConfusion h, fun _ => rfl⟩
theorem EncodeShape.pld : ∀ a0 a1 a2 a3, EncodeShape.Statement (.pld a0 a1 a2 a3) := by
  intro a0 a1 a2 a3; exact ⟨fun h => Bool.noConfusion h, fun _ => rfl⟩
theorem EncodeShape.pst : ∀ a0 a1 a2 a3, EncodeShape.Statement (.pst a0 a1 a2 a3) := by
  intro a0 a1 a2 a3; exact ⟨fun h => Bool.noConfusion h, fun _ => rfl⟩
theorem EncodeShape.pcpy : ∀ a0 a1, EncodeShape.Statement (.pcpy a0 a1) := by
  intro a0 a1; exact ⟨fun h => Bool.noConfusion h, fun _ => rfl⟩
theorem EncodeShape.pgat : ∀ a0 a1 a2 a3, EncodeShape.Statement (.pgat a0 a1 a2 a3) := by
  intro a0 a1 a2 a3; exact ⟨fun h => Bool.noConfusion h, fun _ => rfl⟩
theorem EncodeShape.psct : ∀ a0 a1 a2 a3, EncodeShape.Statement (.psct a0 a1 a2 a3) := by
  intro a0 a1 a2 a3; exact ⟨fun h => Bool.noConfusion h, fun _ => rfl⟩
theorem EncodeShape.prdc : ∀ a0 a1 a2 a3, EncodeShape.Statement (.prdc a0 a1 a2 a3) := by
  intro a0 a1 a2 a3; exact ⟨fun h => Bool.noConfusion h, fun _ => rfl⟩
theorem EncodeShape.pxpd : ∀ a0 a1 a2 a3, EncodeShape.Statement (.pxpd a0 a1 a2 a3) := by
  intro a0 a1 a2 a3; exact ⟨fun h => Bool.noConfusion h, fun _ => rfl⟩
theorem EncodeShape.pcmp : ∀ a0 a1 a2 a3, EncodeShape.Statement (.pcmp a0 a1 a2 a3) := by
  intro a0 a1 a2 a3; exact ⟨fun h => Bool.noConfusion h, fun _ => rfl⟩
theorem EncodeShape.pstrmIn : ∀ a0 a1 a2, EncodeShape.Statement (.pstrmIn a0 a1 a2) := by
  intro a0 a1 a2; exact ⟨fun h => Bool.noConfusion h, fun _ => rfl⟩
theorem EncodeShape.pstrmOut : ∀ a0 a1 a2, EncodeShape.Statement (.pstrmOut a0 a1 a2) := by
  intro a0 a1 a2; exact ⟨fun h => Bool.noConfusion h, fun _ => rfl⟩
theorem EncodeShape.pbar : ∀ a0 a1, EncodeShape.Statement (.pbar a0 a1) := by
  intro a0 a1; exact ⟨fun h => Bool.noConfusion h, fun _ => rfl⟩
theorem EncodeShape.ppset : ∀ a0 a1 a2, EncodeShape.Statement (.ppset a0 a1 a2) := by
  intro a0 a1 a2; exact ⟨fun h => Bool.noConfusion h, fun _ => rfl⟩
theorem EncodeShape.pmmaI : ∀ a0 a1, EncodeShape.Statement (.pmmaI a0 a1) := by
  intro a0 a1; exact ⟨fun h => Bool.noConfusion h, fun _ => rfl⟩
theorem EncodeShape.pmmaS : ∀ a0 a1, EncodeShape.Statement (.pmmaS a0 a1) := by
  intro a0 a1; exact ⟨fun h => Bool.noConfusion h, fun _ => rfl⟩
theorem EncodeShape.pmmaX : ∀ a0 a1, EncodeShape.Statement (.pmmaX a0 a1) := by
  intro a0 a1; exact ⟨fun h => Bool.noConfusion h, fun _ => rfl⟩
theorem EncodeShape.pmvI : ∀ a0 a1, EncodeShape.Statement (.pmvI a0 a1) := by
  intro a0 a1; exact ⟨fun h => Bool.noConfusion h, fun _ => rfl⟩
theorem EncodeShape.pmvS : ∀ a0 a1, EncodeShape.Statement (.pmvS a0 a1) := by
  intro a0 a1; exact ⟨fun h => Bool.noConfusion h, fun _ => rfl⟩
theorem EncodeShape.pmvX : ∀ a0 a1, EncodeShape.Statement (.pmvX a0 a1) := by
  intro a0 a1; exact ⟨fun h => Bool.noConfusion h, fun _ => rfl⟩
theorem EncodeShape.pzacc : ∀ a0 a1 a2 a3, EncodeShape.Statement (.pzacc a0 a1 a2 a3) := by
  intro a0 a1 a2 a3; exact ⟨fun h => Bool.noConfusion h, fun _ => rfl⟩
theorem EncodeShape.pwmap : ∀ a0 a1 a2 a3, EncodeShape.Statement (.pwmap a0 a1 a2 a3) := by
  intro a0 a1 a2 a3; exact ⟨fun h => Bool.noConfusion h, fun _ => rfl⟩
theorem EncodeShape.spt : ∀ a0 a1, EncodeShape.Statement (.spt a0 a1) := by
  intro a0 a1; exact ⟨fun h => Bool.noConfusion h, fun h => Bool.noConfusion h⟩
theorem EncodeShape.spd : ∀ a0 a1, EncodeShape.Statement (.spd a0 a1) := by
  intro a0 a1; exact ⟨fun h => Bool.noConfusion h, fun h => Bool.noConfusion h⟩
theorem EncodeShape.spld : ∀ a0 a1 a2, EncodeShape.Statement (.spld a0 a1 a2) := by
  intro a0 a1 a2; exact ⟨fun h => Bool.noConfusion h, fun _ => rfl⟩
theorem EncodeShape.spst : ∀ a0 a1 a2, EncodeShape.Statement (.spst a0 a1 a2) := by
  intro a0 a1 a2; exact ⟨fun h => Bool.noConfusion h, fun _ => rfl⟩
theorem EncodeShape.spz : ∀ a0 a1, EncodeShape.Statement (.spz a0 a1) := by
  intro a0 a1; exact ⟨fun h => Bool.noConfusion h, fun _ => rfl⟩
theorem EncodeShape.spfence : ∀ a0, EncodeShape.Statement (.spfence a0) := by
  intro a0; exact ⟨fun h => Bool.noConfusion h, fun _ => rfl⟩
theorem EncodeShape.vadd : ∀ a0 a1, EncodeShape.Statement (.vadd a0 a1) := by
  intro a0 a1; exact ⟨fun h => Bool.noConfusion h, fun _ => rfl⟩
theorem EncodeShape.vsub : ∀ a0 a1, EncodeShape.Statement (.vsub a0 a1) := by
  intro a0 a1; exact ⟨fun h => Bool.noConfusion h, fun _ => rfl⟩
theorem EncodeShape.vmul : ∀ a0 a1, EncodeShape.Statement (.vmul a0 a1) := by
  intro a0 a1; exact ⟨fun h => Bool.noConfusion h, fun _ => rfl⟩
theorem EncodeShape.vfma : ∀ a0 a1, EncodeShape.Statement (.vfma a0 a1) := by
  intro a0 a1; exact ⟨fun h => Bool.noConfusion h, fun _ => rfl⟩
theorem EncodeShape.vfms : ∀ a0 a1, EncodeShape.Statement (.vfms a0 a1) := by
  intro a0 a1; exact ⟨fun h => Bool.noConfusion h, fun _ => rfl⟩
theorem EncodeShape.vmin : ∀ a0 a1, EncodeShape.Statement (.vmin a0 a1) := by
  intro a0 a1; exact ⟨fun h => Bool.noConfusion h, fun _ => rfl⟩
theorem EncodeShape.vmax : ∀ a0 a1, EncodeShape.Statement (.vmax a0 a1) := by
  intro a0 a1; exact ⟨fun h => Bool.noConfusion h, fun _ => rfl⟩
theorem EncodeShape.vabs : ∀ a0 a1, EncodeShape.Statement (.vabs a0 a1) := by
  intro a0 a1; exact ⟨fun h => Bool.noConfusion h, fun _ => rfl⟩
theorem EncodeShape.vneg : ∀ a0 a1, EncodeShape.Statement (.vneg a0 a1) := by
  intro a0 a1; exact ⟨fun h => Bool.noConfusion h, fun _ => rfl⟩
theorem EncodeShape.vrcp : ∀ a0 a1, EncodeShape.Statement (.vrcp a0 a1) := by
  intro a0 a1; exact ⟨fun h => Bool.noConfusion h, fun _ => rfl⟩
theorem EncodeShape.vrsq : ∀ a0 a1, EncodeShape.Statement (.vrsq a0 a1) := by
  intro a0 a1; exact ⟨fun h => Bool.noConfusion h, fun _ => rfl⟩
theorem EncodeShape.vdiv : ∀ a0 a1, EncodeShape.Statement (.vdiv a0 a1) := by
  intro a0 a1; exact ⟨fun h => Bool.noConfusion h, fun _ => rfl⟩
theorem EncodeShape.vsqrt : ∀ a0 a1, EncodeShape.Statement (.vsqrt a0 a1) := by
  intro a0 a1; exact ⟨fun h => Bool.noConfusion h, fun _ => rfl⟩
theorem EncodeShape.vexp2 : ∀ a0 a1, EncodeShape.Statement (.vexp2 a0 a1) := by
  intro a0 a1; exact ⟨fun h => Bool.noConfusion h, fun _ => rfl⟩
theorem EncodeShape.vlog2 : ∀ a0 a1, EncodeShape.Statement (.vlog2 a0 a1) := by
  intro a0 a1; exact ⟨fun h => Bool.noConfusion h, fun _ => rfl⟩
theorem EncodeShape.vcvt : ∀ a0 a1, EncodeShape.Statement (.vcvt a0 a1) := by
  intro a0 a1; exact ⟨fun h => Bool.noConfusion h, fun _ => rfl⟩
theorem EncodeShape.vqnt : ∀ a0 a1 a2, EncodeShape.Statement (.vqnt a0 a1 a2) := by
  intro a0 a1 a2; exact ⟨fun h => Bool.noConfusion h, fun _ => rfl⟩
theorem EncodeShape.vdqnt : ∀ a0 a1, EncodeShape.Statement (.vdqnt a0 a1) := by
  intro a0 a1; exact ⟨fun h => Bool.noConfusion h, fun _ => rfl⟩
theorem EncodeShape.vscl : ∀ a0 a1 a2, EncodeShape.Statement (.vscl a0 a1 a2) := by
  intro a0 a1 a2; exact ⟨fun h => Bool.noConfusion h, fun _ => rfl⟩
theorem EncodeShape.vred : ∀ a0 a1 a2 a3, EncodeShape.Statement (.vred a0 a1 a2 a3) := by
  intro a0 a1 a2 a3; exact ⟨fun h => Bool.noConfusion h, fun _ => rfl⟩
theorem EncodeShape.vscan : ∀ a0 a1 a2 a3, EncodeShape.Statement (.vscan a0 a1 a2 a3) := by
  intro a0 a1 a2 a3; exact ⟨fun h => Bool.noConfusion h, fun _ => rfl⟩
theorem EncodeShape.vbcast : ∀ a0 a1 a2 a3, EncodeShape.Statement (.vbcast a0 a1 a2 a3) := by
  intro a0 a1 a2 a3; exact ⟨fun h => Bool.noConfusion h, fun _ => rfl⟩
theorem EncodeShape.vperm : ∀ a0 a1, EncodeShape.Statement (.vperm a0 a1) := by
  intro a0 a1; exact ⟨fun h => Bool.noConfusion h, fun _ => rfl⟩
theorem EncodeShape.vsel : ∀ a0 a1, EncodeShape.Statement (.vsel a0 a1) := by
  intro a0 a1; exact ⟨fun h => Bool.noConfusion h, fun _ => rfl⟩
theorem EncodeShape.vcmp : ∀ a0 a1 a2, EncodeShape.Statement (.vcmp a0 a1 a2) := by
  intro a0 a1 a2; exact ⟨fun h => Bool.noConfusion h, fun _ => rfl⟩
theorem EncodeShape.vand : ∀ a0 a1, EncodeShape.Statement (.vand a0 a1) := by
  intro a0 a1; exact ⟨fun h => Bool.noConfusion h, fun _ => rfl⟩
theorem EncodeShape.vor : ∀ a0 a1, EncodeShape.Statement (.vor a0 a1) := by
  intro a0 a1; exact ⟨fun h => Bool.noConfusion h, fun _ => rfl⟩
theorem EncodeShape.vxor : ∀ a0 a1, EncodeShape.Statement (.vxor a0 a1) := by
  intro a0 a1; exact ⟨fun h => Bool.noConfusion h, fun _ => rfl⟩
theorem EncodeShape.vshl : ∀ a0 a1 a2, EncodeShape.Statement (.vshl a0 a1 a2) := by
  intro a0 a1 a2; exact ⟨fun h => Bool.noConfusion h, fun _ => rfl⟩
theorem EncodeShape.vshr : ∀ a0 a1 a2 a3, EncodeShape.Statement (.vshr a0 a1 a2 a3) := by
  intro a0 a1 a2 a3; exact ⟨fun h => Bool.noConfusion h, fun _ => rfl⟩
theorem EncodeShape.vpopc : ∀ a0 a1, EncodeShape.Statement (.vpopc a0 a1) := by
  intro a0 a1; exact ⟨fun h => Bool.noConfusion h, fun _ => rfl⟩
theorem EncodeShape.viota : ∀ a0 a1 a2, EncodeShape.Statement (.viota a0 a1 a2) := by
  intro a0 a1 a2; exact ⟨fun h => Bool.noConfusion h, fun _ => rfl⟩
theorem EncodeShape.visect : ∀ a0 a1, EncodeShape.Statement (.visect a0 a1) := by
  intro a0 a1; exact ⟨fun h => Bool.noConfusion h, fun _ => rfl⟩
theorem EncodeShape.vpfx : ∀ a0 a1 a2, EncodeShape.Statement (.vpfx a0 a1 a2) := by
  intro a0 a1 a2; exact ⟨fun h => Bool.noConfusion h, fun _ => rfl⟩
theorem EncodeShape.vgat : ∀ a0 a1 a2, EncodeShape.Statement (.vgat a0 a1 a2) := by
  intro a0 a1 a2; exact ⟨fun h => Bool.noConfusion h, fun _ => rfl⟩
theorem EncodeShape.vsct : ∀ a0 a1, EncodeShape.Statement (.vsct a0 a1) := by
  intro a0 a1; exact ⟨fun h => Bool.noConfusion h, fun _ => rfl⟩
theorem EncodeShape.vdot8 : ∀ a0 a1, EncodeShape.Statement (.vdot8 a0 a1) := by
  intro a0 a1; exact ⟨fun h => Bool.noConfusion h, fun _ => rfl⟩
theorem EncodeShape.red : ∀ a0, EncodeShape.Statement (.red a0) := by
  intro a0; exact ⟨fun h => Bool.noConfusion h, fun _ => rfl⟩
theorem EncodeShape.rdinit : ∀ a0, EncodeShape.Statement (.rdinit a0) := by
  intro a0; exact ⟨fun h => Bool.noConfusion h, fun _ => rfl⟩
theorem EncodeShape.rdinitFree : ∀ a0, EncodeShape.Statement (.rdinitFree a0) := by
  intro a0; exact ⟨fun h => Bool.noConfusion h, fun _ => rfl⟩
theorem EncodeShape.rdwait : ∀ a0, EncodeShape.Statement (.rdwait a0) := by
  intro a0; exact ⟨fun h => Bool.noConfusion h, fun _ => rfl⟩
theorem EncodeShape.rdwaitF : ∀ a0, EncodeShape.Statement (.rdwaitF a0) := by
  intro a0; exact ⟨fun h => Bool.noConfusion h, fun _ => rfl⟩
theorem EncodeShape.xsend : ∀ a0 a1 a2, EncodeShape.Statement (.xsend a0 a1 a2) := by
  intro a0 a1 a2; exact ⟨fun h => Bool.noConfusion h, fun _ => rfl⟩
theorem EncodeShape.xrecv : ∀ a0 a1 a2, EncodeShape.Statement (.xrecv a0 a1 a2) := by
  intro a0 a1 a2; exact ⟨fun h => Bool.noConfusion h, fun _ => rfl⟩
theorem EncodeShape.svc : ∀ a0 a1, EncodeShape.Statement (.svc a0 a1) := by
  intro a0 a1; exact ⟨fun h => Bool.noConfusion h, fun _ => rfl⟩
theorem EncodeShape.trap : ∀ a0 a1, EncodeShape.Statement (.trap a0 a1) := by
  intro a0 a1; exact ⟨fun h => Bool.noConfusion h, fun _ => rfl⟩
theorem EncodeShape.bkpt : ∀ a0 a1, EncodeShape.Statement (.bkpt a0 a1) := by
  intro a0 a1; exact ⟨fun h => Bool.noConfusion h, fun _ => rfl⟩
theorem EncodeShape.eret : ∀ a0, EncodeShape.Statement (.eret a0) := by
  intro a0; exact ⟨fun h => Bool.noConfusion h, fun _ => rfl⟩
theorem EncodeShape.eretEnd : ∀ a0, EncodeShape.Statement (.eretEnd a0) := by
  intro a0; exact ⟨fun h => Bool.noConfusion h, fun _ => rfl⟩
theorem EncodeShape.eretRedir : ∀ a0, EncodeShape.Statement (.eretRedir a0) := by
  intro a0; exact ⟨fun h => Bool.noConfusion h, fun _ => rfl⟩
theorem EncodeShape.csrr : ∀ a0 a1, EncodeShape.Statement (.csrr a0 a1) := by
  intro a0 a1; exact ⟨fun h => Bool.noConfusion h, fun _ => rfl⟩
theorem EncodeShape.csrw : ∀ a0 a1, EncodeShape.Statement (.csrw a0 a1) := by
  intro a0 a1; exact ⟨fun h => Bool.noConfusion h, fun _ => rfl⟩
theorem EncodeShape.mark : ∀ a0 a1, EncodeShape.Statement (.mark a0 a1) := by
  intro a0 a1; exact ⟨fun h => Bool.noConfusion h, fun _ => rfl⟩
theorem EncodeShape.markV : ∀ a0 a1, EncodeShape.Statement (.markV a0 a1) := by
  intro a0 a1; exact ⟨fun h => Bool.noConfusion h, fun _ => rfl⟩
theorem EncodeShape.fltrd : ∀ a0, EncodeShape.Statement (.fltrd a0) := by
  intro a0; exact ⟨fun h => Bool.noConfusion h, fun _ => rfl⟩
theorem EncodeShape.hint : ∀ a0, EncodeShape.Statement (.hint a0) := by
  intro a0; exact ⟨fun h => Bool.noConfusion h, fun _ => rfl⟩
theorem EncodeShape.frameServe : ∀ a0, EncodeShape.Statement (.frameServe a0) := by
  intro a0; exact ⟨fun _ => rfl, fun _ => rfl⟩
theorem EncodeShape.blockFetch : ∀ a0 a1, EncodeShape.Statement (.blockFetch a0 a1) := by
  intro a0 a1; exact ⟨fun _ => rfl, fun _ => rfl⟩
theorem EncodeShape.blockMap : ∀ a0, EncodeShape.Statement (.blockMap a0) := by
  intro a0; exact ⟨fun _ => rfl, fun _ => rfl⟩
theorem EncodeShape.speculativeMap : ∀ a0 a1, EncodeShape.Statement (.speculativeMap a0 a1) := by
  intro a0 a1; exact ⟨fun _ => rfl, fun _ => rfl⟩
theorem EncodeShape.operandTokenArrival : ∀ a0 a1, EncodeShape.Statement (.operandTokenArrival a0 a1) := by
  intro a0 a1; exact ⟨fun _ => rfl, fun _ => rfl⟩
theorem EncodeShape.blockCommit : ∀ a0, EncodeShape.Statement (.blockCommit a0) := by
  intro a0; exact ⟨fun _ => rfl, fun _ => rfl⟩
theorem EncodeShape.handlerFrameCreate : ∀ a0, EncodeShape.Statement (.handlerFrameCreate a0) := by
  intro a0; exact ⟨fun _ => rfl, fun _ => rfl⟩
theorem EncodeShape.atomicAdmit : ∀ a0, EncodeShape.Statement (.atomicAdmit a0) := by
  intro a0; exact ⟨fun _ => rfl, fun _ => rfl⟩
theorem EncodeShape.memReadResponse : ∀ a0 a1, EncodeShape.Statement (.memReadResponse a0 a1) := by
  intro a0 a1; exact ⟨fun _ => rfl, fun _ => rfl⟩
theorem EncodeShape.pageWalkDone : ∀ a0, EncodeShape.Statement (.pageWalkDone a0) := by
  intro a0; exact ⟨fun _ => rfl, fun _ => rfl⟩
theorem EncodeShape.storePerform : ∀ a0 a1, EncodeShape.Statement (.storePerform a0 a1) := by
  intro a0 a1; exact ⟨fun _ => rfl, fun _ => rfl⟩
theorem EncodeShape.hurdleUpdatePerform : ∀ a0 a1, EncodeShape.Statement (.hurdleUpdatePerform a0 a1) := by
  intro a0 a1; exact ⟨fun _ => rfl, fun _ => rfl⟩
theorem EncodeShape.mcastDelivery : ∀ a0, EncodeShape.Statement (.mcastDelivery a0) := by
  intro a0; exact ⟨fun _ => rfl, fun _ => rfl⟩
theorem EncodeShape.futureCellFset : ∀ a0, EncodeShape.Statement (.futureCellFset a0) := by
  intro a0; exact ⟨fun _ => rfl, fun _ => rfl⟩
theorem EncodeShape.futureReachChange : ∀ a0, EncodeShape.Statement (.futureReachChange a0) := by
  intro a0; exact ⟨fun _ => rfl, fun _ => rfl⟩
theorem EncodeShape.producerEnd : ∀ a0, EncodeShape.Statement (.producerEnd a0) := by
  intro a0; exact ⟨fun _ => rfl, fun _ => rfl⟩
theorem EncodeShape.continuationUnlink : ∀ a0, EncodeShape.Statement (.continuationUnlink a0) := by
  intro a0; exact ⟨fun _ => rfl, fun _ => rfl⟩
theorem EncodeShape.tokenArrival : ∀ a0, EncodeShape.Statement (.tokenArrival a0) := by
  intro a0; exact ⟨fun _ => rfl, fun _ => rfl⟩
theorem EncodeShape.levelCounterUpdate : ∀ a0, EncodeShape.Statement (.levelCounterUpdate a0) := by
  intro a0; exact ⟨fun _ => rfl, fun _ => rfl⟩
theorem EncodeShape.reclaimRequest : ∀ a0, EncodeShape.Statement (.reclaimRequest a0) := by
  intro a0; exact ⟨fun _ => rfl, fun _ => rfl⟩
theorem EncodeShape.heatCellsFree : ∀ a0 a1, EncodeShape.Statement (.heatCellsFree a0 a1) := by
  intro a0 a1; exact ⟨fun _ => rfl, fun _ => rfl⟩
theorem EncodeShape.callroomOverflowEntry : ∀ a0, EncodeShape.Statement (.callroomOverflowEntry a0) := by
  intro a0; exact ⟨fun _ => rfl, fun _ => rfl⟩
theorem EncodeShape.paMessageStart : ∀ a0, EncodeShape.Statement (.paMessageStart a0) := by
  intro a0; exact ⟨fun _ => rfl, fun _ => rfl⟩
theorem EncodeShape.paChunkEnd : ∀ a0 a1, EncodeShape.Statement (.paChunkEnd a0 a1) := by
  intro a0 a1; exact ⟨fun _ => rfl, fun _ => rfl⟩
theorem EncodeShape.paMessageComplete : ∀ a0, EncodeShape.Statement (.paMessageComplete a0) := by
  intro a0; exact ⟨fun _ => rfl, fun _ => rfl⟩
theorem EncodeShape.vecMessageStart : ∀ a0, EncodeShape.Statement (.vecMessageStart a0) := by
  intro a0; exact ⟨fun _ => rfl, fun _ => rfl⟩
theorem EncodeShape.vecRowEnd : ∀ a0 a1, EncodeShape.Statement (.vecRowEnd a0 a1) := by
  intro a0 a1; exact ⟨fun _ => rfl, fun _ => rfl⟩
theorem EncodeShape.vecMessageComplete : ∀ a0, EncodeShape.Statement (.vecMessageComplete a0) := by
  intro a0; exact ⟨fun _ => rfl, fun _ => rfl⟩
theorem EncodeShape.speMessageIssue : ∀ a0, EncodeShape.Statement (.speMessageIssue a0) := by
  intro a0; exact ⟨fun _ => rfl, fun _ => rfl⟩
theorem EncodeShape.speMessageComplete : ∀ a0 a1, EncodeShape.Statement (.speMessageComplete a0 a1) := by
  intro a0 a1; exact ⟨fun _ => rfl, fun _ => rfl⟩
theorem EncodeShape.tileTableOpApply : ∀ a0 a1, EncodeShape.Statement (.tileTableOpApply a0 a1) := by
  intro a0 a1; exact ⟨fun _ => rfl, fun _ => rfl⟩
theorem EncodeShape.porterJobAccept : ∀ a0, EncodeShape.Statement (.porterJobAccept a0) := by
  intro a0; exact ⟨fun _ => rfl, fun _ => rfl⟩
theorem EncodeShape.porterJobStart : ∀ a0, EncodeShape.Statement (.porterJobStart a0) := by
  intro a0; exact ⟨fun _ => rfl, fun _ => rfl⟩
theorem EncodeShape.porterRoundStart : ∀ a0 a1, EncodeShape.Statement (.porterRoundStart a0 a1) := by
  intro a0 a1; exact ⟨fun _ => rfl, fun _ => rfl⟩
theorem EncodeShape.porterRoundComplete : ∀ a0 a1 a2, EncodeShape.Statement (.porterRoundComplete a0 a1 a2) := by
  intro a0 a1 a2; exact ⟨fun _ => rfl, fun _ => rfl⟩
theorem EncodeShape.porterJobComplete : ∀ a0 a1, EncodeShape.Statement (.porterJobComplete a0 a1) := by
  intro a0 a1; exact ⟨fun _ => rfl, fun _ => rfl⟩
theorem EncodeShape.tilePageRefill : ∀ a0 a1 a2, EncodeShape.Statement (.tilePageRefill a0 a1 a2) := by
  intro a0 a1 a2; exact ⟨fun _ => rfl, fun _ => rfl⟩
theorem EncodeShape.xmsgArrive : ∀ a0, EncodeShape.Statement (.xmsgArrive a0) := by
  intro a0; exact ⟨fun _ => rfl, fun _ => rfl⟩
theorem EncodeShape.redContributionArrive : ∀ a0, EncodeShape.Statement (.redContributionArrive a0) := by
  intro a0; exact ⟨fun _ => rfl, fun _ => rfl⟩
theorem EncodeShape.redPartForwardArrive : ∀ a0, EncodeShape.Statement (.redPartForwardArrive a0) := by
  intro a0; exact ⟨fun _ => rfl, fun _ => rfl⟩
theorem EncodeShape.redResultArrive : ∀ a0, EncodeShape.Statement (.redResultArrive a0) := by
  intro a0; exact ⟨fun _ => rfl, fun _ => rfl⟩
theorem EncodeShape.stuckDetection : ∀ a0, EncodeShape.Statement (.stuckDetection a0) := by
  intro a0; exact ⟨fun _ => rfl, fun _ => rfl⟩
theorem EncodeShape.ingressSlotWrite : ∀ a0 a1 a2 a3 a4, EncodeShape.Statement (.ingressSlotWrite a0 a1 a2 a3 a4) := by
  intro a0 a1 a2 a3 a4; exact ⟨fun _ => rfl, fun _ => rfl⟩
theorem EncodeShape.launchPacket : ∀ a0, EncodeShape.Statement (.launchPacket a0) := by
  intro a0; exact ⟨fun _ => rfl, fun _ => rfl⟩
theorem EncodeShape.tokenPacket : ∀ a0, EncodeShape.Statement (.tokenPacket a0) := by
  intro a0; exact ⟨fun _ => rfl, fun _ => rfl⟩
theorem EncodeShape.cancelPacket : ∀ a0, EncodeShape.Statement (.cancelPacket a0) := by
  intro a0; exact ⟨fun _ => rfl, fun _ => rfl⟩
theorem EncodeShape.startPacket : ∀ a0, EncodeShape.Statement (.startPacket a0) := by
  intro a0; exact ⟨fun _ => rfl, fun _ => rfl⟩
theorem EncodeShape.stopPacket : ∀ a0, EncodeShape.Statement (.stopPacket a0) := by
  intro a0; exact ⟨fun _ => rfl, fun _ => rfl⟩
theorem EncodeShape.imageLoad : ∀ a0 a1 a2, EncodeShape.Statement (.imageLoad a0 a1 a2) := by
  intro a0 a1 a2; exact ⟨fun _ => rfl, fun _ => rfl⟩
theorem EncodeShape.instanceSourceRelease : ∀ a0 a1, EncodeShape.Statement (.instanceSourceRelease a0 a1) := by
  intro a0 a1; exact ⟨fun _ => rfl, fun _ => rfl⟩
theorem EncodeShape.completionEntryPost : ∀ a0, EncodeShape.Statement (.completionEntryPost a0) := by
  intro a0; exact ⟨fun _ => rfl, fun _ => rfl⟩
theorem EncodeShape.cqHeadWrite : ∀ a0 a1, EncodeShape.Statement (.cqHeadWrite a0 a1) := by
  intro a0 a1; exact ⟨fun _ => rfl, fun _ => rfl⟩
theorem EncodeShape.ctxCreate : ∀ a0, EncodeShape.Statement (.ctxCreate a0) := by
  intro a0; exact ⟨fun _ => rfl, fun _ => rfl⟩
theorem EncodeShape.ctxRun : ∀ a0, EncodeShape.Statement (.ctxRun a0) := by
  intro a0; exact ⟨fun _ => rfl, fun _ => rfl⟩
theorem EncodeShape.ctxDestroy : ∀ a0, EncodeShape.Statement (.ctxDestroy a0) := by
  intro a0; exact ⟨fun _ => rfl, fun _ => rfl⟩
theorem EncodeShape.ctxChange : ∀ a0 a1, EncodeShape.Statement (.ctxChange a0 a1) := by
  intro a0 a1; exact ⟨fun _ => rfl, fun _ => rfl⟩
theorem EncodeShape.repitch : ∀ a0 a1, EncodeShape.Statement (.repitch a0 a1) := by
  intro a0 a1; exact ⟨fun _ => rfl, fun _ => rfl⟩
theorem EncodeShape.classSet : ∀ a0 a1 a2 a3 a4, EncodeShape.Statement (.classSet a0 a1 a2 a3 a4) := by
  intro a0 a1 a2 a3 a4; exact ⟨fun _ => rfl, fun _ => rfl⟩
theorem EncodeShape.classGet : ∀ a0 a1 a2, EncodeShape.Statement (.classGet a0 a1 a2) := by
  intro a0 a1 a2; exact ⟨fun _ => rfl, fun _ => rfl⟩
theorem EncodeShape.admissionWindow : ∀ a0 a1, EncodeShape.Statement (.admissionWindow a0 a1) := by
  intro a0 a1; exact ⟨fun _ => rfl, fun _ => rfl⟩
theorem EncodeShape.tlbInval : ∀ a0 a1 a2, EncodeShape.Statement (.tlbInval a0 a1 a2) := by
  intro a0 a1 a2; exact ⟨fun _ => rfl, fun _ => rfl⟩
theorem EncodeShape.drainTokenArrive : ∀ a0, EncodeShape.Statement (.drainTokenArrive a0) := by
  intro a0; exact ⟨fun _ => rfl, fun _ => rfl⟩
theorem EncodeShape.blockInval : ∀ a0, EncodeShape.Statement (.blockInval a0) := by
  intro a0; exact ⟨fun _ => rfl, fun _ => rfl⟩
theorem EncodeShape.pairDelegate : ∀ a0 a1 a2 a3 a4, EncodeShape.Statement (.pairDelegate a0 a1 a2 a3 a4) := by
  intro a0 a1 a2 a3 a4; exact ⟨fun _ => rfl, fun _ => rfl⟩
theorem EncodeShape.pairRelease : ∀ a0 a1, EncodeShape.Statement (.pairRelease a0 a1) := by
  intro a0 a1; exact ⟨fun _ => rfl, fun _ => rfl⟩
theorem EncodeShape.wprWrite : ∀ a0, EncodeShape.Statement (.wprWrite a0) := by
  intro a0; exact ⟨fun _ => rfl, fun _ => rfl⟩
theorem EncodeShape.wprPhase1End : ∀ a0 a1, EncodeShape.Statement (.wprPhase1End a0 a1) := by
  intro a0 a1; exact ⟨fun _ => rfl, fun _ => rfl⟩
theorem EncodeShape.wprChangeEnd : ∀ a0 a1, EncodeShape.Statement (.wprChangeEnd a0 a1) := by
  intro a0 a1; exact ⟨fun _ => rfl, fun _ => rfl⟩
theorem EncodeShape.registerWrite : ∀ a0, EncodeShape.Statement (.registerWrite a0) := by
  intro a0; exact ⟨fun _ => rfl, fun _ => rfl⟩
theorem EncodeShape.migrThreshSet : ∀ a0, EncodeShape.Statement (.migrThreshSet a0) := by
  intro a0; exact ⟨fun _ => rfl, fun _ => rfl⟩
theorem EncodeShape.migrClear : ∀ a0, EncodeShape.Statement (.migrClear a0) := by
  intro a0; exact ⟨fun _ => rfl, fun _ => rfl⟩
theorem EncodeShape.attest : ∀ a0 a1, EncodeShape.Statement (.attest a0 a1) := by
  intro a0 a1; exact ⟨fun _ => rfl, fun _ => rfl⟩
theorem EncodeShape.dbgBp : ∀ a0 a1 a2 a3, EncodeShape.Statement (.dbgBp a0 a1 a2 a3) := by
  intro a0 a1 a2 a3; exact ⟨fun _ => rfl, fun _ => rfl⟩
theorem EncodeShape.dbgWp : ∀ a0 a1 a2 a3, EncodeShape.Statement (.dbgWp a0 a1 a2 a3) := by
  intro a0 a1 a2 a3; exact ⟨fun _ => rfl, fun _ => rfl⟩
theorem EncodeShape.dbgHalt : ∀ a0 a1 a2, EncodeShape.Statement (.dbgHalt a0 a1 a2) := by
  intro a0 a1 a2; exact ⟨fun _ => rfl, fun _ => rfl⟩
theorem EncodeShape.dbgResume : ∀ a0 a1 a2 a3 a4, EncodeShape.Statement (.dbgResume a0 a1 a2 a3 a4) := by
  intro a0 a1 a2 a3 a4; exact ⟨fun _ => rfl, fun _ => rfl⟩
theorem EncodeShape.dbgRead : ∀ a0 a1 a2, EncodeShape.Statement (.dbgRead a0 a1 a2) := by
  intro a0 a1 a2; exact ⟨fun _ => rfl, fun _ => rfl⟩
theorem EncodeShape.dbgWrite : ∀ a0 a1 a2 a3 a4, EncodeShape.Statement (.dbgWrite a0 a1 a2 a3 a4) := by
  intro a0 a1 a2 a3 a4; exact ⟨fun _ => rfl, fun _ => rfl⟩
theorem EncodeShape.traceSet : ∀ a0 a1 a2 a3, EncodeShape.Statement (.traceSet a0 a1 a2 a3) := by
  intro a0 a1 a2 a3; exact ⟨fun _ => rfl, fun _ => rfl⟩
theorem EncodeShape.traceRoomReturn : ∀ a0, EncodeShape.Statement (.traceRoomReturn a0) := by
  intro a0; exact ⟨fun _ => rfl, fun _ => rfl⟩
theorem EncodeShape.critPathWalkStep : ∀ a0, EncodeShape.Statement (.critPathWalkStep a0) := by
  intro a0; exact ⟨fun _ => rfl, fun _ => rfl⟩
theorem EncodeShape.cntRead : ∀ a0 a1 a2 a3, EncodeShape.Statement (.cntRead a0 a1 a2 a3) := by
  intro a0 a1 a2 a3; exact ⟨fun _ => rfl, fun _ => rfl⟩
theorem EncodeShape.pacerOpen : ∀ a0 a1, EncodeShape.Statement (.pacerOpen a0 a1) := by
  intro a0 a1; exact ⟨fun _ => rfl, fun _ => rfl⟩
theorem EncodeShape.pacerClose : ∀ a0 a1, EncodeShape.Statement (.pacerClose a0 a1) := by
  intro a0 a1; exact ⟨fun _ => rfl, fun _ => rfl⟩
theorem EncodeShape.pacerQuery : ∀ a0 a1, EncodeShape.Statement (.pacerQuery a0 a1) := by
  intro a0 a1; exact ⟨fun _ => rfl, fun _ => rfl⟩
theorem EncodeShape.slotTableUpdate : ∀ a0, EncodeShape.Statement (.slotTableUpdate a0) := by
  intro a0; exact ⟨fun _ => rfl, fun _ => rfl⟩
theorem EncodeShape.preempt : ∀ a0, EncodeShape.Statement (.preempt a0) := by
  intro a0; exact ⟨fun _ => rfl, fun _ => rfl⟩
theorem EncodeShape.stallResume : ∀ a0, EncodeShape.Statement (.stallResume a0) := by
  intro a0; exact ⟨fun _ => rfl, fun _ => rfl⟩
theorem EncodeShape.hallStatus : EncodeShape.Statement .hallStatus := by
  exact ⟨fun _ => rfl, fun _ => rfl⟩
theorem EncodeShape.fuseRead : EncodeShape.Statement .fuseRead := by
  exact ⟨fun _ => rfl, fun _ => rfl⟩
theorem EncodeShape.hallReset : ∀ a0 a1, EncodeShape.Statement (.hallReset a0 a1) := by
  intro a0 a1; exact ⟨fun _ => rfl, fun _ => rfl⟩
theorem EncodeShape.lostClear : ∀ a0 a1, EncodeShape.Statement (.lostClear a0 a1) := by
  intro a0 a1; exact ⟨fun _ => rfl, fun _ => rfl⟩
theorem EncodeShape.bridgeFlitBadCheck : ∀ a0 a1, EncodeShape.Statement (.bridgeFlitBadCheck a0 a1) := by
  intro a0 a1; exact ⟨fun _ => rfl, fun _ => rfl⟩
theorem EncodeShape.replayEntryLost : ∀ a0 a1 a2, EncodeShape.Statement (.replayEntryLost a0 a1 a2) := by
  intro a0 a1 a2; exact ⟨fun _ => rfl, fun _ => rfl⟩
theorem EncodeShape.uePacketTrimmed : ∀ a0, EncodeShape.Statement (.uePacketTrimmed a0) := by
  intro a0; exact ⟨fun _ => rfl, fun _ => rfl⟩
theorem EncodeShape.tdispRequest : ∀ a0 a1, EncodeShape.Statement (.tdispRequest a0 a1) := by
  intro a0 a1; exact ⟨fun _ => rfl, fun _ => rfl⟩
theorem EncodeShape.powerGood : EncodeShape.Statement .powerGood := by
  exact ⟨fun _ => rfl, fun _ => rfl⟩
theorem EncodeShape.stageB : ∀ a0 a1, EncodeShape.Statement (.stageB a0 a1) := by
  intro a0 a1; exact ⟨fun _ => rfl, fun _ => rfl⟩
theorem EncodeShape.stageC : ∀ a0 a1, EncodeShape.Statement (.stageC a0 a1) := by
  intro a0 a1; exact ⟨fun _ => rfl, fun _ => rfl⟩
theorem EncodeShape.powerEnvelopeExceeded : ∀ a0 a1, EncodeShape.Statement (.powerEnvelopeExceeded a0 a1) := by
  intro a0 a1; exact ⟨fun _ => rfl, fun _ => rfl⟩
theorem EncodeShape.junctionLimit : ∀ a0 a1 a2, EncodeShape.Statement (.junctionLimit a0 a1 a2) := by
  intro a0 a1 a2; exact ⟨fun _ => rfl, fun _ => rfl⟩
theorem EncodeShape.reservedTypePacket : ∀ a0, EncodeShape.Statement (.reservedTypePacket a0) := by
  intro a0; exact ⟨fun _ => rfl, fun _ => rfl⟩
theorem EncodeShape.transportParameterSet : ∀ a0, EncodeShape.Statement (.transportParameterSet a0) := by
  intro a0; exact ⟨fun _ => rfl, fun _ => rfl⟩
theorem EncodeShape.linkLevelRetry : ∀ a0 a1 a2, EncodeShape.Statement (.linkLevelRetry a0 a1 a2) := by
  intro a0 a1 a2; exact ⟨fun _ => rfl, fun _ => rfl⟩
theorem EncodeShape.mailboxMemoryAccess : ∀ a0 a1 a2 a3, EncodeShape.Statement (.mailboxMemoryAccess a0 a1 a2 a3) := by
  intro a0 a1 a2 a3; exact ⟨fun _ => rfl, fun _ => rfl⟩
theorem EncodeShape.pageMap : ∀ a0 a1 a2 a3 a4 a5 a6, EncodeShape.Statement (.pageMap a0 a1 a2 a3 a4 a5 a6) := by
  intro a0 a1 a2 a3 a4 a5 a6; exact ⟨fun _ => rfl, fun _ => rfl⟩
theorem EncodeShape.ingressGrantSet : ∀ a0 a1 a2, EncodeShape.Statement (.ingressGrantSet a0 a1 a2) := by
  intro a0 a1 a2; exact ⟨fun _ => rfl, fun _ => rfl⟩

end Sys2Proof.Laws
end

