-- ==== Sys2Proof/Laws/Sync.lean ====
section
/-! SUPPORT. Words on sync pages: their checks, what they deliver and where they wait, and the 16-byte words at their homes. -/
namespace Sys2Proof.Machine

/-! Numbers in memory -/

theorem readLE_lt (g : Nat → Byte) (a n : Nat) : readLE g a n < 2 ^ (8 * n) := by
  induction n generalizing a with
  | zero => simp [readLE]
  | succ n ih =>
    have := ih (a + 1)
    have h := (g a).isLt
    have e : 2 ^ (8 * (n + 1)) = 256 * 2 ^ (8 * n) := by rw [Nat.mul_add, Nat.pow_add]; omega
    simp only [readLE]; rw [e]; omega

theorem readLE_congr {g h : Nat → Byte} {a n : Nat} (e : ∀ i, i < n → g (a + i) = h (a + i)) : readLE g a n = readLE h a n := by
  induction n generalizing a with
  | zero => rfl
  | succ n ih =>
    simp only [readLE]
    rw [show g a = h a from e 0 (by omega), ih fun i hi => by have := e (i + 1) (by omega); rwa [show a + 1 + i = a + (i + 1) by omega]]

theorem bytesLE_length (v n : Nat) : (bytesLE v n).length = n := by
  induction n generalizing v with
  | zero => rfl
  | succ n ih => simp [bytesLE, ih]

theorem readLE_list (l : List Byte) (a : Nat) : readLE (fun x => l.getD (x - a) 0) a l.length = ofBytes l := by
  induction l generalizing a with
  | nil => rfl
  | cons b l ih =>
    simp only [List.length_cons, readLE, ofBytes, Nat.sub_self, List.getD_cons_zero]
    rw [← ih (a + 1)]
    congr 2
    apply readLE_congr
    intro i _
    rw [show a + 1 + i - a = i + 1 by omega, show a + 1 + i - (a + 1) = i by omega]; rfl

theorem ofBytes_bytesLE (v n : Nat) : ofBytes (bytesLE v n) = v % 2 ^ (8 * n) := by
  induction n generalizing v with
  | zero => simp [bytesLE, ofBytes, Nat.mod_one]
  | succ n ih =>
    simp only [bytesLE, ofBytes, ih, BitVec.toNat_ofNat]
    rw [Nat.mul_add, Nat.pow_add, Nat.mul_comm (2 ^ (8 * n)), show 2 ^ (8 * 1) = 2 ^ 8 from rfl, Nat.mod_mul]
    all_goals rfl

/-- A number written is the number read. -/
theorem readLE_putBytes {m : List Host.Cell} (h : Memory.wf m = true) (a n v : Nat) :
    readLE (spGet 0 (putBytes m a (bytesLE v n))) a n = v % 2 ^ (8 * n) := by
  have e : readLE (spGet 0 (putBytes m a (bytesLE v n))) a n = readLE (fun x => (bytesLE v n).getD (x - a) 0) a n := by
    apply readLE_congr
    intro i hi
    rw [spGet_putBytes _ _ _ _ h, if_pos ⟨by omega, by rw [bytesLE_length]; omega⟩]
  rw [e]
  have := readLE_list (bytesLE v n) a
  rw [bytesLE_length] at this
  rw [this, ofBytes_bytesLE]

/-- A word written at 16 bytes. -/
theorem wordBecomes_wrLE {s : State} (h : s.ok = true) (pa w : Nat) : WordBecomes s (s.wrLE pa 16 w) pa w := by
  have hm := ((ok_iff s).1 h).1
  refine ⟨?_, fun p hp => ?_⟩
  · exact readLE_putBytes hm pa 16 w
  · show spGet 0 (putBytes s.mem pa (bytesLE w 16)) p = spGet 0 s.mem p
    rw [spGet_putBytes _ _ _ _ hm, if_neg]
    rw [bytesLE_length]; omega

theorem rdLE_of_mem {s t : State} (h : t.mem = s.mem) (pa n : Nat) : t.rdLE pa n = s.rdLE pa n := by
  unfold State.rdLE State.rd8; rw [h]

/-! Checks -/

theorem syncChecked_ok {s : State} {c : Cx} {r w : Bool} {ea : W64} {heat : Nat} {a : Acc} (h : SyncPasses s c r w ea heat a)
    (k : Acc → State) : s.syncChecked c r w ea heat k = k a := by
  simp only [State.syncChecked, h.1, bne_self_eq_false, Bool.false_eq_true, if_false, State.checked, needSync, h.2]

theorem syncPasses_noted {s : State} {c : Cx} {r w : Bool} {ea : W64} {heat : Nat} {a : Acc} (n : BitVec 5)
    (h : SyncPasses s c r w ea heat a) : SyncPasses (noted s c n) c r w ea heat a := ⟨h.1, by rw [checkAccess_noted]; exact h.2⟩

/-! Changes of one block beside counters -/

theorem counts_modBlock {s t : State} (h : OnlyCounts s t) (bid : Nat) (g : Block → Block) :
    OnlyCounts (s.modBlock bid g) (t.modBlock bid g) := by
  refine ⟨?_, h.stall, h.ctx⟩
  have := h.rest
  simp only [State.modBlock]
  rw [this]

theorem saw_noted {s : State} {c : Cx} (h : s.cx? = some c) (n : BitVec 5) (a : Acc) (rd wr mk : Bool) :
    OnlyBlock s ((noted s c n).sees c a rd wr mk) (saw c (some n) ⟨a, rd, wr, mk⟩) := by
  have hn := onlyBlock_noted h n
  have := onlyBlock_modBlock (s := noted s c n) (b := { c.b with lsids := c.b.lsids ++ [(n.toNat, c.slot)] }) hn.block
    (fun b => { b with seen := b.seen ++ [⟨a, rd, wr, mk⟩] }) (fun _ => rfl)
  exact ⟨this.block, fun i hi => (this.others i hi).trans (hn.others i hi), rfl⟩

theorem saw_plain {s : State} {c : Cx} (h : s.cx? = some c) (a : Acc) (rd wr mk : Bool) :
    OnlyBlock s (s.sees c a rd wr mk) (saw c none ⟨a, rd, wr, mk⟩) := by
  have := onlyBlock_modBlock (cx?_eq h).2.1 (fun b => { b with seen := b.seen ++ [⟨a, rd, wr, mk⟩] }) (fun _ => rfl)
  simpa [saw, State.sees] using this

theorem changes_mod {s x y : State} {b : Block} (h : OnlyBlock s x b) (hy : OnlyCounts x y) (g : Block → Block)
    (hg : ∀ z, (g z).bid = z.bid) : Changes s (y.modBlock b.bid g) (g b) := by
  have := onlyBlock_modBlock h.block g hg
  refine ⟨x.modBlock b.bid g, ⟨this.block, fun i hi => ?_, ?_⟩, counts_modBlock hy _ _⟩
  · rw [this.others i hi]; exact h.others i (by rwa [hg] at hi)
  · rw [show x.modBlock b.bid g = { x with blocks := (x.modBlock b.bid g).blocks } from rfl, h.rest]

/-- A word that has read at its home and delivers. -/
theorem readGives_deliverFrom {s x y : State} {c : Cx} {n : Option (BitVec 5)} {z : Seen} (hx : OnlyBlock s x (saw c n z))
    (hy : OnlyCounts x y) (h : Hd) (v : W64) (a : Arrival) : ReadGives s (y.deliverFrom c h v a) c n z h v := by
  refine ⟨a, ?_⟩
  unfold State.deliverFrom State.done State.sendToken
  rw [modBlock_count, modBlock_modBlock _ _ (fun b => b.markFired c.slot true) _ (fun _ => rfl)]
  obtain ⟨u, h1, h2⟩ := changes_mod hx hy ((fun b => { b with transit := b.transit ++ targetsOf c.slot h v a }) ∘ fun b => b.markFired c.slot true)
    (fun _ => rfl)
  exact ⟨u, h1, onlyCounts_trans h2 (onlyCounts_count _ _ _)⟩

/-! What a walk of the page tables reads -/

theorem sectorLost_congr {s t : State} (hh : t.halls = s.halls) (hp : t.pkg = s.pkg) (pa : Nat) : t.sectorLost pa = s.sectorLost pa := by
  simp only [State.sectorLost, State.homeOf, State.hallD, hh, hp]

/-- A walk reads memory, the state of the halls and the free choice of R393. -/
theorem walkFrom_congr {s t : State} (hm : t.mem = s.mem) (hh : t.halls = s.halls) (hp : t.pkg = s.pkg) (hd : t.draws = s.draws)
    (va : Nat) : ∀ n table, t.walkFrom va n table = s.walkFrom va n table
  | 0, _ => rfl
  | n + 1, table => by
    simp only [State.walkFrom, State.c64Leaf, rdLE_of_mem hm, sectorLost_congr hh hp, hd, walkFrom_congr hm hh hp hd va n]

theorem walkVa_congr {s t : State} (hm : t.mem = s.mem) (hh : t.halls = s.halls) (hp : t.pkg = s.pkg) (hd : t.draws = s.draws) (ctx va : Nat)
    (hc : (t.ctx? ctx).map (·.params.rtp) = (s.ctx? ctx).map (·.params.rtp)) : t.walkVa ctx va = s.walkVa ctx va := by
  unfold State.walkVa
  cases ht : t.ctx? ctx <;> cases hs : s.ctx? ctx <;> simp only [ht, hs, Option.map_none, Option.map_some, reduceCtorEq, Option.some.injEq] at hc ⊢
  rw [walkFrom_congr hm hh hp hd, hc]

/-- A context with other counters only. -/
theorem counts_ctx {s t : State} (h : OnlyCounts s t) (n : Nat) :
    (t.ctx? n).map (fun x => (x.num, x.params)) = (s.ctx? n).map fun x => (x.num, x.params) := by
  have := congrArg (Option.map fun x : Ctx => (x.num, x.params)) (h.ctx n)
  rw [Option.map_map, Option.map_map] at this
  exact this

theorem counts_walkVa {s t : State} (h : OnlyCounts s t) (ctx va : Nat) : t.walkVa ctx va = s.walkVa ctx va := by
  apply walkVa_congr (by rw [h.rest]) (by rw [h.rest]) (by rw [h.rest]) (by rw [h.rest])
  have := congrArg (Option.map fun x : Nat × CtxParams => x.2.rtp) (counts_ctx h ctx)
  rw [Option.map_map, Option.map_map] at this
  exact this

/-! Linking (R329) -/

theorem contWord_lt (s : State) (k : Cont) (next : Nat) : s.contWord k next < 2 ^ 128 := by
  unfold State.contWord
  cases k.dead <;> simp only [if_true, if_false, Bool.false_eq_true] <;> omega

/-- The new record's place. -/
def linkPlace (s : State) (c : Cx) : Nat := (s.ctx? c.f.ctx).elim 1 fun x => s.contPlace x c.f.stall c.b.bid c.slot

theorem linkPlace_range (s : State) (c : Cx) : 0 < linkPlace s c ∧ linkPlace s c < 2 ^ 52 := by
  unfold linkPlace
  cases s.ctx? c.f.ctx with
  | none => simp
  | some x => simp only [Option.elim, State.contPlace]; omega

/-- Memory once a record is linked: the record, where its page is there, and the word with its new head. -/
def linkMem (s : State) (c : Cx) (a : Acc) (hurdle : Bool) : List Host.Cell :=
  let k := s.newCont c a.va hurdle
  putBytes (match s.walkVa c.f.ctx (k.at_ * 16) with
    | .ok l => putBytes s.mem l.pa (bytesLE (s.contWord k (contHead (s.contList c.f.ctx a.va))) 16)
    | .error _ => s.mem) a.pa (bytesLE (headWord (s.rdLE a.pa 16) k.at_ hurdle) 16)

theorem link_eq (s : State) (c : Cx) (a : Acc) (hurdle : Bool) : s.link c a hurdle =
    ({ s with conts := s.newCont c a.va hurdle :: s.conts, mem := linkMem s c a hurdle } : State).modBlock c.b.bid fun b =>
        { b with waits := (c.slot, .cont a.va) :: b.waits.filter fun w => w.1 != c.slot } := by
  unfold State.link State.wrCont linkMem
  have e : ({ s with conts := s.newCont c a.va hurdle :: s.conts } : State).walkVa (s.newCont c a.va hurdle).ctx
      ((s.newCont c a.va hurdle).at_ * 16) = s.walkVa c.f.ctx ((s.newCont c a.va hurdle).at_ * 16) :=
    walkVa_congr rfl rfl rfl rfl _ _ rfl
  simp only [e]
  cases s.walkVa c.f.ctx ((s.newCont c a.va hurdle).at_ * 16) <;> rfl

theorem contPlace_congr {s t : State} {x y : Ctx} (hk : t.conts = s.conts) (hn : y.num = x.num) (hp : y.params = x.params)
    (st bid slot : Nat) : t.contPlace y st bid slot = s.contPlace x st bid slot := by
  have hl : y.shareLen = x.shareLen := by unfold Ctx.shareLen; rw [hp]
  have ho : y.ordinal st = x.ordinal st := by unfold Ctx.ordinal; rw [hp]
  have hv : ∀ k, y.shareVa k = x.shareVa k := fun k => by unfold Ctx.shareVa; rw [hp, hl]
  unfold State.contPlace
  rw [ho, hv, hl, hn, hk]

theorem newCont_counts {s t : State} (h : OnlyCounts s t) (c : Cx) (va : Nat) (hurdle : Bool) :
    t.newCont c va hurdle = s.newCont c va hurdle := by
  have hc := counts_ctx h c.f.ctx
  have hk : t.conts = s.conts := by rw [h.rest]
  unfold State.newCont
  cases ht : t.ctx? c.f.ctx <;> cases hs : s.ctx? c.f.ctx <;>
    simp only [ht, hs, Option.map_none, Option.map_some, reduceCtorEq, Option.some.injEq, Prod.mk.injEq] at hc
  · rfl
  · rw [Option.elim_some, Option.elim_some, contPlace_congr hk hc.1 hc.2]

theorem linkMem_congr {s t : State} {c : Cx} {a : Acc} {hurdle : Bool} (hn : t.newCont c a.va hurdle = s.newCont c a.va hurdle)
    (hw : ∀ ctx va, t.walkVa ctx va = s.walkVa ctx va) (hm : t.mem = s.mem) (hf : t.frames = s.frames) (hk : t.conts = s.conts) :
    linkMem t c a hurdle = linkMem s c a hurdle := by
  simp only [linkMem, hn, hw, rdLE_of_mem hm, hm, State.contWord, State.frame?, hf, State.contList, hk]

theorem linkMem_counts {s t : State} (h : OnlyCounts s t) (c : Cx) (a : Acc) (hurdle : Bool) : linkMem t c a hurdle = linkMem s c a hurdle :=
  linkMem_congr (newCont_counts h c a.va hurdle) (counts_walkVa h) (by rw [h.rest]) (by rw [h.rest]) (by rw [h.rest])

theorem counts_link {s t : State} (h : OnlyCounts s t) (c : Cx) (a : Acc) (hurdle : Bool) :
    OnlyCounts (s.link c a hurdle) (t.link c a hurdle) := by
  rw [link_eq, link_eq, newCont_counts h, linkMem_counts h]
  apply counts_modBlock
  generalize linkMem s c a hurdle = m
  generalize s.newCont c a.va hurdle = k
  refine ⟨?_, h.stall, h.ctx⟩
  rw [h.rest]

/-- A word that has read at its home and waits there. -/
theorem links_link {s x y : State} {c : Cx} {n : Option (BitVec 5)} {z : Seen} (hs : s.ok = true) (hx : OnlyBlock s x (saw c n z))
    (hy : OnlyCounts x y) (a : Acc) (hurdle : Bool) : Links s (y.link c a hurdle) c n z a hurdle := by
  have hwf := ((ok_iff s).1 hs).1
  have hl : s.rdLE a.pa 16 < 2 ^ 128 := readLE_lt s.rd8 a.pa 16
  have hh := linkPlace_range s c
  have hc : x.conts = s.conts := by rw [hx.rest]
  have hx2 : x.ctxs = s.ctxs := by rw [hx.rest]
  have hk : x.newCont c a.va hurdle = s.newCont c a.va hurdle := by simp only [State.newCont, State.ctx?, State.contPlace, hc, hx2]
  have ha : (s.newCont c a.va hurdle).at_ = linkPlace s c := rfl
  have hw : Memory.wf (match s.walkVa c.f.ctx (linkPlace s c * 16) with
      | .ok l => putBytes s.mem l.pa (bytesLE (s.contWord (s.newCont c a.va hurdle) (contHead (s.contList c.f.ctx a.va))) 16)
      | .error _ => s.mem) = true := by
    split
    · exact putBytes_ok _ _ _ hwf
    · exact hwf
  refine ⟨linkMem s c a hurdle, linkPlace s c, ?_, hh.1, hh.2, ?_, fun l e hp => ?_, fun p hp hq => ?_⟩
  · have hm : linkMem x c a hurdle = linkMem s c a hurdle := by
      exact linkMem_congr hk (fun n va => walkVa_congr (by rw [hx.rest]) (by rw [hx.rest]) (by rw [hx.rest]) (by rw [hx.rest]) n va
        (by simp only [State.ctx?, hx2])) (by rw [hx.rest]) (by rw [hx.rest]) hc
    have := counts_link hy c a hurdle
    rw [link_eq x, hk, hm, hc] at this
    show Changes { s with conts := s.newCont c a.va hurdle :: s.conts, mem := linkMem s c a hurdle } _ _
    generalize linkMem s c a hurdle = m at this ⊢
    generalize s.newCont c a.va hurdle :: s.conts = l at this ⊢
    have hx' : OnlyBlock { s with conts := l, mem := m } { x with conts := l, mem := m } (saw c n z) :=
      ⟨hx.block, hx.others, by rw [hx.rest]⟩
    obtain ⟨u, h1, h2⟩ := changes_mod hx' (onlyCounts_refl _)
      (fun b => { b with waits := (c.slot, .cont a.va) :: b.waits.filter fun w => w.1 != c.slot }) (fun _ => rfl)
    exact ⟨u, h1, onlyCounts_trans h2 this⟩
  · unfold linkMem
    rw [readLE_putBytes (by rw [ha]; exact hw), ha]
    unfold headWord
    apply Nat.mod_eq_of_lt
    cases hurdle <;> simp only [if_true, if_false, Bool.false_eq_true] <;> omega
  · unfold linkMem
    simp only [ha, e] at hw ⊢
    have h1 : s.contWord (s.newCont c a.va hurdle) (contHead (s.contList c.f.ctx a.va)) < 2 ^ 128 := contWord_lt _ _ _
    rw [readLE_congr (h := spGet 0 (putBytes s.mem l.pa (bytesLE (s.contWord (s.newCont c a.va hurdle) (contHead (s.contList c.f.ctx a.va))) 16)))
      fun i hi => by rw [spGet_putBytes _ _ _ _ hw, if_neg]; rw [bytesLE_length]; omega]
    rw [readLE_putBytes hwf, Nat.mod_eq_of_lt h1]
    rfl
  · unfold linkMem
    rw [spGet_putBytes _ _ _ _ (by rw [ha]; exact hw), if_neg (by rw [bytesLE_length]; omega), ha]
    cases e : s.walkVa c.f.ctx (linkPlace s c * 16) with
    | error _ => rfl
    | ok l =>
      have := hq l e
      simp only []
      rw [spGet_putBytes _ _ _ _ hwf, if_neg (by rw [bytesLE_length]; omega)]
      rfl

/-! Recording with a delivery, and taking from a pool -/

/-- A word that takes from a pool: its effect waits for the commit and its token leaves (R46, R53). -/
theorem ran_effect_token {s x : State} {c : Cx} (hx : OnlyBlock s x c.b) (e : Effect) (h : Hd) (v : W64) (a : Arrival) :
    Ran s ((x.effect c e).sendToken c.b.bid c.slot h v a) c
      { fired c true with effs := c.b.effs ++ [(c.slot, e)], transit := c.b.transit ++ tokens c.slot h v a } := by
  unfold State.effect State.sendToken
  rw [modBlock_modBlock _ _ (fun b => { b with effs := b.effs ++ [(c.slot, e)] }) _ (fun _ => rfl)]
  exact ran_from hx rfl _ (fun _ => rfl)

/-- A choice from a pool that is not empty (R482). -/
theorem choose_mem {s : State} {l : List Nat} (h : l ≠ []) : ∃ k d, s.choose l = (some k, { s with draws := d }) ∧ k ∈ l := by
  match l with
  | [] => exact absurd rfl h
  | [a] => exact ⟨a, s.draws, rfl, by simp⟩
  | a :: b :: l =>
    have hlt : Config.pick s.draws % (a :: b :: l).length < (a :: b :: l).length := Nat.mod_lt _ (by simp)
    refine ⟨(a :: b :: l)[Config.pick s.draws % (a :: b :: l).length], s.draws + 1, ?_, List.getElem_mem _⟩
    show ((a :: b :: l)[Config.pick s.draws % (a :: b :: l).length]?, _) = _
    rw [List.getElem?_eq_getElem hlt]

end Sys2Proof.Machine
end

