-- ==== Sys2Proof/Tests/Slice0.lean ====
section
/-! SUPPORT. The model's own tests: ill-formed terms, words written out from the encodings, single steps, and for every statement states and
operands that meet its hypotheses, each clause for itself. -/
namespace Sys2Proof.Tests
open Machine
set_option Elab.async false

/-! Words and terms -/

/-- No predicate and no targets. -/
abbrev z : Hd := ⟨.always, none, none⟩
/-- One target: slot 3 left. -/
abbrev t : Hd := ⟨.always, some ⟨.left, 3⟩, none⟩

/-- Control (R135-R140): words assembled from the fields of the encoding tables. -/
theorem test_decode_control :
    [0x01AFFFFFFFF40000, 0x0238000000000000, 0x0300000000040000, 0x0410000000000000, 0x0E00000000000000, 0x0500000000000083, 0x067E000000000000,
      0x0722000000000000, 0x0808000000000083, 0x093C000000000000, 0x0A0200000006FE85, 0x0A040000001C0083, 0x0B00000000000083, 0x0C00000000000083,
      0x0D00C00000000083, 0x0F00000000000000, 0x0F00400000000000].map (decodeTableWord 64) =
    [some (.bro ⟨.onFalse, none, none⟩ 5 (-3)), some (.bri z 7), some (.call z 0 1), some (.ret z 2), some (.fend z), some (.iter t), some (.null
      ⟨.onTrue, none, none⟩ 31), some (.mnull z 17), some (.grd t 4), some (.gwr z 30), some (.movi ⟨.always, some ⟨.left, 5⟩, some ⟨.right, 127⟩⟩
      0x80000001), some (.movhi t 7), some (.mov t), some (.sel t), some (.tst t .ge), some (.nop z), some (.yld z)] := by decide +kernel

/-- Scalar integer (R141, R142): words assembled from the fields of the encoding tables. -/
theorem test_decode_integer :
    [0x1000040000000083, 0x1100000000000083, 0x1300040000000083, 0x1300400000000083, 0x1300840000000083, 0x1400000000000083, 0x1400440000000083,
      0x1400800000000083, 0x1400C40000000083, 0x1500000000000083, 0x1600040000000083, 0x1700000000000083, 0x1800040000000083, 0x1C00000000000083,
      0x1D00040000000083, 0x1E00000000000083, 0x2200040000000083, 0x2300000000000083, 0x2300440000000083, 0x2300800000000083, 0x2400040000000083,
      0x2400400000000083, 0x2400840000000083, 0x2400C00000000083, 0x2500040000000083, 0x2901800000000083].map (decodeTableWord 64) =
    [some (.add t true), some (.sub t false), some (.mul t true), some (.mulh t false), some (.mulhu t true), some (.div t false), some (.divu t
      true), some (.rem t false), some (.remu t true), some (.and t false), some (.or t true), some (.xor t false), some (.andn t true), some
      (.shl t false), some (.shr t true), some (.sar t false), some (.rotl t true), some (.clz t false), some (.ctz t true), some (.popc t false),
      some (.min t true), some (.max t false), some (.minu t true), some (.maxu t false), some (.abs t true), some (.addsh t false 6)] := by
      decide +kernel

/-- Integer immediates (R143, R144): words assembled from the fields of the encoding tables. -/
theorem test_decode_immediate :
    [0x1207FFFFFFFC0083, 0x1900000000140083, 0x1A00000000180083, 0x1B000000001C0083, 0x1F00000000FC0083, 0x20040000007C0083, 0x2100000000240083,
      0x2600000001000083, 0x2604000000040083, 0x2700000047200083, 0x280000000F0C0083].map (decodeTableWord 64) =
    [some (.addi t true 0xFFFFFFFF), some (.andi t 5), some (.ori t 6), some (.xori t 7), some (.shli t false 63), some (.shri t true 31), some
      (.sari t false 9), some (.sext t 64), some (.zext t 1), some (.bfx t 8 7 true), some (.bfi t 3 15)] := by decide +kernel

/-- Scalar floating point (R146-R153): words assembled from the fields of the encoding tables. -/
theorem test_decode_float :
    [0x3000000000000083, 0x3100000000000083, 0x3200000000000083, 0x3300000000000083, 0x3400000000000083, 0x3500000000000083, 0x3600000000000083,
      0x3700000000000083, 0x3800800000000083, 0x3900440000000083, 0x3901C00000000083, 0x3A00000000000083, 0x3B01000000000083,
      0x3C00800000000083].map (decodeTableWord 64) =
    [some (.fadd t), some (.fsub t), some (.fmul t), some (.ffma t), some (.fdiv t), some (.fsqrt t), some (.fmin t), some (.fmax t), some (.ftst
      t .le), some (.fcvt t .f2u true), some (.fcvt t .h2f false), some (.fclass t), some (.frnd t .rup), some (.fsgn t .cx)] := by decide +kernel

/-- Memory, atomics and the fence (R54, R55, R237): words assembled from the fields of the encoding tables. -/
theorem test_decode_memory :
    [0x400B99FFFFE00083, 0x413EE20000200000, 0x4203080000000083, 0x4305440000100083, 0x4406000001000000, 0x4500808000000083, 0x4602908000000083,
      0x4704A08000000083, 0x4806B08000000083, 0x4908808000000083, 0x4A0A908000000083, 0x4B0CA08000000083, 0x4C12750000080083, 0x4D00320000000000,
      0x4E08E90000000000].map (decodeTableWord 64) =
    [some (.ld t ⟨5, .sw, .acq, .explicit, .pkg, -8⟩), some (.st z ⟨31, .d, .rel, .own, .sys, 8⟩), some (.ldh t ⟨1, .sb, .plain, .explicit,
      .frame, 0⟩), some (.lds t ⟨2, .sh, .plain, .base, .frame, 4⟩), some (.pref z ⟨3, .ub, .plain, .own, .frame, 64⟩), some (.amoAdd t ⟨0, .uw,
      .plain, .own, .stall, 0⟩), some (.amoAnd t ⟨1, .uw, .acq, .own, .stall, 0⟩), some (.amoOr t ⟨2, .uw, .rel, .own, .stall, 0⟩), some (.amoXor
      t ⟨3, .uw, .acqRel, .own, .stall, 0⟩), some (.amoSwap t ⟨4, .uw, .plain, .own, .stall, 0⟩), some (.amoMin t ⟨5, .uw, .acq, .own, .stall,
      0⟩), some (.amoMax t ⟨6, .uw, .rel, .own, .stall, 0⟩), some (.cas t ⟨9, .uh, .acqRel, .base, .hall, 2⟩), some (.fence z ⟨0, .ub, .acqRel,
      .own, .sys, 0⟩), some (.stmc z ⟨4, .d, .rel, .explicit, .hall, 0⟩)] := by decide +kernel

/-- Heat, hurdles, futures and tokens (R237, R250, R331): words assembled from the fields of the encoding tables. -/
theorem test_decode_sync :
    [0x5000000000000083, 0x5100000000000000, 0x5200000000000000, 0x5300050000000000, 0x5402018000400000, 0x5500010000000083, 0x5600020000000083,
      0x5704000000000000, 0x583FC00000000083, 0x5900000000000000, 0x5900400000000000, 0x5A00C20000000083, 0x5B00C60000800000, 0x5C00000000000083,
      0x5C00400000000083, 0x5D00000000000083, 0x5D00400000000083, 0x5E00000000000083, 0x5F00000000000000].map (decodeTableWord 64) =
    [some (.htNew t), some (.htEnd z), some (.htCancel z), some (.hdInit z ⟨0, .ub, .plain, .base, .hall, 0⟩), some (.hdArr z ⟨1, .ub, .plain,
      .own, .pkg, 16⟩), some (.hdWait t ⟨0, .ub, .plain, .own, .hall, 0⟩), some (.hdTest t ⟨0, .ub, .plain, .own, .sys, 0⟩), some (.hdXpct z ⟨2,
      .ub, .plain, .own, .frame, 0⟩), some (.spawn t 255), some (.fref z), some (.fdrop z), some (.fget t ⟨0, .d, .plain, .own, .sys, 0⟩), some
      (.fset z ⟨0, .d, .plain, .base, .sys, 32⟩), some (.ftest t), some (.peek t), some (.launch t), some (.lwait t), some (.cancel t), some
      (.send z)] := by decide +kernel

/-- Tiles and the porter (R279, R286): words assembled from the fields of the encoding tables. -/
theorem test_decode_tiles :
    [0x6000005000000000, 0x6109000004000083, 0x6109000400000083, 0x623F000000000000, 0x6300008000040000, 0x6407000000000083, 0x6500001000000000,
      0x6500002400000000, 0x6500003800000000, 0x661003803C000000, 0x6701002000040000, 0x6800008000100000, 0x6908000000240000, 0x6A00000000300000,
      0x6B00004000000000, 0x6B04000400140000, 0x6C06000000040000, 0x6D00007000000000, 0x6D07000400200000, 0x6E00038000000000, 0x6E00039004100000,
      0x6F00003000000000, 0x6F00000004000000].map (decodeTableWord 64) =
    [some (.tdef z 5), some (.tstate t 9 true), some (.ttest t 9), some (.tfree z 63), some (.tzero z 8 true), some (.tget t 7 false), some
      (.tsetE z 1), some (.tsetLnk z 2), some (.tsetExp z 3), some (.tring z 16 56 15), some (.tcopy z 1 2 true), some (.pld z 8 false 1), some
      (.pst z 8 true 2), some (.pcpy z 3), some (.pgat z 4 false 0), some (.psct z 4 true 1), some (.prdc z 6 true 0), some (.pxpd z 7 false 0),
      some (.pcmp z 7 false 2), some (.pstrmIn z 56 0), some (.pstrmOut z 57 1), some (.pbar z (some 3)), some (.pbar z none)] := by decide +kernel

/-- The plane array and the sum-product engine (R58, R126, R191, R196): words assembled from the fields of the encoding tables. -/
theorem test_decode_plane :
    [0x7000000040100000, 0x7101083000040000, 0x7208402000180000, 0x7301083000000000, 0x7401083000000000, 0x7401083400080000, 0x7401083800100000,
      0x7500009000100000, 0x7601002000040000, 0x7A05000000040000, 0x7B00006000000000, 0x7C00000004000000, 0x7D00000000000083].map (decodeTableWord
      64) =
    [some (.ppset z 4 16), some (.pmmaI z ⟨1, 2, 3, false, false, true⟩), some (.pmmaS z ⟨8, 16, 2, true, true, false⟩), some (.pmmaX z ⟨1, 2, 3,
      false, false, false⟩), some (.pmvI z ⟨1, 2, 3, false, false, false⟩), some (.pmvS z ⟨1, 2, 3, true, false, false⟩), some (.pmvX z ⟨1, 2, 3,
      false, true, false⟩), some (.pzacc z 9 true false), some (.pwmap z 1 2 true), some (.spld z 5 true), some (.spst z 6 false), some (.spz z
      true), some (.spfence t)] := by decide +kernel

/-- The vector engine (R167, R168): words assembled from the fields of the encoding tables. -/
theorem test_decode_vector :
    [0x8001083000040000, 0x8101083000040000, 0x8201083000040000, 0x8301083000040000, 0x8401083000040000, 0x8501083000040000, 0x8601083000040000,
      0x8701003000000000, 0x8801003000000000, 0x8901003000000000, 0x8A01003000000000, 0x8B01083000040000, 0x8C01003000000000, 0x8D01003000000000,
      0x8E01003000000000, 0x8F01003000000000, 0x90010830000C0000, 0x9101003000000000, 0x9201083004040000, 0x9301003018000000,
      0x9401003004000000].map (decodeTableWord 64) =
    [some (.vadd z ⟨1, 2, 3, true⟩), some (.vsub z ⟨1, 2, 3, true⟩), some (.vmul z ⟨1, 2, 3, true⟩), some (.vfma z ⟨1, 2, 3, true⟩), some (.vfms z
      ⟨1, 2, 3, true⟩), some (.vmin z ⟨1, 2, 3, true⟩), some (.vmax z ⟨1, 2, 3, true⟩), some (.vabs z ⟨1, 3, false⟩), some (.vneg z ⟨1, 3,
      false⟩), some (.vrcp z ⟨1, 3, false⟩), some (.vrsq z ⟨1, 3, false⟩), some (.vdiv z ⟨1, 2, 3, true⟩), some (.vsqrt z ⟨1, 3, false⟩), some
      (.vexp2 z ⟨1, 3, false⟩), some (.vlog2 z ⟨1, 3, false⟩), some (.vcvt z ⟨1, 3, false⟩), some (.vqnt z ⟨1, 2, 3, true⟩ true), some (.vdqnt z
      ⟨1, 3, false⟩), some (.vscl z ⟨1, 2, 3, true⟩ true), some (.vred z ⟨1, 3, false⟩ .min true), some (.vscan z ⟨1, 3, false⟩ .max false)] := by
      decide +kernel

/-- The vector engine, the rest (R168): words assembled from the fields of the encoding tables. -/
theorem test_decode_vector2 :
    [0x9500003000000000, 0x9501003004000000, 0x9601083000040000, 0x9701083000040000, 0x9801083018040000, 0x9901083000040000, 0x9A01083000040000,
      0x9B01083000040000, 0x9C0100307C000000, 0x9D01083180000000, 0x9E01003000000000, 0x9F00003000000000, 0xA001083000040000, 0xA101083004000000,
      0xA201083004040000, 0xA301083000040000, 0xA401083000040000].map (decodeTableWord 64) =
    [some (.vbcast z none 3 false), some (.vbcast z (some 1) 3 false), some (.vperm z ⟨1, 2, 3, true⟩), some (.vsel z ⟨1, 2, 3, true⟩), some
      (.vcmp z ⟨1, 2, 3, true⟩ .un), some (.vand z ⟨1, 2, 3, true⟩), some (.vor z ⟨1, 2, 3, true⟩), some (.vxor z ⟨1, 2, 3, true⟩), some (.vshl z
      ⟨1, 3, false⟩ (.imm 31)), some (.vshr z ⟨1, 3, false⟩ (.tile 2) true), some (.vpopc z ⟨1, 3, false⟩), some (.viota z 3 false), some (.visect
      z ⟨1, 2, 3, true⟩), some (.vpfx z ⟨1, 3, false⟩ (some 2)), some (.vgat z ⟨1, 2, 3, true⟩ true), some (.vsct z ⟨1, 2, 3, true⟩), some (.vdot8
      z ⟨1, 2, 3, true⟩)] := by decide +kernel

/-- Reductions, transport, system and hints (R303, R443): words assembled from the fields of the encoding tables. -/
theorem test_decode_system :
    [0xB000000000000000, 0xB100000000000083, 0xB100400000000000, 0xB200000000000083, 0xB200400000000083, 0xB303000000000000, 0xB400009000040000,
      0xB8000000001C0000, 0xB903FFFFFFFC0000, 0xBA01400000000000, 0xBB40000000000000, 0xBB80400000000000, 0xBB00800000000000, 0xBC0000003FFC0083,
      0xBD00000000140000, 0xBE00000048D00000, 0xBE04000048D00000, 0xBF00000000000083, 0xF500000000000000].map (decodeTableWord 64) =
    [some (.red z), some (.rdinit t), some (.rdinitFree z), some (.rdwait t), some (.rdwaitF t), some (.xsend z 3 false), some (.xrecv z 9 true),
      some (.svc z 7), some (.trap z 0xFFFFFFFF), some (.bkpt z 5), some (.eret ⟨.onTrue, none, none⟩), some (.eretEnd ⟨.onFalse, none, none⟩),
      some (.eretRedir z), some (.csrr t 0xFFF), some (.csrw z 5), some (.mark z 0x1234), some (.markV z 0x1234), some (.fltrd t), some (.hint 5)]
      := by decide +kernel

/-! Ill-formed terms, one for each check, and words the decoder rejects by cause (R63). -/

/-- S format spans two words (R58). -/
theorem test_decode_two_slots :
    decodeTableWord 128 0x08000040000018007801FEA064000000 = some (.spt ⟨0x3FD4, 0x064, 0, 0, 0x010, 0, 0x020, 0, 3, 0⟩ false) ∧
    decodeTableWord 128 0x0180400A01803FF8790491A7FF003008 =
      some (.spd ⟨0x1234, 0x7FF, 1, 0x402, 3, 4, 5, 6, 7, 0x7F8⟩ true) := by decide +kernel
/-- An event is no instruction word. -/
theorem test_ill_event : (Instr.blockMap 2).wellFormed = false := by decide +kernel
/-- A field value out of range: SEXT to 65 bits, `.w` shift by 32, a release load, PPSET 17 (R143, R237, R127). -/
theorem test_ill_values : [Instr.sext t 65, .shli t true 32, .ld t ⟨0, .d, .rel, .own, .frame, 0⟩, .ppset z 17 1].map Instr.wellFormed =
    [false, false, false, false] := by decide +kernel
/-- A store names no target (R53). -/
theorem test_ill_target : (Instr.st t ⟨0, .d, .plain, .own, .frame, 0⟩).wellFormed = false := by decide +kernel
/-- A form with a third operand is not predicated, and CAS takes no explicit heat (R45). -/
theorem test_ill_third : [Instr.sel ⟨.onTrue, none, none⟩, .cas t ⟨0, .d, .plain, .explicit, .frame, 0⟩].map Instr.wellFormed = [false, false] := by decide +kernel
/-- TRING #0 names no slot (R279). -/
theorem test_ill_fields : (Instr.tring z 5 56 0).wellFormed = false := by decide +kernel
/-- Reserved opcodes (cause 1), reserved values (2), a target on a store (4) and a predicated SEL (6). -/
theorem test_reject_causes :
    [0, 0x2A00000000000000, 0xFF00000000000000, 0x10C0000000000000, 0x1000080000000000, 0x4101C00000000000, 0x4100C00000000083,
      0x0C40000000000083].map (fun w => match decodeWord w 0 with | .error c => c | .ok _ => 0) = [1, 1, 1, 2, 2, 2, 4, 6] := by decide +kernel

/-! Values the spec works out -/

/-- FCVT of −2.5 under the five rounding modes, and of 2^31 (R152). -/
theorem test_fcvt :
    [Rm.rne, .rtz, .rdn, .rup, .rmm].map (fun m => (fcvtVal .f2i true m 0xC0200000).1.toInt) = [-2, -2, -3, -2, -3] ∧
    fcvtVal .f2i true .rne 0x4F000000 = (0x7FFFFFFF, .invalid) := by decide +kernel
/-- The VRED and VSCAN example on 2^24, 1, 1, 1 (R178), here over the first eight elements of the row. -/
theorem test_scan_tree :
    let f := nodeOp .add false .rne
    let l : List Lane := [0x4B800000, 0x3F800000, 0x3F800000, 0x3F800000, 0, 0, 0, 0].map (·, {})
    treeRoot f 3 l = (0x4B800001, .inexact) ∧
    (scanBlock f 3 none l).map (·.1) =
      [0x4B800000, 0x4B800000, 0x4B800000, 0x4B800001, 0x4B800001, 0x4B800001, 0x4B800001, 0x4B800001] := by decide +kernel
/-- A division by 0 and the overflowing division trap nothing (R142). -/
theorem test_div_corners :
    [divS false 5 0, remS false 5 0, divS false 0x8000000000000000 (-1), remS false 0x8000000000000000 (-1)].map (intResult false) =
      [-1, 5, 0x8000000000000000, 0] := by decide +kernel
/-- The promotion example of the plane array (R115): 2^24 + 300 · 2^-4, then − 5, each rounded to even; a run of 0 and a code 255 change nothing. -/
theorem test_promote : promote 0x4B800000 300 120 130 = (0x4B800009, .inexact) ∧ promote 0x4B800009 (-5) 127 127 = (0x4B800006, .inexact) ∧
    promote 0x4B800000 0 120 130 = (0x4B800000, {}) ∧ promote 0x4B800000 300 255 130 = (0x4B800000, {}) := by decide +kernel

/-! States -/

/-- A header without targets, always executed. -/
def plain : Hd := ⟨.always, none, none⟩
/-- One frame (1) of context 0 on stall 0, and its block (2), whose slot 0 is current with operands 0. -/
def base : State := { State.reset.placeWord 0x0F00000000000000 0 with cur := some (2, 0) }
def inBlock (s : State) (f : Block → Block) : State := s.modBlock 2 f
def inFrame (s : State) (f : Frame → Frame) : State := s.modFrame 1 f
/-- The current slot's operands. -/
def ops (s : State) (l r p : W64) : State := s.modBlock 2 fun b => { b with slots := [⟨some l, some r, some p, false⟩] }
def cx (s : State) : Cx := (s.cx?).getD default
/-- The word is current and not predicated off; then `Runs` holds of it. -/
def live (s : State) : Bool := s.cx?.isSome && !plain.off (cx s)
theorem live_runs {s : State} (h : live s = true) : Runs s plain (cx s) := by
  simp only [live, Bool.and_eq_true, Option.isSome_iff_exists, Bool.not_eq_true'] at h
  obtain ⟨⟨c, hc⟩, ho⟩ := h
  exact ⟨by simp [cx, hc], ho⟩
/-- 16 pages of 64 KiB of each kind by range entries (R391): data from VA 0, sync from 0x100000, heat-private from 0x200000, code from 0x300000. -/
def mapped : State := base.modStall 0 fun x => { x with ranges :=
  [⟨0x0F, 0x00, 0x100, ⟨true, true, false, false, false, false, false⟩, true⟩,
   ⟨0x1F, 0x10, 0x200, ⟨true, true, false, true, false, false, false⟩, true⟩,
   ⟨0x2F, 0x20, 0x300, ⟨true, true, false, false, true, false, false⟩, true⟩,
   ⟨0x3F, 0x30, 0x400, ⟨true, false, true, false, false, false, false⟩, true⟩] }
/-- An access of `n` bytes at a VA of one of these pages. -/
def accAt (pa0 va n : Nat) (hp : Bool) (heat : Nat) : Acc := ⟨0, heat, va, n, locsFrom va (pa0 + va) n hp⟩


/-! Witnesses: words that compute -/

theorem witness_IntegerArithmetic : live base ∧ (Instr.sext plain 1).valuesOk ∧ (Instr.sext plain 64).valuesOk ∧
    (Instr.zext plain 64).valuesOk ∧ (Instr.bfx plain 63 0 true).valuesOk ∧ (Instr.bfi plain 0 63).valuesOk := by decide +kernel
theorem witness_IntegerDivision : live (ops base 0x8000000000000000 0xFFFFFFFFFFFFFFFF 0) := by
  decide +kernel
theorem witness_DataWords : live base ∧ (cx base).b.pred = none ∧ (∀ e ∈ (cx base).b.gws, e.1 ≠ 31) ∧
    (∀ e ∈ (cx base).b.lsids, e.1 ≠ 31) ∧ base.cx? = some (cx base) ∧ (Instr.add ⟨.onTrue, none, none⟩ false).hd.off (cx base) ∧
    (Instr.add ⟨.onTrue, none, none⟩ false).isWord ∧ !(Instr.add ⟨.onTrue, none, none⟩ false).twoSlot ∧
    !(Instr.add ⟨.onTrue, none, none⟩ false).isHint := by decide +kernel
/-- A block mapped ahead of one that has written g4, has not yet written g5, and leaves by CALL. -/
def ahead : State :=
  let u := inBlock base fun b => { b with pred := some 9 }
  { u with blocks := u.blocks ++ ((base.block? 2).toList.map fun b => { b with bid := 9, hdr := 0xFFFFFFFF00000000, gws := [(4, 0, some 7)], exits := [(1, .call 0x40 0x20)] }) }
theorem witness_DataWords_ahead : live ahead ∧ (cx ahead).b.pred = some 9 ∧ ∃ p, ahead.block? 9 = some p ∧ p.isLoop = false ∧
    p.gws.find? (fun e => e.1 == 4) = some (4, 0, some 7) ∧ p.exits = [(1, .call 0x40 0x20)] ∧ (∀ e ∈ p.gws, e.1 ≠ 5) ∧
    p.wmask.testBit 5 = true ∧ ahead.regAt (cx ahead) 30 = some 0x20 :=
  ⟨by decide +kernel, by decide +kernel, _, rfl, by decide +kernel⟩
/-- 1.0 + 2.0 rounds; 1.0 + infinity is a special case. -/
theorem witness_FloatArithmetic : live (ops base 0x3F800000 0x40000000 0) ∧
    binValue 8 23 0x3F800000 = some 1 ∧ binValue 8 23 0x40000000 = some 2 ∧ binValue 8 23 0 = some 0 ∧ ((1 : Rat) + 2 ≠ 0) ∧
    FpOp.add.special .rne 0x3F800000 0x7F800000 0 = some (0x7F800000, {}) := by decide +kernel
theorem witness_FloatComparisons : live base := by decide +kernel
theorem witness_FloatConversions : live base := by decide +kernel

/-! Exits and memory -/

theorem witness_Exits : live base ∧ (cx base).b.exits = [] ∧ (cx base).b.pred = none := by decide +kernel
/-- A register, an LSID and an exit that another slot has taken. -/
def taken : State := inBlock base fun b => { b with gws := [(3, 1, none)], lsids := [(31, 1)], exits := [(1, .fend)] }
theorem witness_Exits_second : live taken ∧ (∃ e ∈ (cx taken).b.gws, e.1 = 3) ∧
    (∃ e ∈ (cx taken).b.lsids, e.1 = 31 ∧ e.2 ≠ (cx taken).slot) ∧ (cx taken).b.exits ≠ [] ∧ (cx taken).l = 0 ∧ (cx taken).b.pred = none ∧
    (cx taken).f.regs.get ⟨30, by decide⟩ = 0 ∧
    (let s := inFrame taken fun f => { f with handler := true }
     live s ∧ (cx s).f.handler = true ∧ (cx s).b.exits ≠ []) := by decide +kernel

/-- An 8-byte access at the last place where it stays on the data pages' first 4 KiB. -/
def mf (n : BitVec 5) (ofs : BitVec 21) : MF := ⟨n, .d, .plain, .own, .sys, ofs⟩
def data8 : Acc := accAt 0x1000000 0xFF8 8 false 0
theorem witness_MemoryReads : live mapped ∧ FirstOf (cx mapped) 31 ∧
    Passes mapped (cx mapped) (mf 31 0xFF8) ⟨true, false, false, true, false⟩ false data8 ∧
    Passes mapped (cx mapped) (mf 31 0xFF8) ⟨true, false, false, false, false⟩ false data8 ∧ !(cx mapped).b.zeroed.contains (cx mapped).slot := by
  unfold FirstOf Passes; decide +kernel

/-- An address whose bits 63 to 56 are not 0, one whose last byte is the last of the space, a heat that is not live, and a page none maps. -/
theorem witness_MemoryReads_faults : (0x0100000000000000 : W64).extractLsb' 56 8 ≠ 0 ∧
    (0x00FFFFFFFFFFFFF8 : W64).extractLsb' 56 8 = 0 ∧ (0x00FFFFFFFFFFFFF8 : W64).toNat + 8 ≤ 2 ^ 56 ∧
    (∀ x ∈ mapped.heats, ¬(x.ctx = 0 ∧ x.tag = 1 ∧ x.live = true)) ∧
    (let s := ops mapped 0x100000 0 0
     live s ∧ FirstOf (cx s) 31 ∧ !(cx s).b.zeroed.contains (cx s).slot ∧
     ∀ n ∈ [(⟨true, false, false, true, false⟩, false), ((⟨false, true, false, true, false⟩ : Need), true), (⟨true, false, false, false, false⟩, false)],
       s.checkAccess 0 0 2 n.1 n.2 ((mf 31 0).ea ((mf 31 0).base (cx s))) 8 ((mf 31 0).heat (cx s)) = .fault .syncMisuse 0x100000 0) := by
  unfold FirstOf; decide +kernel

/-- What a step answers. -/
def after (o : Out) : State := match o with | .next t => t | _ => default

/-- An LD has issued, and its read is operation 3. -/
def loading : State := after (exec (.ld plain (mf 31 0xFF8)) mapped)
theorem witness_MemoryReads_value : let m := (loading.ops.find? (·.oid == 3)).getD default
    loading.ops.find? (·.oid == 3) = some m ∧ m.kind = .load false false false ∧ loading.block? m.bid = some (cx loading).b ∧
    loading.frame? (cx loading).b.fid = some (cx loading).f ∧ (cx loading).b.instr? m.slot = some (.nop plain) ∧
    loading.stallRuns (cx loading).f.stall = true ∧ loading.readReady (cx loading).b (cx loading).f m = true ∧
    loading.accGone m.acc = false ∧ loading.accLost m.acc true = false ∧ loading.ownWrites (cx loading).b (cx loading).f m.lsid = [] ∧ m.acc.va % m.acc.size = 0 ∧
    paKind m.acc.pa ≠ .control := by decide +kernel

/-- A misaligned LD has issued: nothing of it is read yet, and all bytes but the last are. -/
theorem witness_MemoryReads_misaligned : ∀ p ∈ [[], (List.range 7).map fun k => (k, (0 : Byte))],
    let u := after (exec (.ld plain (mf 31 0xF79)) mapped)
    let s := { u with ops := u.ops.map fun o => { o with part := p } }
    let m := (s.ops.find? (·.oid == 3)).getD default
    s.ops.find? (·.oid == 3) = some m ∧ m.kind = .load false false false ∧ s.block? m.bid = some (cx s).b ∧ s.frame? (cx s).b.fid = some (cx s).f ∧
    (cx s).b.instr? m.slot = some (.nop plain) ∧ s.stallRuns 0 = true ∧ s.readReady (cx s).b (cx s).f m = true ∧ s.accGone m.acc = false ∧
    s.accLost m.acc true = false ∧ m.acc.va % m.acc.size ≠ 0 ∧
    ((List.range m.acc.size).filter (fun k => !m.part.any (·.1 == k))).length = (if p = [] then 8 else 1) := by decide +kernel
/-- A block mapped ahead whose LD names a page that none maps. -/
theorem witness_MemoryReads_ahead : let s := inBlock (ops mapped 0x100000 0 0) fun b => { b with spec := true }
    live s ∧ FirstOf (cx s) 31 ∧ (cx s).b.spec = true ∧
    s.checkAccess 0 0 2 ⟨true, false, false, true, false⟩ false ((mf 31 0).ea ((mf 31 0).base (cx s))) 8 ((mf 31 0).heat (cx s)) = .fault .syncMisuse 0x100000 0 := by
  unfold FirstOf; decide +kernel

/-- One thing of frame 1 on its way to a home. -/
def sent (s : State) (g : Cargo) : State := { s with flight := [⟨3, (cx s).org, 0, 0, g⟩], nextId := 4 }
theorem witness_Stores : live mapped ∧ FirstOf (cx mapped) 31 ∧
    Passes mapped (cx mapped) (mf 31 0xFF8) ⟨false, true, false, true, false⟩ true data8 ∧
    Passes mapped (cx mapped) (mf 31 0x80) ⟨false, true, false, false, false⟩ true (accAt 0x1000000 0x80 8 false 0) ∧
    ((mf 31 0x80).ea ((mf 31 0x80).base (cx mapped))).toNat % 128 < 8 ∧ ((mf 31 0x80).ea ((mf 31 0x80).base (cx mapped))).toNat % 8 = 0 ∧
    (∀ l ∈ (accAt 0x1000000 0x80 8 false 0).locs, l.hp = false) ∧
    (let entries := accAt 0x1000000 0x88 120 false 0
     (noted mapped (cx mapped) 31).readReady (cx mapped).b (cx mapped).f ⟨0, 2, 0, 31, .load false false false, entries, none, (cx mapped).org, []⟩ = true ∧
     mapped.accLost entries true = false) ∧ (noted mapped (cx mapped) 31).ownWrites (cx mapped).b (cx mapped).f 31 = [] := by
  unfold FirstOf Passes; decide +kernel
/-- PREF of a byte of data, of a sync page, and of a page no translation stands for. -/
theorem witness_Stores_pref : ∀ e ∈ [(0x0, 0), (0x100000, 1), (0x500000, 2)], let s := ops mapped (BitVec.ofNat 64 e.1) 0 0
    live s ∧ FirstOf (cx s) 31 ∧ (cx s).b.zeroed.contains (cx s).slot = false ∧ (cx s).b.spec = false ∧
    (match s.checkAccess 0 0 2 ⟨true, false, false, false, false⟩ false ((mf 31 0).ea ((mf 31 0).base (cx s))) 1 ((mf 31 0).heat (cx s)) with
    | .ok _ => 0
    | .fault _ _ _ => 1
    | .walk _ => 2) = e.2 := by
  unfold FirstOf; decide +kernel
def storing : State := sent mapped (.store data8 0x0123456789ABCDEF false false)
theorem witness_Stores_perform : let w := storing.flight.headD default
    storing.flight[0]? = some w ∧ w.cargo = .store data8 0x0123456789ABCDEF false false ∧ storing.ok = true ∧ data8.heat = 0 ∧ storing.copies = [] ∧
    paKind data8.pa ≠ .control ∧ storing.writeOrder w = true ∧ storing.writeClear w data8 = true ∧
    storing.wordPending data8 (fun o => !(o.org.fid == w.org.fid)) (fun e => e.org.fid != w.org.fid) = false ∧
    (storing.land 0).accGone data8 = false ∧ (storing.land 0).accLost data8 false = false ∧ (data8.locs.map (·.pa)).Nodup := by decide +kernel
/-- Heat 3 is live and stores on a heat-private page. -/
def own8 : Acc := accAt 0x2E00000 0x2FFFF8 8 true 3
def heated : State := { sent mapped (.store own8 0x0123456789ABCDEF false false) with heats := [⟨0, 3, true, 1, 0, false, none⟩] }
theorem witness_Stores_heat : let w := heated.flight.headD default
    heated.flight[0]? = some w ∧ w.cargo = .store own8 0x0123456789ABCDEF false false ∧ heated.ok = true ∧ own8.heat ≠ 0 ∧ own8.heat < 65536 ∧ heated.copies = [] ∧
    heated.heatLive own8.ctx own8.heat = true ∧ (∀ l ∈ own8.locs, l.hp = true ∧ l.va < 2 ^ 56) ∧ paKind own8.pa ≠ .control ∧
    heated.writeOrder w = true ∧ heated.writeClear w own8 = true ∧
    heated.wordPending own8 (fun o => !(o.org.fid == w.org.fid)) (fun e => e.org.fid != w.org.fid) = false ∧
    (heated.land 0).accGone own8 = false ∧ (heated.land 0).accLost own8 false = false ∧ (own8.locs.map (·.va)).Nodup := by decide +kernel

theorem witness_Atomics : live mapped ∧ FirstOf (cx mapped) 31 ∧
    ((mf 31 0xFF8).ea ((mf 31 0xFF8).base (cx mapped))).toNat % 8 = 0 ∧
    Passes mapped (cx mapped) (mf 31 0xFF8) ⟨true, true, false, false, false⟩ true data8 := by unfold FirstOf Passes; decide +kernel
def adding : State := after (exec (.amoAdd plain (mf 31 0xFF8)) mapped)
theorem witness_Atomics_admit : let m := (adding.ops.find? (·.oid == 3)).getD default
    adding.ops.find? (·.oid == 3) = some m ∧ m.kind = .atomic (.amoAdd plain (mf 31 0xFF8)) 0 0 false false ∧ m.old = none ∧
    adding.block? m.bid = some (cx adding).b ∧ adding.frame? (cx adding).b.fid = some (cx adding).f ∧
    adding.stallRuns (cx adding).f.stall = true ∧ adding.readReady (cx adding).b (cx adding).f m = true ∧
    adding.wordPending m.acc (fun _ => true) (fun _ => true) = false ∧ adding.barWrites (cx adding).f m.acc = false ∧ adding.accGone m.acc = false ∧ adding.accLost m.acc true = false ∧
    m.acc.locs.length = m.acc.size ∧ 0 < m.acc.size ∧ m.acc.size ≤ 8 := by decide +kernel
/-- An atomic's effect, and a CAS that failed on its way to its home. -/
theorem witness_Atomics_write : (let m := (adding.ops.find? (·.oid == 3)).getD default
      adding.frame? (cx adding).org.fid = some (cx adding).f ∧ adding.ops.find? (·.oid == 3) = some m ∧ m.kind = .atomic (.amoAdd plain (mf 31 0xFF8)) 0 0 false false) ∧
    (let s := sent mapped (.atomicWrite data8 0 none false)
     let w := s.flight.headD default
     s.flight[0]? = some w ∧ w.cargo = .atomicWrite data8 0 none false ∧ s.ok = true ∧ s.writeOrder w = true ∧ s.copies = [] ∧
     (∀ l ∈ data8.locs, l.va < 2 ^ 56) ∧ data8.heat < 65536 ∧ (s.land 0).accGone data8 = false ∧ (s.land 0).accLost data8 false = false ∧
     (data8.locs.map (·.va)).Nodup) := by decide +kernel

/-! Witnesses: heats, hurdles, futures, spawning, launching, cancelling and sending -/

/-- A pool of one heat tag, free or taken by the frame's own heat. -/
def pool1 : State := base.modCtx 0 fun c => { c with params := { c.params with heatPool := 1 } }
def inHeat (e : Option Nat) (n : Nat) (cancelled : Bool) : State :=
  { (inFrame pool1 fun f => { f with ht := 1 }) with heats := [⟨0, 1, true, n, 0, cancelled, e⟩] }
theorem witness_HeatSpacesAndHurdles : live pool1 ∧ (pool1.ctx? 0).isSome ∧ 1 ≤ (pool1.ctx? 0).get!.params.heatPool ∧
    (∀ y ∈ pool1.heats, ¬(y.ctx = (cx pool1).f.ctx ∧ y.tag = 1)) ∧ pool1.flight = [] ∧ (cx pool1).f.ht = 0 := by decide +kernel
theorem witness_HeatSpacesAndHurdles_none_free : live (inHeat none 1 false) ∧
    ∀ tag, 1 ≤ tag → tag ≤ 1 → ∃ y ∈ (inHeat none 1 false).heats, y.ctx = (cx (inHeat none 1 false)).f.ctx ∧ y.tag = tag := by
  refine ⟨by decide +kernel, fun tag h1 h2 => ?_⟩
  obtain rfl : tag = 1 := by omega
  decide +kernel
theorem witness_HeatSpacesAndHurdles_end : (∀ e ∈ [none, some 1, some 9], live (inHeat e 1 false) ∧
      (inHeat e 1 false).heat? 0 1 = some ⟨0, 1, true, 1, 0, false, e⟩ ∧ (cx (inHeat e 1 false)).f.ht ≠ 0) ∧
    (9 : Nat) ≠ (cx (inHeat none 1 false)).f.fid ∧ 1 = (cx (inHeat none 1 false)).f.fid ∧ (inHeat none 1 false).heatQuiet 0 1 = true := by
  decide +kernel
theorem witness_HeatSpacesAndHurdles_freed : (inHeat none 0 true).heat? 0 1 = some ⟨0, 1, true, 0, 0, true, none⟩ ∧
    (inHeat none 0 true).heatQuiet 0 1 = true := by decide +kernel

/-- The last hurdle or cell of the sync pages, holding `w`; the current word names it by L, with R. -/
def cellAcc : Acc := accAt 0x1F00000 0x1FFFF0 16 false 0
def atCell (w : Nat) (r : W64) : State := ops (mapped.wrLE cellAcc.pa 16 w) 0x1FFFF0 r 0
theorem witness_HeatSpacesAndHurdles_words : let s := atCell 0 0
    live s ∧ FirstOf (cx s) 0 ∧ SyncPasses s (cx s) true true ((mf 0 0).ea (cx s).l) ((mf 0 0).heat (cx s)) cellAcc ∧
    ((mf 0 1).ea (cx s).l).toNat % 16 ≠ 0 := by unfold FirstOf SyncPasses; decide +kernel
theorem witness_HeatSpacesAndHurdles_read : ∀ r ∈ [0, 1], let s := atCell 0 (BitVec.ofNat 64 r)
    live s ∧ FirstOf (cx s) 0 ∧ SyncPasses s (cx s) true false ((mf 0 0).ea (cx s).l) ((mf 0 0).heat (cx s)) cellAcc ∧
    s.ok = true ∧ (noted s (cx s) 0).syncReady (cx s) 0 cellAcc true = true ∧ s.accLost cellAcc true = false ∧
    (hdPhase (s.rdLE cellAcc.pa 16) ≠ (cx s).r.toNat % 2 ↔ r = 1) ∧ (cx s).f.det = false := by
  unfold FirstOf SyncPasses; decide +kernel
theorem witness_HeatSpacesAndHurdles_perform : ∀ e ∈ [(0, 2, 0), (1, 0, 1), (1, 2, 2), (2, 0, 1)],
    let s := sent (atCell (hdWord 0 e.2.1 (if e.2.2 = 0 then 0 else e.2.2 - 1) 0 0) 0) (.hurdle cellAcc e.1 1 false)
    let w := s.flight.headD default
    s.ok = true ∧ s.flight[0]? = some w ∧ w.cargo = .hurdle cellAcc e.1 1 false ∧ s.writeOrder w = true ∧ s.writeClear w cellAcc = true ∧
    s.accLost cellAcc true = false ∧
    (let old := s.rdLE cellAcc.pa 16
     let arrived := if e.1 = 1 then hdArrived old + 1 else hdArrived old
     let expect := if e.1 = 1 then hdExpect old else hdExpect old + 1
     arrived < 2 ^ 32 ∧ expect < 2 ^ 32 ∧ (e.1 = 0 → hdHead old = 0) ∧
      (e = (1, 0, 1) → expect = 0) ∧ (e = (2, 0, 1) → arrived < expect) ∧ (e = (1, 2, 2) → 0 < expect ∧ expect ≤ arrived)) := by decide +kernel

/-- A cell in each of its states, and a frame that holds it. -/
def future (st : Nat) : State := inFrame (atCell (cellWord 2 st 1 7 false) 1) fun f => { f with holds := [(0x1FFFF0, 2)] }
theorem witness_Futures_read : ∀ st ∈ [0, 1, 2, 3], let s := future st
    live s ∧ FirstOf (cx s) 0 ∧ SyncPasses s (cx s) true false ((mf 0 0).ea (cx s).l) ((mf 0 0).heat (cx s)) cellAcc ∧
    SyncPasses s (cx s) true false (cx s).l 0 cellAcc ∧ s.ok = true ∧ (noted s (cx s) 0).syncReady (cx s) 0 cellAcc false = true ∧
    s.accLost cellAcc true = false ∧ cellSt (s.rdLE cellAcc.pa 16) = st ∧ (cx s).f.det = false ∧ s.earlyHolds (cx s).f cellAcc (some .sys) = false ∧
    live (inFrame s fun f => { f with det := true }) := by
  unfold FirstOf SyncPasses; decide +kernel
theorem witness_Futures_record : let s := future 0
    SyncPasses s (cx s) false true ((mf 0 0).ea (cx s).l) ((mf 0 0).heat (cx s)) cellAcc ∧ SyncPasses s (cx s) true true (cx s).l 0 cellAcc ∧
    (cx s).r.toNat % 65536 = 1 ∧ (cx s).r.toNat / 65536 % 4 = 0 ∧ (cx s).holdFault (.fref cellAcc.va 1 0 cellAcc) = none ∧
    (cx s).holdFault (.fdrop cellAcc.va cellAcc) = none ∧ (cx (atCell 0 0)).r.toNat % 65536 = 0 ∧
    (cx (atCell 0 0x30001)).r.toNat / 65536 % 4 = 3 := by unfold SyncPasses; decide +kernel
theorem witness_Futures_not_held : let s := atCell 0 0
    (∀ e ∈ (cx s).f.holds, e.1 ≠ cellAcc.va) ∧ (cx s).b.effs = [] ∧ SyncPasses s (cx s) true true (cx s).l 0 cellAcc := by
  unfold SyncPasses; decide +kernel
/-- An FSET, the end of its producer (reference 1), changes of REACH by 2, and a dead waiter's unlinking reach the cell. -/
theorem witness_Futures_cell : ∀ g ∈ [(0, Cargo.fset cellAcc 9), (0, .producerEnd cellAcc.va cellAcc.pa 1 false),
      (1, .reach cellAcc.va cellAcc.pa true 2), (1, .reach cellAcc.va cellAcc.pa false 2), (0, .unlink cellAcc.va)],
    let s := sent (future g.1) g.2
    let w := s.flight.headD default
    s.ok = true ∧ s.flight[0]? = some w ∧ w.cargo = g.2 ∧ s.writeOrder w = true ∧ s.writeClear w cellAcc = true ∧
    s.accLost cellAcc true = false ∧ cellSt (s.rdLE cellAcc.pa 16) = g.1 ∧ cellProd (s.rdLE cellAcc.pa 16) = 1 % 2 ^ 24 ∧
    cellReach (s.rdLE cellAcc.pa 16) = 2 ∧ s.behind w.org.fid w.id = true ∧ paKind cellAcc.pa ≠ .noRegion ∧ s.sectorLost cellAcc.pa = false ∧ s.endTurn w = true ∧
    (∀ e ∈ s.flight, ¬e.id < w.id) := by decide +kernel

/-- An FSET reaches a cell that is RECLAIMED, with and without references, FULL or FREE. -/
theorem witness_Futures_fset_late : ∀ e ∈ [(2, 0), (2, 1), (1, 0), (3, 0)],
    let s := sent (atCell (cellWord e.2 e.1 1 7 false) 1) (.fset cellAcc 9)
    let w := s.flight.headD default
    s.ok = true ∧ s.flight[0]? = some w ∧ w.cargo = .fset cellAcc 9 ∧ s.writeOrder w = true ∧ s.writeClear w cellAcc = true ∧ s.accLost cellAcc true = false ∧
    cellSt (s.rdLE cellAcc.pa 16) = e.1 ∧ cellReach (s.rdLE cellAcc.pa 16) = e.2 ∧ (∀ f ∈ s.frames, ¬(f.ctx = w.org.ctx ∧ f.cell = some cellAcc.va)) ∧
    s.flight.eraseIdx 0 = [] ∧ (s.ctx? w.org.ctx).isSome ∧ CanReport s w.org ∧ (cellAcc.locs.headD default).va = cellAcc.va := by
  unfold CanReport; decide +kernel

/-- A cell stands in the pool of the frame's hall. -/
def pooled : State := (ops mapped 0x300000 5 0).modCtx 0 fun c => { c with pool := [(0, 0x1FFFF0)] }
theorem witness_SpawnsAndLaunches : live pooled ∧ (pooled.ctx? (cx pooled).f.ctx).isSome ∧
    (hallOfStall (cx pooled).f.stall, 0x1FFFF0) ∈ ((pooled.ctx? 0).getD default).pool ∧ (cx pooled).f.handler = false ∧
    (cx pooled).l.extractLsb' 56 8 = 0 ∧ (cx pooled).l.extractLsb' 0 4 = 0 ∧ (cx pooled).f.det = false ∧
    (cx pooled).holdFault (.spawn (2 ^ 56) (cx pooled).l.toNat (cx pooled).r 255) = none ∧
    (cx (ops base 8 0 0)).l.extractLsb' 0 4 ≠ 0 ∧ (cx (ops base 0x0100000000000000 0 0)).l.extractLsb' 56 8 ≠ 0 ∧
    (cx (inFrame base fun f => { f with handler := true })).f.handler = true := by decide +kernel
theorem witness_SpawnsAndLaunches_no_cell : live base ∧
    ∀ cell, ¬(hallOfStall (cx base).f.stall, cell) ∈ ((base.ctx? 0).getD default).pool := by
  refine ⟨by decide +kernel, fun cell => ?_⟩
  have : ((base.ctx? 0).getD default).pool = [] := by decide +kernel
  simp [this]
/-- Slot 5 with a launch, live, complete or complete and cancelled, or of a graph node. -/
def launched (complete cancelled node : Bool) (pending : Nat) : State :=
  { ops base 2 5 0 with launches := [{ Launch.taken 0 5 with live := true, complete := complete, cancelled := cancelled, node := node, pending := pending }] }
theorem witness_SpawnsAndLaunches_launch : live base ∧ base.launch? (cx base).f.ctx 255 = none ∧ (cx base).l.extractLsb' 0 2 = 0 ∧
    (cx base).f.det = false ∧ (cx (ops base 3 0 0)).l.extractLsb' 0 2 ≠ 0 ∧
    (∀ b ∈ [true, false], ((launched b false false 0).launch? 0 5).isSome) := by decide +kernel
/-- All 256 slots are taken. -/
def full : State := { base with launches := (List.range 256).map fun k => Launch.taken 0 k }
theorem witness_SpawnsAndLaunches_full : live full ∧ (∀ k, k < 256 → full.launch? (cx full).f.ctx k ≠ none) ∧
    (cx full).l.extractLsb' 0 2 = 0 ∧ (cx full).f.det = false := by decide +kernel

/-- Each level of CANCEL; a launch of slot 5 that runs, has completed, or has a cancel pending. -/
theorem witness_CancelsAndSends : (∀ l ∈ [0, 1, 2, 3, 4, 5, 6, 7], let s := ops base (BitVec.ofNat 64 l) 0 0
      live s ∧
      (cx s).l.toNat % 8 = l ∧ (cx s).r = 0 ∧ (cx s).f.inst = none ∧
      (cx s).f.job = none ∧ (cx s).r.toNat % 65536 = 0) ∧ (cx (ops base 4 1 0)).r ≠ 0 ∧
    (∀ n ∈ [0, 1], ∀ b ∈ [true, false], live (launched b false false n) ∧
      (cx (launched b false false n)).l.toNat % 8 = 2 ∧ (cx (launched b false false n)).r.toNat % 256 = 5) := by decide +kernel
/-- An instance of one node of 8 inputs, and a grant of ingress 4,095. -/
def graph (l : W64) (keep : Bool) : State :=
  { inBlock (inFrame (ops base l 0 0) fun f => { f with inst := some 9 }) fun b => { b with hdr := if keep then b.hdr ||| (1 <<< 13) else b.hdr } with
    insts := [⟨9, 0, 0, false, true, false, false, 0, 0, 0, [⟨0, 8, 0, 0, 0, [], [], []⟩], [], [0], none, 1, [], [], [], []⟩],
    ctxs := base.ctxs.map fun c => { c with grants := [(4095, 3)] } }
/-- A SEND of the graph's node: reserved bits, a node of the graph and its last input, one input too many, and an ingress. -/
theorem witness_CancelsAndSends_send : (∀ n ∈ [0x80000, 0x70000, 0x100000, 0x4FFF00000, 0x4FFE00000], ∀ k ∈ [true, false], let l := BitVec.ofNat 64 n
      live (graph l k) ∧ (cx (graph l k)).b.keep = k ∧ (cx (graph l k)).f.inst = some 9 ∧
      ((graph l k).inst? 9).isSome) ∧ (0x80000 : W64).getLsbD 19 = true ∧
    (0x70000 : W64).getLsbD 34 = false ∧ ((0x70000 : W64).extractLsb' 16 3).toNat = 7 ∧ ((0x100000 : W64).extractLsb' 20 12).toNat = 1 ∧
    (0x4FFF00000 : W64).extractLsb' 36 28 = 0 ∧ (0x4FFF00000 : W64).extractLsb' 32 2 = 0 ∧ (0x4FFF00000 : W64).getLsbD 34 = true ∧
    ((0x4FFF00000 : W64).extractLsb' 20 12).toNat = 4095 ∧ ((0x4FFE00000 : W64).extractLsb' 20 12).toNat = 4094 := by
  decide +kernel


/-! Witnesses: tiles and engines -/

/-- A descriptor: a WORD tile of a format, or a PLANAR one of a width less 1, at a row of bank 0. -/
def word (row fmt shape : Nat) (st : TSt) : Tile := { Tile.ofDef (row + fmt * 2 ^ 13 + 2 ^ 12 + shape * 2 ^ 21) 0 with st := st }
def planar (row fmt wid : Nat) (st : TSt) : Tile := { Tile.ofDef (row + fmt * 2 ^ 13 + wid * 2 ^ 17) 0 with st := st }
def setTiles (s : State) (ts : List (Nat × Tile)) : State :=
  s.modStall 0 fun x => { x with tiles := ts.foldl (fun l e => l.set e.1 e.2) x.tiles }
/-- t0 and t1 READY and t2 EMPTY, FP32; t3 and t4 READY, INT8; t5 an EMPTY accumulator; t7 FP32, in no store; t56 a port of the ring t8 and t9. -/
def tiled : State := setTiles mapped
  [(0, word 0 4 0 .ready), (1, word 8 4 0 .ready), (2, word 16 4 0 .empty), (3, planar 24 1 7 .ready), (4, planar 32 1 7 .ready),
   (5, word 40 12 3 .empty), (7, { word 0 4 0 .ready with bank := 31, row := 127 }), (8, word 104 4 0 .empty), (9, word 112 4 0 .empty),
   (56, { Tile.reset with rcnt := 1, rslot := 8 })]
def withOps (l r : W64) : State := ops tiled l r 0
def st0 (s : State) : Stall := s.stallD 0

theorem witness_Tiles : live tiled ∧ (st0 tiled).ringTile 2 = false ∧ (st0 tiled).ringTile 8 = true ∧
    (st0 tiled).placeFault ((st0 tiled).tileD 0) = none ∧ (st0 tiled).placeFault ((st0 tiled).tileD 7) = some .bankRole ∧
    (cx (withOps 255 0)).l.toNat < ((st0 tiled).tileD 0).count ∧ ((st0 tiled).tileD 0).count ≤ (cx (withOps 256 0)).l.toNat ∧
    (Tile.ofDef 0x9000 0).defFault (st0 tiled).roles = none ∧ (Tile.ofDef 0x1000 0).defFault (st0 tiled).roles = some .tileFormat ∧
    (st0 tiled).ringBad 10 57 1 = false ∧ (st0 tiled).ringBad 10 55 1 = true := by decide +kernel
/-- A TDEF of the frame for t0 that has not applied yet. -/
def pending (i : Instr) (l r : W64) : Msg := ⟨i, l, r, 0, 0, 0, 0, (cx tiled).org, [], none⟩
def queued (m : Msg) : State := tiled.modStall 0 fun x => { x with tops := [m] }
theorem witness_Tiles_read : live tiled ∧ (st0 tiled).frameWork 1 0 = false ∧ (st0 tiled).frameTops 1 0 = false ∧
    (st0 (queued (pending (.tdef plain 0) 0x9000 0))).frameTops 1 0 = true ∧ (st0 (queued (pending (.tdef plain 0) 0x9000 0))).frameWork 1 0 = true ∧
    live (queued (pending (.tdef plain 0) 0x9000 0)) ∧ ((st0 tiled).srcTile 0).st = .ready ∧ ((st0 tiled).srcTile 2).st = .empty ∧
    (st0 tiled).bound 56 = true ∧ (st0 tiled).bound 0 = false ∧ ((st0 tiled).tileD 2).st ≠ .ready ∧ ((st0 tiled).tileD 0).st = .ready ∧
    (st0 tiled).pagesIn ((st0 tiled).tileD 0) = true ∧
    (let y := { st0 tiled with resident := List.replicate 128 false }; y.pagesIn (y.tileD 0) = false) := by decide +kernel
/-- Each tile-table operation stands alone in the queue. -/
theorem witness_Tiles_table : ∀ k ∈ [Instr.tdef plain 2, .tfree plain 0, .tsetLnk plain 0, .tsetExp plain 2, .tring plain 10 57 1, .tsetE plain 0],
    let s := queued (pending k 255 0x3F800000)
    s.stall? 0 = some (st0 s) ∧ (st0 s).tops[0]? = some (pending k 255 0x3F800000) ∧ s.stallRuns 0 = true ∧
    (st0 s).opClear (pending k 255 0x3F800000) = true ∧ (st0 s).opState k = true ∧ (st0 s).bound 0 = false ∧
    s.behindMsg (pending k 255 0x3F800000).org = true ∧ (st0 s).ringBad 10 57 1 = false ∧ 255 < ((st0 s).tileD 0).count ∧ (st0 s).placeFault ((st0 s).tileD 0) = none := by decide +kernel
/-- A TFREE of a bound port whose next slot is READY. -/
def ringReady : State := setTiles (queued (pending (.tfree plain 56) 0 0)) [(8, word 104 4 0 .ready)]
theorem witness_Tiles_port : ringReady.stall? 0 = some (st0 ringReady) ∧ ringReady.stallRuns 0 = true ∧
    (st0 ringReady).opClear (pending (.tfree plain 56) 0 0) = true ∧ (st0 ringReady).opState (.tfree plain 56) = true ∧
    (st0 ringReady).bound 56 = true := by decide +kernel
def paged : State := tiled.modStall 0 fun x => { x with resident := x.resident.set 127 false }
theorem witness_Tiles_page : paged.stall? 0 = some (st0 paged) ∧ paged.stallRuns 0 = true ∧ (st0 paged).resident.getD 127 true = false ∧
    (st0 paged).owner = some 0 ∧ (paged.ctx? 0).isSome ∧ ((paged.ctx? 0).getD default).num = 0 ∧ paged.backingLost 0 127 = false := by decide +kernel

def vf : VF3 := ⟨0, 1, 2, true⟩
def pf : PF := ⟨3, 4, 5, false, false, true⟩
/-- Each kind of engine instruction with its checks passing and its tiles ready, with them not ready, and with a check that fails. -/
theorem witness_EngineMessages : live tiled ∧ (st0 tiled).planeCheck (.pmmaI plain pf) = none ∧
    (st0 tiled).planeReady (.pmmaI plain pf) none = true ∧ (st0 tiled).planeReady (.pmmaI plain ⟨3, 4, 5, true, false, true⟩) none = false ∧
    (st0 tiled).planeCheck (.pmmaI plain ⟨0, 4, 5, false, false, true⟩) = some .tileFormat ∧
    (st0 tiled).vecCheck (.vadd plain vf) = none ∧ (st0 tiled).vecReady (.vadd plain vf) = true ∧
    (st0 tiled).vecReady (.vadd plain ⟨0, 2, 1, true⟩) = false ∧ (st0 tiled).vecCheck (.vadd plain ⟨0, 3, 2, true⟩) = some .tileFormat ∧
    tiled.cx? = some (cx tiled) ∧ (st0 tiled).speCheck (.spld plain 0 true) (cx tiled).l = none ∧ (st0 tiled).srcsReady [0] = true ∧
    (st0 tiled).srcsReady [2] = false ∧ (st0 tiled).dstReady 2 false = true ∧ (st0 tiled).dstReady 0 false = false ∧
    (st0 tiled).speCheck (.spld plain 3 true) (cx tiled).l = some .tileFormat ∧
    2048 < ((cx (withOps 0x8010000 0)).l.extractLsb' 16 12).toNat ∧ tiled.speBusy (cx tiled).f = false ∧
    ((tiled.modStall 0 fun x => { x with inSpe := [pending (.spz plain default) 0 0] }).speBusy (cx tiled).f) = true := by decide +kernel

theorem witness_PorterMessages : live tiled ∧ (cx (withOps 0x40 0)).l.toNat % 64 = 0 ∧ (cx (withOps 0x40 0)).l.toNat < 2 ^ 56 ∧
    (cx (withOps 0x41 0)).l.toNat % 64 ≠ 0 ∧ ¬(cx (withOps 0x0100000000000000 0)).l.toNat < 2 ^ 56 ∧
    (st0 tiled).fillReady 2 = true ∧ (st0 tiled).fillReady 0 = false ∧ ((st0 tiled).dstTile 2).packs = true ∧ ((st0 tiled).dstTile 3).packs = false ∧
    (st0 tiled).placeFault ((st0 tiled).dstTile 2) = none ∧ (st0 tiled).bound 56 = true ∧ (st0 tiled).bound 0 = false ∧
    ((st0 tiled).tileD 0).copyForm = ((st0 tiled).tileD 2).copyForm ∧ ((st0 tiled).tileD 0).copyForm ≠ ((st0 tiled).tileD 3).copyForm := by
  decide +kernel
/-- The frame is of an instance of two parts, halls 0 and 1. -/
def parted : State :=
  { (inFrame tiled fun f => { f with inst := some 9 }) with insts := [⟨9, 0, 0, false, true, false, false, 0, 0, 0, [], [], [0, 1], none, 1, [], [], [], []⟩] }
theorem witness_PorterMessages_remote : live parted ∧ (((cx parted).f.inst.bind parted.inst?).map (·.parts.length)).getD 0 = 2 ∧
    (cx parted).l.toNat % 16 < 2 ∧ 2 ≤ (cx (ops parted 2 0 0)).l.toNat % 16 := by decide +kernel

/-- A context that may hold one object, and a descriptor of one leaf, with and without parts. -/
def redCtx (s : State) : State := s.modCtx 0 fun c => { c with params := { c.params with redLimit := 1 } }
def redOne (l : W64) : State := redCtx (ops parted l 7 0)
theorem witness_Reductions : ∀ d ∈ [0x1, 0x100000002], let s := redOne (BitVec.ofNat 64 d)
    live s ∧ (s.ctx? (cx s).f.ctx).isSome ∧ s.red? (hallOfStall (cx s).f.stall) 4095 = none ∧
    (s.reds.filter fun r => r.ctx == (cx s).f.ctx && r.hall == 0).length < ((s.ctx? 0).getD default).params.redLimit ∧
    redDescBad (cx s).l.toNat (max 1 ((((cx s).f.inst.bind s.inst?).map (·.parts)).getD []).length) = false ∧
    (if redSplit d = 0 then 0 else ((((cx s).f.inst.bind s.inst?)).bind fun n => n.part? 0).getD 16) < 2 ^ redSplit d ∧
    s.redParts (cx s).f.inst (redKey d) = [] ∧ (cx s).f.det = false ∧ redSplit 0x100000002 = 1 := by decide +kernel
theorem witness_Reductions_bad : live (redOne 0) ∧
    redDescBad (cx (redOne 0)).l.toNat (max 1 ((((cx (redOne 0)).f.inst.bind (redOne 0).inst?).map (·.parts)).getD []).length) = true := by
  decide +kernel
/-- An object of two leaves in slot 5: in progress, finished, or broken. -/
def object (done broken : Bool) : Red :=
  { rid := 1, hall := 0, slot := 5, ctx := 0, inst := some 9, desc := 2, part := 0, live := true, held := [], acc := none, covered := 0, facc := none,
    total := 0, excess := 0, flags := 0, done := done, result := 7, broken := broken, org := (cx base).org, last := default }
def reducing (l : W64) (done broken : Bool) : State := { redOne l with reds := [object done broken] }
theorem witness_Reductions_object : ∀ d ∈ [true, false], ∀ b ∈ [true, false], let s := reducing 5 d b
    live s ∧ s.redAt (cx s).f.ctx (cx s).l.toNat = some (object d b) ∧ (reducing 6 d b).redAt 0 6 = none ∧
    ¬(redDepth (object d b).d < 0 ∨ redAbsent (object d b).d 0 0 = true) ∧ redDepth (object d b).d < 31 := by decide +kernel

/-! Witnesses: engines at work -/

theorem witness_PlanarArithmetic : (∀ p ∈ [List.replicate 128 (0xFF : Byte)], p.length = 128) ∧ [List.replicate 128 (0xFF : Byte)].length = 1 ∧
    (List.replicate 1024 (1 : Int)).length = 1024 ∧ [List.replicate 1024 (2 ^ 62 : Int)] ≠ [] ∧
    (∀ r ∈ [List.replicate 1024 (2 ^ 62 : Int)], r.length = 1024) := by
  refine ⟨fun p h => ?_, rfl, List.length_replicate, List.cons_ne_nil _ _, fun r h => ?_⟩ <;>
    rw [List.mem_singleton.1 h, List.length_replicate]

/-- The stall with a change of its own. -/
def atStall (f : Stall → Stall) : State := tiled.modStall 0 f
def mma : Msg := pending (.pmmaI plain pf) 0 0
def mmaBad : Msg := pending (.pmmaI plain ⟨0, 4, 5, false, false, true⟩) 0 0
theorem witness_PlaneEngine : ∀ m ∈ [mma, mmaBad], let s := atStall fun x => { x with inPa := [m] }
    s.stall? 0 = some (st0 s) ∧ s.stallRuns 0 = true ∧ (st0 s).pa = none ∧ (st0 s).paNext ≤ (st0 s).cyc ∧
    s.planePick (st0 s) = some m ∧ s.traceHolds m.org 3 = false ∧ ((st0 s).planeCheck m.i).isSome = (m == mmaBad) := by decide +kernel
/-- A message of one chunk of 24 cycles at its end, after failed checks, abandoned, and with the chunk done. -/
def paRun (chunk retried : Nat) (abandoned : Bool) : PaRun := ⟨mma, [3, 4], 5, 0, 24, 24, [24], chunk, [], 0, none, retried, abandoned, 0, 0⟩
theorem witness_PlaneEngine_runs : ∀ n ∈ [0, 1], ∀ k ∈ [1, 2], ∀ b ∈ [true, false],
    let s := atStall fun x => { x with pa := some (paRun n k b), cyc := 23 }
    s.stall? 0 = some (st0 s) ∧ s.stallRuns 0 = true ∧ (st0 s).pa = some (paRun n k b) ∧ (n < (paRun n k b).costs.length ↔ n = 0) ∧
    (n = 0 → (paRun n k b).chunkEnd ≤ (st0 s).cyc + 1) ∧ (paRun n k b).start + (paRun n k b).span ≤ (st0 s).cyc + 1 ∧
    (st0 s).pagesIn ((st0 s).tileD (paRun n k b).tc) = true ∧ s.traceHolds (paRun n k b).m.org 4 = false := by decide +kernel

def vadd : Msg := pending (.vadd plain vf) 0 0
def vaddBad : Msg := pending (.vadd plain ⟨0, 3, 2, true⟩) 0 0
theorem witness_VectorAndSpeEngines : ∀ m ∈ [vadd, vaddBad], let s := atStall fun x => { x with inVec := [m] }
    s.stall? 0 = some (st0 s) ∧ s.stallRuns 0 = true ∧ (st0 s).vec = none ∧ (st0 s).vecNext ≤ (st0 s).cyc ∧
    s.vecPick (st0 s) = some m ∧ (m = vadd → (st0 s).vecCheck m.i = none) ∧ (m = vaddBad → (st0 s).vecCheck m.i = some .tileFormat) ∧
    s.traceHolds m.org 3 = false := by decide +kernel

/-- A message of one row of 8 cycles at its end, after failed checks, and with the row done. -/
def vecRun (n retried : Nat) (abandoned : Bool) : VecRun := ⟨vadd, [0, 1], [(2, [])], 0, 8, 8, [8], n, 0, retried, abandoned, 0⟩
theorem witness_VectorAndSpeEngines_rows : ∀ n ∈ [0, 1], ∀ k ∈ [1, 2],
    let s := atStall fun x => { x with vec := some (vecRun n k false), cyc := 7 }
    s.stall? 0 = some (st0 s) ∧ s.stallRuns 0 = true ∧ (st0 s).vec = some (vecRun n k false) ∧ (n < (vecRun n k false).costs.length ↔ n = 0) ∧
    (n = 0 → (vecRun n k false).rowEnd ≤ (st0 s).cyc + 1) ∧ (vecRun n k false).start + (vecRun n k false).span ≤ (st0 s).cyc + 1 ∧
    (vecRun n k false).outs = [(2, [])] ∧ (st0 s).pagesIn ((st0 s).tileD 2) = true ∧ s.traceHolds (vecRun n k false).m.org 4 = false := by decide +kernel
def spz : Msg := pending (.spz plain false) 0x10000 0
def speRunning (retried : Nat) : SpeRun := ⟨spz, 0, 1, [(0, 0)], none, [], 0, 1, [], false, retried⟩
theorem witness_VectorAndSpeEngines_spe : let s := atStall fun x => { x with inSpe := [spz] }
    s.stall? 0 = some (st0 s) ∧ s.stallRuns 0 = true ∧ (st0 s).inSpe = [spz] ∧ (st0 s).speNext ≤ (st0 s).cyc ∧ (st0 s).spe = [] ∧
    (st0 s).speFresh spz = false ∧ s.behindMsg spz.org = true ∧ (st0 s).topsClear spz = true ∧ (st0 s).speReady spz = true ∧ s.traceHolds spz.org 3 = false ∧ (st0 s).speCheck spz.i spz.l = none ∧
    (st0 s).speLost spz = false := by decide +kernel
theorem witness_VectorAndSpeEngines_spe_ends : ∀ k ∈ [1, 2], let s := atStall fun x => { x with spe := [speRunning k], cyc := 1 }
    s.stall? 0 = some (st0 s) ∧ (st0 s).speDue = some (speRunning k) ∧ (speRunning k).m.i.tree? = none ∧ s.traceHolds (speRunning k).m.org 4 = false := by decide +kernel

/-! Witnesses: what engine messages compute -/

def vec3 : VF3 := ⟨0, 1, 2, true⟩
def vec2 : VF2 := ⟨0, 2, true⟩
/-- t0, t1 and t2 of one format and one row, t3 INT32, t4 INT32 of four rows. -/
def alike (fmt : Nat) : State := setTiles mapped
  [(0, word 0 fmt 0 .ready), (1, word 8 fmt 0 .ready), (2, word 16 fmt 0 .empty), (3, word 24 11 0 .ready), (4, word 32 11 3 .ready)]
def elementwise : List Instr := [.vadd plain vec3, .vsub plain vec3, .vmul plain vec3, .vfma plain vec3, .vfms plain vec3, .vmin plain vec3, .vmax plain vec3,
  .vdiv plain vec3, .vabs plain vec2, .vneg plain vec2, .vred plain vec2 .add true, .vred plain vec2 .max false, .vscan plain vec2 .min true,
  .vscan plain vec2 .add false]
theorem witness_PlanarArithmetic_product : (∀ f ∈ [Instr.pmmaI plain pf, .pmvI plain pf, .pzacc plain 5 true true], (st0 tiled).planeCheck f = none) ∧
    Instr.product? (.pmmaI plain pf) = some (.i, false, pf) ∧ (st0 (setTiles mapped [(3, planar 24 1 7 .ready), (5, word 40 11 0 .empty)])).planeCheck (.pwmap plain 3 5 true) = none := by
  decide +kernel
/-- The elementwise forms on integers; their sources and destination are of class I. -/
theorem witness_VectorResults_integers : (∀ i ∈ elementwise ++ [.vand plain vec3, .vor plain vec3, .vxor plain vec3, .vshl plain vec2 (.imm 31),
      .vshr plain vec2 (.imm 31) true, .vshl plain vec2 (.tile 1), .vshr plain vec2 (.tile 1) false, .vpopc plain vec2, .vcmp plain vec3 .ltu],
      (st0 (alike 11)).vecCheck i = none) ∧ ((st0 (alike 11)).srcTile 0).fmt = 11 := by decide +kernel
theorem witness_VectorResults_moves : ∀ i ∈ [Instr.vbcast plain none 2 true, .vbcast plain (some 0) 2 true, .vperm plain vec3, .vsel plain vec3, .viota plain 2 true,
      .visect plain vec3, .vpfx plain vec2 none, .vpfx plain vec2 (some 1), .vgat plain vec3 false, .vgat plain ⟨0, 4, 2, true⟩ true, .vsct plain vec3,
      .vdot8 plain vec3], (st0 (alike 11)).vecCheck i = none := by decide +kernel
/-- The forms on FP32, some alone for class F. -/
theorem witness_VectorResults_floats : (∀ i ∈ elementwise ++ [.vrcp plain vec2, .vrsq plain vec2, .vsqrt plain vec2, .vexp2 plain vec2, .vlog2 plain vec2,
      .vscl plain vec3 true, .vcmp plain ⟨0, 1, 3, true⟩ .un], (st0 (alike 4)).vecCheck i = none) ∧ ((st0 (alike 4)).dstTile 2).fmt ≠ 11 := by
  decide +kernel
/-- Conversions: t0 of a format into t2 of another, and between words and planes. -/
theorem witness_VectorConversions : (∀ e ∈ [(4, 5), (4, 11), (11, 4), (12, 6), (11, 12), (12, 11)],
      (st0 (setTiles mapped [(0, word 0 e.1 0 .ready), (2, word 16 e.2 0 .empty)])).vecCheck (.vcvt plain vec2) = none) ∧
    (∀ e ∈ [(1, 11), (0, 4)], (st0 (setTiles mapped [(0, planar 0 e.1 7 .ready), (2, word 16 e.2 3 .empty)])).vecCheck (.vdqnt plain vec2) = none) ∧
    (let scaled := { planar 0 3 7 .ready with sc := true, scl := 1 }
     (st0 (setTiles mapped [(0, scaled), (1, word 8 11 0 .ready), (2, word 16 4 3 .empty)])).vecCheck (.vdqnt plain vec2) = none) ∧
    (st0 (setTiles mapped [(0, word 0 4 3 .ready), (2, planar 16 1 7 .empty)])).vecCheck (.vqnt plain vec3 false) = none ∧
    (let scaled := { planar 16 3 7 .empty with sc := true, scl := 1, wmv := true, wml := 3 }
     (st0 (setTiles mapped [(0, word 0 4 3 .ready), (1, word 40 11 0 .empty), (2, scaled), (3, word 48 11 0 .empty)])).vecCheck (.vqnt plain vec3 true) = none) := by
  decide +kernel
theorem witness_SpeResults : (0x3F80 : Nat) < 2 ^ 16 ∧ (st0 tiled).speCheck (.spst plain 2 true) 0x10000 = none := by decide +kernel
/-- Each check of EngineMessages is met by some tiles and failed by others. -/
theorem witness_EngineMessages_checks : Instr.product? (.pmmaI plain pf) = some (.i, false, pf) ∧ (st0 tiled).planeCheck (.pmmaI plain pf) = none ∧
    (st0 tiled).planeCheck (.pmmaI plain ⟨0, 4, 5, false, false, true⟩) = some .tileFormat ∧
    (st0 (alike 4)).vecCheck (.vadd plain ⟨0, 3, 2, true⟩) = some .tileFormat ∧ (st0 (alike 11)).vecCheck (.vadd plain ⟨0, 1, 1, true⟩) = some .tileRange ∧
    (st0 tiled).speCheck (.spz plain true) 0x8010000 = some .illegalOperand := by decide +kernel

/-! Witnesses: porter jobs and reductions -/

def pcpy : Msg := pending (.pcpy plain 0) 0x40 0
def bar : Msg := pending (.pbar plain none) 0 0
/-- What the acceptance of a job finds: 0 no card, 1 one that is rejected, 2 one that is good. -/
def cardOf (s : State) (m : Msg) : Nat :=
  let left := { s with stalls := s.stalls.map fun (e : Nat × Stall) => if e.1 = 0 then (e.1, { e.2 with inPor := e.2.inPor.erase m }) else e }
  match left.readCard m with
  | none => 0
  | some (a, card) =>
    match (((left.translated 0 m.org.ctx m.l.toNat).accessDone 0 a false).served 0 m.org.ctx [a.pa] false).cardReject m card with
    | some _ => 1
    | none => 2
/-- The inbox holds a barrier, a job whose card cannot be read, one whose card breaks a reserved field, and one whose card is good. -/
theorem witness_Porter_accept : (let s := atStall fun x => { x with inPor := [bar] }
      s.stall? 0 = some (st0 s) ∧ s.stallRuns 0 = true ∧ (st0 s).inPor.find? (fun m => m.i.hasCard || m.i.isBar) = some bar ∧ bar.i.isBar = true) ∧
    ∀ e ∈ [(pending (.pcpy plain 0) 0x100000 0, 0, 0), (pcpy, 0xFF00000000000000, 1), (pcpy, 0, 2)],
      let s := (atStall fun x => { x with inPor := [e.1] }).wrLE 0x1000040 8 e.2.1
      s.stall? 0 = some (st0 s) ∧ s.stallRuns 0 = true ∧ (st0 s).inPor.find? (fun m => m.i.hasCard || m.i.isBar) = some e.1 ∧ e.1.i.isBar = false ∧
      s.behindMsg e.1.org = true ∧ s.footprints 0 < 4096 ∧ s.traceHolds e.1.org 5 = false ∧ cardOf s e.1 = e.2.2 ∧ CanReport s e.1.org := by
  unfold CanReport; decide +kernel

/-- A job of the message, as accepted. -/
def jobOf (m : Msg) (card : List W64) : Job := Job.made 3 1 m card .accepted []
/-- The card of a copy of 8 bytes from VA 0 to VA 0x1000; its source may be a page that is only executable, or one that none maps. -/
def copyCard (src : W64) : List W64 := [src, 0, 0x1000, 8, 0x800000008, 0x000100010001, 0, 0]
def running (src : W64) (r : Option Round) : Job := { jobOf pcpy (copyCard src) with st := .running, total := 8, round := r }
def tzero : Msg := pending (.tzero plain 2 false) 0 0
theorem witness_Porter_run : let s := atStall fun x => { x with jobs := [jobOf pcpy (copyCard 0)] }
    s.stall? 0 = some (st0 s) ∧ s.stallRuns 0 = true ∧
    ((st0 s).jobs.filter fun (k : Job) => k.st == .running || k.st == .paused).length < 4 ∧
    s.startPick 0 = some (pcpy, some (jobOf pcpy (copyCard 0))) ∧ s.cardReject pcpy (copyCard 0) = none ∧ pcpy.i.isXrecv = false ∧
    (jobOf pcpy (copyCard 0)).m = pcpy ∧ (st0 s).placeFaults ((st0 s).jobTiles pcpy.i (copyCard 0)) = none := by
  decide +kernel
theorem witness_Porter_run_tzero : let s := atStall fun x => { x with inPor := [tzero] }
    s.startPick 0 = some (tzero, none) ∧ s.xrecvBad (st0 s) tzero = false ∧
    (st0 s).placeFaults (tzero.i.dstTiles.map (st0 s).dstTile ++ tzero.i.srcTiles.map (st0 s).srcTile) = none := by decide +kernel
/-- A PLD whose tile stands in no store. -/
theorem witness_Porter_run_bank : let m := pending (.pld plain 7 false 0) 0x40 0
    let card : List W64 := [0, 0, 0, 0, 0, 0, 0, 0x300000000]
    let s := atStall fun x => { x with jobs := [jobOf m card], tiles := x.tiles.set 7 { x.tileD 7 with st := .empty } }
    s.startPick 0 = some (m, some (jobOf m card)) ∧ s.cardReject m card = none ∧ (st0 s).placeFaults ((st0 s).jobTiles m.i card) = some .bankRole ∧
    CanReport s m.org := by unfold CanReport; decide +kernel
/-- The class a job's first round faults with, or 0 where it starts. -/
def roundCls (s : State) (j : Job) : Nat :=
  match s.roundOf (st0 s) j 0 8 with
  | .error e => e.cls
  | .ok b => match s.reserveAll j (b.writes.filterMap (·.acc?)) with | .ok _ => 0 | .error _ => 1
theorem witness_Porter_rounds : (let j := running 0 none
      let s := atStall fun x => { x with jobs := [j] }
      (st0 s).roundPick = some j ∧ j.port = none ∧ (st0 s).pagesFor ((j.dests ++ j.srcs).map (st0 s).tileD) = true ∧ s.roundEnd (st0 s) j = 8 ∧ roundCls s j = 0) ∧
    (let j := running 0x100000 none
      let s := atStall fun x => { x with jobs := [j] }
      (st0 s).roundPick = some j ∧ roundCls s j = Cls.syncMisuse) ∧
    (let r : Round := ⟨[.mem (accAt 0x1000000 0x1000 8 false 0) (List.replicate 8 0)], 8, 8, [], [], []⟩
      let j := running 0 (some r)
      let s := atStall fun x => { x with jobs := [j] }
      (st0 s).jobs.find? (fun (k : Job) => k.id == j.id) = some j ∧ j.round = some r ∧ s.roundWaits r = false ∧ j.reclaimed = false ∧ s.ok = true ∧ s.storesOk = true ∧ s.stall? 0 = some (st0 s) ∧ s.stallRuns 0 = true ∧
      (∀ a ∈ r.writes.filterMap (·.acc?), s.accGone a = false ∧ s.accLost a false = false ∧ ∀ l ∈ a.locs, l.hp = false)) := by decide +kernel
def zeroing : Job := { jobOf tzero [] with st := .running, dests := [2] }
theorem witness_Porter_complete : let s := atStall fun x => { x with jobs := [zeroing], cyc := 8 }
    s.stall? 0 = some (st0 s) ∧ s.stallRuns 0 = true ∧ (st0 s).jobs.find? (fun (k : Job) => k.id == zeroing.id) = some zeroing ∧
    (st0 s).jobDone zeroing = true ∧ s.traceHolds zeroing.m.org 5 = false ∧ zeroing.settled = false ∧ s.farXsend zeroing = false ∧ zeroing.m.i = .tzero plain 2 false ∧
    zeroing.dests = [2] ∧ 2 < (st0 s).tiles.length ∧ ((st0 s).tileD 2).sides = [] ∧ (st0 s).filledBy zeroing.id 2 = false ∧ s.storesOk = true ∧ ((st0 s).tileD 2).inStore (st0 s).roles = true := by decide +kernel

/-- A PCPY whose bytes are copied, with each action; its hurdle on a sync page, misaligned, and on a page of another kind. -/
def acting (cpl : BitVec 2) (r : W64) : Job :=
  { jobOf (pending (.pcpy plain cpl) 0x40 r) (copyCard 0) with st := .running, total := 8, pos := 8 }
/-- Where a `.snd` goes: 0 a word that names nothing, 1 a node, 2 an ingress. -/
def sndKind (s : State) (j : Job) : Nat :=
  match s.sendTarget j.m.org.ctx j.m.org.inst j.m.org.heat j.m.org.keep j.m.r.toNat with | .bad _ => 0 | .node _ _ _ _ => 1 | .ingress _ => 2
theorem witness_Porter_action : ∀ e ∈ [((1 : BitVec 2), 0x1FFFF0), (1, 0x1FFFF8), (1, 0), (2, 0x400000000), (3, 5)],
    let j := acting e.1 (BitVec.ofNat 64 e.2)
    let s := atStall fun x => { x with jobs := [j] }
    s.stall? 0 = some (st0 s) ∧ s.stallRuns 0 = true ∧ (st0 s).jobs.find? (fun (k : Job) => k.id == j.id) = some j ∧ (st0 s).jobDone j = true ∧
    s.traceHolds j.m.org 5 = false ∧ s.farXsend j = false ∧ j.m.org.stall = 0 ∧ j.m.i.cpl = e.1 ∧ CanReport s j.m.org ∧ s.launch? 0 5 = none ∧
    (e.1 = 2 → sndKind s j = 0) := by unfold CanReport; decide +kernel
theorem witness_Porter_action_hurdle : (match tiled.pagePa 0 0 0x1FFFF0 with
      | .ok (pa, a) => (tiled.pageCheck ⟨true, true, true, false, false⟩ pa a).isNone | .error _ => false) = true ∧
    (match tiled.pagePa 0 0 0 with | .ok (pa, a) => (tiled.pageCheck ⟨true, true, true, false, false⟩ pa a).isSome | .error _ => false) = true := by
  decide +kernel
/-- A node's input with and without a credit, and a launch whose gate is 1. -/
theorem witness_Porter_action_goes : (∀ n ∈ [0, 1], let j := { acting 2 0 with m := { (acting 2 0).m with org := { (cx tiled).org with inst := some 9 } } }
      let s := { (atStall fun x => { x with jobs := [j] }) with
        insts := [⟨9, 0, 0, false, true, false, false, 0, 0, 0, [⟨0, 1, 0, 0, 0, [n], [1], []⟩], [], [0], none, 1, [], [], [], []⟩] }
      sndKind s j = 1 ∧ s.credits 9 0 0 = n ∧ s.nodeFar 9 0 = false ∧ (st0 s).jobDone j = true) ∧
    (let s := { (atStall fun x => { x with jobs := [acting 3 5] }) with launches := [{ Launch.taken 0 5 with gate := 1 }] }
     (s.launch? 0 5).map (·.gate) = some 1) := by decide +kernel

/-- INT64 sums that pass the range, an INT64 maximum and minimum, and 1.0 + 2.0. -/
theorem witness_Reductions_ops : redInt 0x4000001 = true ∧ redOp 0x4000001 = 0 ∧ redOp 0x5000001 = 1 ∧ redOp 0x6000001 = 2 ∧ redInt 1 = false ∧
    redOp 1 = 0 ∧ binValue 8 23 0x3F800000 = some 1 ∧ binValue 8 23 0x40000000 = some 2 ∧ ((1 : Rat) + 2 ≠ 0) := by decide +kernel
/-- An object of two leaves in slot 5 that holds leaf 1 or nothing, and leaf 0's contribution. -/
def contributing (held : List (Nat × Nat × W64)) (broken : Bool) : State :=
  { sent parted (.contribution 0 5 1 0 0 7) with reds := [{ object false broken with inst := none, held := held }] }
theorem witness_ReductionTraffic : ∀ held ∈ [[], [(0, 1, (9 : W64))], [(0, 0, 9)]], ∀ b ∈ [true, false], let s := contributing held b
    let w := s.flight.headD default
    let r := { object false b with inst := none, held := held }
    s.flight[0]? = some w ∧ w.cargo = .contribution 0 5 1 0 0 7 ∧ s.behind w.org.fid w.id = true ∧ s.red? 0 5 = some r ∧ r.rid = 1 ∧ r.live = true ∧
    redOwner r.d 0 0 = r.part ∧ redArrival r.d = false ∧ 0 < r.topLevel ∧ redAbsent r.d 0 1 = false ∧
    ({ s with flight := [] } : State).nodeStore 0 < 16384 ∧ redNar r.d = 0 ∧ redSplit r.d = 0 ∧ 0 + 1 = redDepth r.d ∧
    (sent parted (.contribution 0 5 1 0 0 7)).red? 0 5 = none := by decide +kernel
/-- One part of an object of two, and what the other part sends; a tile sent to a hall whose store is empty, full, or has it. -/
def part0 : Red := { object false false with desc := 0x100000004 }
def tileMsg : RemoteTile := { inst := 9, src := 0, dst := 1, chan := 0, sqn := 0, lay := true, fmt := 4, wid := 0, shape := 0, sc := false,
                              afl := 0, image := [] }
def parts (g : Cargo) : State := { sent parted g with reds := [part0] }
theorem witness_ReductionTraffic_parts : (∀ g ∈ [Cargo.forward 9 0 0 1 1 7 0x100000004 0, .partValue 9 0 0 2 7 0x100000004 0, .result 9 0 0 7 0x100000004 0],
      (parts g).flight[0]? = some ((parts g).flight.headD default) ∧ ((parts g).flight.headD default).cargo = g ∧ ((parts g).inst? 9).isSome ∧
      (parts g).redMeet 9 0 0 0x100000004 = some (part0, false) ∧ part0.broken = false) ∧
    (∀ e ∈ [Cargo.forward 8 0 0 1 1 7 0 0, .partValue 8 0 0 2 7 0 0, .result 8 0 0 7 0 0], (parts e).inst? 8 = none) ∧
    (parts (.xmsg { tileMsg with inst := 8 })).inst? 8 = none := by
  decide +kernel
def hallWith (store : List RemoteTile) : State :=
  { sent parted (.xmsg tileMsg) with halls := parted.halls.map fun h => { h with xstore := store } }
theorem witness_ReductionTraffic_tiles : ∀ l ∈ [[], [tileMsg], List.replicate 256 { tileMsg with chan := 1 }], let s := hallWith l
    s.flight[0]? = some (s.flight.headD default) ∧ (s.flight.headD default).cargo = .xmsg tileMsg ∧ (s.inst? 9).isSome ∧
    (s.halls[1]?).isSome ∧ ([0, 1].getD 1 0 = 1) := by decide +kernel
theorem witness_ReductionTraffic_keys : tileMsg.key ≠ ({ tileMsg with chan := 1 } : RemoteTile).key ∧ 256 ≤ (List.replicate 256 tileMsg).length := by
  decide +kernel

/-- A card of a region at 0 to read, one at 0x800 for its index, map or metadata, and one at 0x1000 to write, in 16 bytes of a pattern. -/
def anyCard (xop : Nat) : List W64 :=
  [0, 0x800, 0x1000, 0x10000000400, 0x1000000400, 0x000100010004, 16, BitVec.ofNat 64 (xop * 2 ^ 32)]
def anyJob (i : Instr) (xop : Nat) (dests srcs : List Nat) : Job :=
  { jobOf (pending i 0x40 0) (anyCard xop) with st := .running, total := 1024, dests := dests, srcs := srcs }
/-- Whether the round of the bytes from `lo` to `hi` is built: 0 a fault, 1 a round. -/
def built (j : Job) (lo hi : Nat) : Nat := match tiled.roundOf (st0 tiled) j lo hi with | .ok _ => 1 | .error _ => 0
theorem witness_PorterRounds_contents : ∀ e ∈ [(anyJob (.pld plain 2 false 0) 3 [2] [], 16), (anyJob (.pcpy plain 0) 0 [] [], 16),
      (anyJob (.pst plain 0 false 0) 0 [] [0], 16), (anyJob (.pld plain 3 false 0) 1 [3] [], 128), (anyJob (.prdc plain 0 false 0) 1 [] [0], 16),
      (anyJob (.pxpd plain 2 false 0) 0 [2] [], 16), (anyJob (.pcmp plain 0 false 0) 0 [] [0], 16), (anyJob (.pgat plain 2 false 0) 0 [2] [], 16),
      (anyJob (.psct plain 0 false 0) 0 [] [0], 16)], 0 < e.2 ∧ built e.1 0 e.2 = 1 := by decide +kernel
theorem witness_PorterRounds_index : (match tiled.jobRead (anyJob (.pgat plain 2 false 0) 0 [2] []) {} 0x800 4 with | .ok _ => true | .error _ => false) = true ∧
    0 < cN0 (anyCard 0) ∧ 0 / cN0 (anyCard 0) = (16 - 1) / cN0 (anyCard 0) ∧ ((st0 tiled).tileD 3).fmt ≠ 3 ∧ 0 < ((st0 tiled).tileD 2).elemBytes ∧
    (∀ k, k < 16 → 0 ≤ patAddr (anyCard 0) 0 k) := by decide +kernel
theorem witness_PorterRounds_stream : 0 % 1024 + (16 - 0) ≤ 1024 ∧
    (match tiled.roundIn (anyJob (.pstrmIn plain 56 0) 0 [8] []) 1024 0 16 [8] with | .ok _ => true | .error _ => false) = true ∧
    (match tiled.roundOut (st0 tiled) (anyJob (.pstrmOut plain 56 0) 0 [] [8]) 1024 0 16 [8] with | .ok _ => true | .error _ => false) = true := by
  decide +kernel


/-! Witnesses: system words and faults -/

theorem witness_Traps : base.cx? = some (cx base) ∧ plain.off (cx base) = false ∧ (⟨.onTrue, none, none⟩ : Hd).off (cx base) = true := by decide +kernel
/-- Record 7 of context 0, in log slot 0, that holds frame 5. -/
def record (status : Nat) : Rec :=
  { rid := 7, ctx := 0, hall := 0, cls := Cls.trap, flags := 4, stall := 0, eng := 0, slot := 0, org := (cx base).org, fsq := 0, va := 0, pa := none, heat := 0,
    extra := 0, heldFid := some 5, jobRef := none, logSlot := some 0, status := status }
/-- Frame 1 handles that record; frame 5 is held. -/
def heldFrame : Frame := { (cx base).f with fid := 5, held := true, place := .callroom }
def handling (s : State) : State :=
  { (inFrame s fun f => { f with handler := true, record := some 7 }) with
    recs := [record 2], frames := [{ (cx s).f with handler := true, record := some 7 }, heldFrame], nextId := 8 }
theorem witness_SystemWords : live base ∧ (cx base).f.handler = false ∧ live (handling base) ∧ (cx (handling base)).f.handler = true ∧
    (handling base).recordOf (cx (handling base)).f = some (record 2) ∧ (cx (handling base)).b.exits = [] := by decide +kernel

/-- Frames with and without folds owed and SPE messages on their way. -/
theorem witness_ControlRegisters : live base ∧ (base.ctx? (cx base).f.ctx).isSome ∧ (cx base).f.folds = 0 ∧ base.speBusy (cx base).f = false ∧
    (cx (inFrame base fun f => { f with folds := 1 })).f.folds ≠ 0 ∧
    (tiled.modStall 0 fun x => { x with inSpe := [pending (.spz plain false) 0 0] }).speBusy (cx tiled).f = true ∧ (cx base).f.handler = false ∧
    (cx (handling base)).f.handler = true ∧ (record 2).ctx = (cx (handling base)).f.ctx ∧ (record 2).logSlot = some 0 ∧
    (record 2).heldFid = some 5 ∧ (handling base).frame? 5 = some heldFrame := by decide +kernel
/-- The block of a handler frame with the four registers as they stood at its entry, and one mapped ahead. -/
theorem witness_ControlRegisters_entry : ∀ ahead ∈ [true, false], let s := inBlock (handling base) fun b => { b with entry := [16, 1, 63, 0], spec := ahead }
    live s ∧ (cx s).f.handler = true ∧ (cx s).b.spec = ahead ∧ (cx s).b.entry[3]? = some 0 := by decide +kernel
/-- Values at the ends of what PP, FCSR, SPC and HENTRY take, and just past them. -/
theorem witness_ControlRegisters_writes : (cx (ops base 0x1010 0 0)).l.toNat % 32 = 16 ∧ (cx (ops base 0x1010 0 0)).l.toNat / 256 % 32 = 16 ∧
    (cx (ops base 0x1110 0 0)).l.toNat / 256 % 32 = 17 ∧ (cx (ops base 4 0 0)).l.toNat % 8 = 4 ∧ (cx (ops base 5 0 0)).l.toNat % 8 = 5 ∧
    (cx (ops base 0x20000 0 0)).l.toNat / 65536 % 4 = 2 ∧ (cx (ops base 0x30000 0 0)).l.toNat / 65536 % 4 = 3 ∧
    (base.ctx? 0).map (·.hentry) = some 0 ∧ (cx (ops base 16 0 0)).l.toNat % 16 = 0 ∧ (cx (ops base 8 0 0)).l.toNat % 16 ≠ 0 := by decide +kernel

/-- A fault log of one slot, or of none. -/
def logged (n : Nat) (hentry : Nat) : State :=
  base.modCtx 0 fun c => { c with params := { c.params with faultLog := ⟨0, 64 * n⟩ }, hentry := hentry }
theorem witness_FaultRecords : ∀ n ∈ [0, 1], ∀ h ∈ [0, 0x300000], (logged n h).block? 2 = some (cx base).b ∧
    (logged n h).frame? (cx base).b.fid = some (cx base).f ∧ ((logged n h).ctx? (cx base).f.ctx).isSome ∧ (cx base).b.spec = false ∧
    (logged n h).recs = [] ∧ (cx base).f.stall / 512 < (logged n h).halls.length ∧
    (((logged n h).ctx? 0).bind (·.freeLogSlot)) = (if n = 0 then none else some 0) := by decide +kernel
/-- The largest values of a record's fields. -/
theorem witness_FaultRecords_layout : let o := { (record 2).org with blk := 2 ^ 56 - 1, ctx := 511, fref := 2 ^ 24 - 1, iter := 2 ^ 32 - 1 }
    let r := { record 2 with cls := 65535, slot := 255, eng := 15, stall := 2047, flags := 255, va := 2 ^ 56 - 1, heat := 65535, org := o }
    r.cls < 65536 ∧ r.slot < 256 ∧ r.eng < 16 ∧ r.stall < 2048 ∧ r.flags < 256 ∧ r.org.blk < 2 ^ 56 ∧ r.va < 2 ^ 56 ∧ r.org.ctx < 512 ∧
    r.org.fref < 2 ^ 24 ∧ r.heat < 65536 ∧ r.org.iter < 2 ^ 32 := by decide +kernel
/-- The record waits in the log for a handler frame. -/
def waiting : State := { logged 1 0x300000 with recs := [{ record 1 with rid := 97, fsq := (record 1).fsq + 1 }, record 1] }
theorem witness_HandlerRuns : record 1 ∈ waiting.recs ∧ (record 1).hall = 0 ∧ (record 1).status = 1 ∧
    (∀ q ∈ waiting.recs, q.hall = 0 → q.status = 1 →
      q = record 1 ∨ ((record 1).fsq - (waiting.hallD 0).fsq).toNat < (q.fsq - (waiting.hallD 0).fsq).toNat) ∧
    (waiting.ctx? (record 1).ctx).isSome ∧ (waiting.ctx? 0).map (·.hentry) = some 0x300000 ∧ (record 1).eng ≠ 7 ∧
    (waiting.ctx? 0).map (fun x => decide ((record 1).org.stall ∈ x.params.pitch)) = some true ∧ 0 < (waiting.hallD 0).hfree ∧
    0 < waiting.halls.length ∧ (∀ g ∈ waiting.frames, g.fid < waiting.nextId) ∧ waiting.callRoom 0 waiting.nextId < 8192 := by decide +kernel
/-- The record of lower FSQ comes first, whatever the order of the list (R435). -/
theorem test_handler_frames_in_fsq_order :
    (match exec (.handlerFrameCreate 0) waiting with | .next t => (t.frames.filter (·.handler)).map (·.record) | _ => []) = [some 7] := by decide +kernel
/-- The handler's block has fired each kind of exit and can commit. -/
def returning (e : Exit) : State := inBlock (handling base) fun b => { b with exits := [(0, e)], slots := [⟨none, none, none, true⟩] }
theorem witness_HandlerRuns_return : ∀ e ∈ [Exit.eret 0 0 0, .eret 1 0 0, .eret 2 0x300000 9, .fend], let s := returning e
    s.block? 2 = some (cx s).b ∧ s.frame? (cx s).b.fid = some (cx s).f ∧ s.stallRuns 0 = true ∧ s.mayCommit (cx s).b (cx s).f = true ∧
    (cx s).b.effs = [] ∧ (cx s).f.handler = true ∧ (cx s).f.parent = none ∧ (cx s).f.inlineKids = [] ∧ (cx s).f.cell = none ∧
    s.recordOf (cx s).f = some (record 2) ∧ (record 2).jobRef = none ∧ (record 2).heldFid = some heldFrame.fid ∧
    s.frame? heldFrame.fid = some heldFrame ∧ heldFrame.held = true ∧ heldFrame.fid ≠ (cx s).f.fid ∧ (cx s).b.exits = [(0, e)] ∧
    heldFrame.parent = none := by decide +kernel

/-! Witnesses: from call room to commit -/

/-- Frames with changes of their own, and no block. -/
def frames (l : List Frame) : State := { mapped with frames := l, blocks := [], nextId := 20 }
def fr (fid : Nat) (place : Place) : Frame := { (cx base).f with fid := fid, place := place }
theorem witness_FrameServing : ∀ det ∈ [true, false], ∀ cyc ∈ [0, 65536],
    let s := (frames [fr 1 .callroom, { fr 4 .callroom with det := det }]).modStall 0 fun x => { x with cyc := cyc }
    s.stallRuns 0 = true ∧ s.engineUse 0 < 4 ∧ (s.frames.filter fun f => f.stall == 0 && f.inTable).length < 64 ∧
    (∀ f ∈ s.frames, f.stall = 0 ∧ s.frameReady f = true ∧ (f.since + 65536 ≤ (st0 s).cyc ↔ cyc = 65536)) ∧ s.blockOf 1 = none ∧
    (s.stall? 0).isSome := by decide +kernel
/-- A parked block of a ready frame, with a token on its way to it; and frames on the overflow list. -/
theorem witness_FrameServing_parked : let s := inBlock (inFrame mapped fun f => { f with place := .callroom }) fun b =>
      { b with parked := true, transit := [default] }
    s.blockOf 1 = some (cx s).b ∧ s.block? 2 = some (cx s).b ∧ (cx s).b.transit ≠ [] ∧ s.frameReady (cx s).f = true := by decide +kernel
theorem witness_FrameServing_overflow : let s := frames [fr 1 .overflow, { fr 4 .overflow with det := true, prio := 1 }]
    s.callRoom 0 0 < 8192 ∧ ∀ f ∈ s.frames, f.stall / 512 = 0 ∧ f.place = .overflow := by decide +kernel

/-- A frame before a block at an executable page, a page that is not, or a page that none maps; the block is one word of FEND. -/
def before (va : Nat) : State :=
  { (frames [{ fr 1 .resident with next := va }]) with
    mem := putBytes [] 0x4000000 (bytesLE (1 + 16 + 2 ^ 32 * 0) 16 ++ bytesLE 0x0E00000000000000 8) }
def frameOf (s : State) : Frame := s.frames.headD default
theorem witness_BlockFetches : (∀ va ∈ [0x300000, 0x0, 0x400000], let s := before va
      s.frame? (frameOf s).fid = some (frameOf s) ∧ (frameOf s).place = .resident ∧ (frameOf s).fetched = none ∧ (frameOf s).fetching = false ∧
      s.blockOf (frameOf s).fid = none ∧ s.stallRuns (frameOf s).stall = true ∧ (s.ctx? (frameOf s).ctx).isSome ∧
      (va = 0x400000 ↔ s.lookupVa 0 0 va = none) ∧ (s.ctx? 0).map (·.params.debuggable) = some false) ∧
    ((before 0x300000).lookupVa 0 0 0x300000).map (·.2.x) = some true ∧ ((before 0x300000).lookupVa 0 0 0).map (·.2.x) = some false ∧
    bits (readLE (before 0x300000).rd8 0x4000000 16) 11 4 = 1 ∧ 0x300000 % 4096 + 16 + 8 * 1 ≤ 4096 ∧
    ((List.range 24).all fun i => !(before 0x300000).sectorLost (0x4000000 + i)) = true := by decide +kernel
/-- A breakpoint at the frame's next block, and the frame watched. -/
theorem witness_BlockFetches_stop : let s := (before 0x300000).modCtx 0 fun c => { c with params := { c.params with debuggable := true }, bps := c.bps.set 7 0x300001 }
    (s.ctx? 0).map (·.params.debuggable) = some true ∧ (frameOf s).pass = false ∧ (frameOf s).loop = none ∧
    (s.ctx? 0).map (fun x => x.bps.any fun e => e.getLsbD 0 && (e.extractLsb' 4 52).toNat == (frameOf s).next / 16) = some true := by decide +kernel
/-- A walk for a slot, for an LDS and for a fetch, over a leaf of 1 GiB or over nothing. -/
def walk (who : WalkFor) : Walk := ⟨9, 0, 0x40000000, 0, who, false, 0, 0x40000000⟩
def walking (who : WalkFor) (l1 : Nat) : State :=
  let s := { mapped with walks := [walk who] }.modCtx 0 fun c => { c with params := { c.params with rtp := 0x100000 } }
  (s.wrLE 0x100000 8 0x200001).wrLE 0x200008 8 l1
theorem witness_BlockFetches_walks : ∀ w ∈ [WalkFor.slot 2 0 false, .slot 2 0 true, .fetch 1], ∀ e ∈ [0, 0x4000000F],
    (walking w e).walks.find? (·.id == (walk w).id) = some (walk w) ∧ (walk w).stall / 512 < (walking w e).halls.length ∧
    ((walking w e).stall? 0).isSome ∧ (walk w).va < 2 ^ 56 ∧ (walking w e).block? 2 = some (cx mapped).b ∧
    (walking w e).frame? 1 = some (cx mapped).f ∧
    ((walking w e).walkVa 0 0x40000000).toOption = (if e = 0 then none else some ⟨0x200008, 0x40000000, 30, pteAttr 0x4000000F⟩) := by
  decide +kernel

/-- A 129th walk of its hall. -/
theorem witness_BlockFetches_later : let s := { mapped with walks := List.replicate 128 { walk (.fetch 1) with id := 8 } ++ [walk (.fetch 1)] }
    s.walks.find? (·.id == 9) = some (walk (.fetch 1)) ∧ ((s.walks.filter fun x => x.stall / 512 == 0).take 128).any (·.id == 9) = false := by
  decide +kernel

/-- Headers of one slot: with a count of 0, strict with a reserved bit, with a mask bit that no instruction serves, and sound ones. -/
theorem witness_BlockMapping_breaches :
    ¬((0x1 : W128).extractLsb' 0 4 = 1 ∧ 0 < ((0x1 : W128).extractLsb' 4 8).toNat) ∧ ((0x811 : W128).extractLsb' 4 8).toNat = 129 ∧
    (0x18011 : W128).getLsbD 15 = true ∧ (0x18011 : W128).extractLsb' 16 4 ≠ 0 ∧
    firstBreach (parseSlots false [0x0E00000000000000]) [0x0E00000000000000] false false = none ∧
    (0x100000011 : W128).getLsbD 32 = true ∧ mapBreach 0x100000011 [0x0E00000000000000] = some (7, 0xFF) ∧
    mapBreach 0x11 [0x0E00000000000000] = none := by decide +kernel
/-- The frame has fetched a block of one word: FEND, BKPT #5 or a reserved opcode; or a loop block, or one with DEBUG-STOP. -/
def fetchedBlock (hdr word : Nat) (watched : Bool) : State :=
  (frames [{ fr 1 .resident with next := 0x300000, fetched := some (0x300000, bytesLE hdr 16 ++ bytesLE word 8) }]).modCtx 0
    fun c => { c with params := { c.params with debuggable := watched } }
def fresh (s : State) : Block := match (frameOf s).fetched with | some (a, bs) => { Block.fresh s.nextId 1 a bs 0 0 with entry := s.handlerRegs (frameOf s) } | none => default
theorem witness_BlockMapping : ∀ e ∈ [(0x11, 0x0E00000000000000), (0x11, 0xBA01400000000000), (0x11, 0xFE00000000000000), (0x1011, 0x0F00000000000000),
      (0x4011, 0x0E00000000000000)], ∀ w ∈ [true, false], let s := fetchedBlock e.1 e.2 w
    s.frame? (frameOf s).fid = some (frameOf s) ∧ (frameOf s).fetched.map (·.1) = some (frameOf s).next ∧ (frameOf s).place = .resident ∧
    s.blockOf (frameOf s).fid = none ∧ s.stallRuns 0 = true ∧ (s.mappedOn 0).length < 4 ∧ s.numbersOk = true ∧ (s.ctx? (frameOf s).ctx).isSome ∧
    s.blocks = [] ∧ (frameOf s).loop = none ∧
    (frameOf s).pass = false ∧ s.watched (frameOf s) = w ∧ ((fresh s).breach?.isSome ↔ e.2 = 0xFE00000000000000) ∧
    ((fresh s).bkpt?.isSome ↔ e.2 = 0xBA01400000000000) ∧ ((fresh s).isLoop = true ↔ e.1 = 0x1011) ∧ ((fresh s).debugStop = true ↔ e.1 = 0x4011) := by
  decide +kernel
/-- A block of the frame in flight, and a sound or a bad block behind it. -/
def predicted (word : Nat) : State := { base.modStall 0 (fun _ => st0 mapped) with
  mem := putBytes [] 0x4000000 (bytesLE 0x11 16 ++ bytesLE word 8), nextId := 20 }
theorem witness_SpeculationAndTokens : ∀ w ∈ [0x0E00000000000000, 0xFE00000000000000], let s := predicted w
    s.frame? 1 = some (cx s).f ∧ s.blockOf 1 = some (cx s).b ∧ (cx s).b.parked = false ∧ s.lastBlock 1 = some (cx s).b ∧ s.stallRuns 0 = true ∧
    s.engineUse 0 < 4 ∧ (s.blocks.filter fun b => b.fid == 1 && b.spec).length < 3 ∧ (cx s).b.isLoop = false ∧
    ((cx s).b.parsed.all fun w => match w.instr? with | some i => !endsPrediction i | none => true) = true ∧
    (let b := Block.fresh 20 1 0x300000 (bytesLE 0x11 16 ++ bytesLE w 8) 0 0
     (b.breach?.isSome ↔ w = 0xFE00000000000000) ∧ b.isLoop = false ∧ b.bkpt? = none ∧ b.debugStop = false) ∧
    (match s.fetchBlock 0 0 0x300000 with | .bytes bs => bs == bytesLE 0x11 16 ++ bytesLE w 8 | _ => false) = true := by decide +kernel
/-- A token on its way to each field of the slot, empty and full. -/
def transiting (f : OpField) (full : Option W64) : State :=
  inBlock mapped fun b => { b with slots := [⟨full, full, full, false⟩], transit := [{ src := 3, slot := 0, fld := f, val := 7, arr := default }] }
theorem witness_SpeculationAndTokens_token : ∀ f ∈ [OpField.left, .right, .pred], ∀ e ∈ [true, false], let s := transiting f (if e then none else some 0)
    s.block? 2 = some (cx s).b ∧ s.frame? (cx s).b.fid = some (cx s).f ∧ (cx s).b.parked = false ∧ s.stallRuns 0 = true ∧
    ((cx s).b.transit[0]?).isSome := by decide +kernel
/-- A block that has written g3, stored and sent its CSRW, with an exit of each kind, in a loop and out of one. -/
def committing (e : List (Nat × Exit)) (loop : Option (Nat × Nat)) (effs : List (Nat × Effect)) : State :=
  inBlock (inFrame mapped fun f => { f with loop := loop, cell := some 0x1FFFF0 }) fun b =>
    { b with hdr := if loop.isSome then 0x1011 else 0x11, exits := e, slots := [⟨none, none, none, true⟩], effs := effs, gws := [(3, 0, some 9)], aflags := 4 }
/-- An SPE message of the block, and a token that stays in the frame's hall. -/
def outgoing : List (Nat × Effect) := [(0, .msg (.spz plain false) 4 0), (0, .send 0 0 0 0 7)]
theorem witness_BlockCommits : ∀ e ∈ [([(0, Exit.fend)], none), ([(0, .to 0x300000)], none), ([(0, .call 0x300000 0x300020)], none), ([], some (0, 1)), ([], some (0, 2))],
    ∀ f ∈ [[], [(0, Effect.csrw 3 0x1010)], [(0, .csrw 6 1)], [(0, .csrw 7 15)], [(0, .csrw 4 0x1F4)], [(0, .csrw 5 31)],
      [(0, .store 0 data8 9 false)], [(0, .store 0 { data8 with va := 0xFF1 } 9 false)], outgoing, [(0, .heatEnd)]], let s := committing e.1 e.2 f
    s.block? 2 = some (cx s).b ∧ s.frame? (cx s).b.fid = some (cx s).f ∧ s.stallRuns 0 = true ∧ s.mayCommit (cx s).b (cx s).f = true ∧
    s.creditsFor (cx s).b = true ∧ (cx s).f.handler = false ∧ (cx s).f.reclaim = none ∧
    ((cx s).b.badHeatEnd.isSome ↔ f = [(0, .heatEnd)] ∧ e.1 ≠ [(0, .fend)]) := by decide +kernel

/-! Witnesses: graphs, levels, the ingress port and images -/

/-- Deliveries to a WORD tile of 1,024 bytes at its last place, and past its end. -/
theorem witness_FrameServing_deliveries : ∀ ofs ∈ [1016, 1017], let e : W64 := BitVec.ofNat 64 (2 ^ 63 + ofs * 2 ^ 18 + 2 * 2 ^ 11)
    let s := sent tiled (.mcast e 8 9 false)
    s.flight[0]? = some (s.flight.headD default) ∧ (s.flight.headD default).cargo = .mcast e 8 9 false ∧ (e.extractLsb' 0 11).toNat = 0 ∧
    (e.extractLsb' 11 6).toNat = 2 ∧ (e.extractLsb' 18 19).toNat = ofs ∧ s.stall? 0 = some (st0 s) ∧ (s.ctx? 0).isSome ∧
    (s.ctx? 0).map (·.params.pitch) = some [0] ∧ ((st0 s).tileD 2).lay = true ∧ (st0 s).bound 2 = false ∧
    (ofs + 8 ≤ ((st0 s).tileD 2).bytes ↔ ofs = 1016) ∧ ((st0 s).tileD 2).st = .empty ∧ (st0 s).saved = false ∧
    (st0 s).pagesIn ((st0 s).tileD 2) = true ∧ (st0 s).engineWrites 2 = false ∧ s.earlierWrites (s.flight.headD default) = [] ∧ 2 < (st0 s).tiles.length := by decide +kernel
/-- A node of two inputs that holds one token or none; a token of tag 0 or of a heat that is not live is on its way to the other input. -/
def nodeOf (fired : Nat) : Node := ⟨0x300000, 2, 1, 0, 0, [1, 1], [1, 1], [(0, fired)]⟩
def instOf (toks : List Tok) (fired : Nat) (det : Bool) : Inst := ⟨9, 0, 0, det, true, false, true, 0, 1, 3, [nodeOf fired], toks, [0], none, 1, [], [], [], []⟩
def tok : Tok := ⟨0, 0, 0, 5, false, default, (cx base).org⟩
def token (toks : List Tok) (fired : Nat) (det : Bool) (tag : W16) : State := { sent mapped (.token 9 0 1 tag 7) with insts := [instOf toks fired det] }
theorem witness_FrameServing_tokens : ∀ l ∈ [[], [tok], [{ tok with tag := 1 }]], ∀ d ∈ [(126, true), (127, true), (0, false)], ∀ g ∈ [0, 1],
    let tag := BitVec.ofNat 16 g
    let s := token l d.1 d.2 tag
    let x := instOf l d.1 d.2
    let o := (s.flight.headD default).org
    let y := { x with toks := x.toks ++ [Tok.mk 0 1 tag 7 o.capt ⟨5, o.fn, o.bsq, o.stall, false⟩ o] }
    s.flight[0]? = some (s.flight.headD default) ∧ (s.flight.headD default).cargo = .token 9 0 1 tag 7 ∧ s.inst? 9 = some x ∧ x.live = true ∧
    s.behind 1 3 = true ∧ x.released = true ∧ s.flight.length = 1 ∧ x.takes 0 tag = none ∧ ((y.takes 0 tag).isSome ↔ (l = [tok] ∧ g = 0) ∨ (l = [{ tok with tag := 1 }] ∧ g = 1)) ∧
    (g = 0 → x.firings 0 tag = d.1) ∧ (s.heatLive 0 g ↔ g = 0) ∧ (∀ f ∈ s.frames, f.fid < s.nextId) ∧ (x.nodes[0]?).isSome := by
  decide +kernel

/-- A key that finds the call room full, and one on the overflow list with its inputs there. -/
theorem witness_FrameServing_keys : (let s := { token [] 0 false 0 with frames := List.replicate 8192 { (cx base).f with place := .callroom } }
      8192 ≤ s.callRoom (0 / 512) 0) ∧
    (∀ r ∈ [true, false], let x := { instOf [tok, { tok with input := 1 }] 0 false with ovf := [(0, 0, 0)], released := r }
      let s := { mapped with insts := [x] }
      s.callRoom 0 0 < 8192 ∧ (s.overKeys 0).length = 1 ∧ s.inst? 9 = some x ∧ (x.takes 0 0).isSome ∧ (s.frames.all fun f => f.place != .overflow) = true ∧
      (s.overKeys 0).all (fun f => f.fid == 0 && f.inst == some 9 && f.next == 0 && f.ht == 0) = true) := by decide +kernel

/-- A decrement and an admitted cancel of a launch whose count is 1 or 2, from a packet and out of one, with a job and without. -/
def launchOf (n : Nat) (p : Bool) (j : Option Nat) : Launch :=
  { Launch.taken 0 5 with live := true, count := n, packet := if p then some (1, 2) else none, job := j }
def counting (n kind : Nat) (p : Bool) (j : Option Nat) : State := { sent base (.level 2 5 kind) with launches := [launchOf n p j] }
theorem witness_FrameLevels : ∀ n ∈ [1, 2], ∀ k ∈ [0, 1], ∀ p ∈ [true, false], ∀ j ∈ [none, some 2], let s := counting n k p j
    let l := launchOf n p j
    s.flight[0]? = some (s.flight.headD default) ∧ (s.flight.headD default).cargo = .level 2 5 k ∧ s.behind 1 3 = true ∧ s.endTurn (s.flight.headD default) = true ∧
    s.launch? (s.flight.headD default).org.ctx 5 = some l ∧ l.live = true ∧ l.node = false ∧ l.complete = false ∧
    0 < l.count ∧ l.pending = 0 ∧ (s.ctx? 0).isSome ∧ s.flight.length = 1 := by decide +kernel
/-- The same decrement behind a store of its frame, and a cancel behind an earlier one of its stall. -/
theorem witness_FrameLevels_behind : let s := counting 1 0 true none
    let w := { s.flight.headD default with id := 9 }
    let t := { s with flight := [⟨3, w.org, 0, 0, .store data8 0 false false⟩, w] }
    let u := { s with flight := [⟨3, w.org, 0, 0, .level 2 4 1⟩, { w with cargo := .level 2 5 1 }] }
    t.flight[1]? = some w ∧ t.behind w.org.fid w.id = false ∧ (u.flight[1]?).isSome ∧
    (u.flight.any fun e => decide (e.id < 9) && match e.cargo with | .level _ _ c => c != 0 | _ => false) = true := by decide +kernel
/-- A heat, a graph instance and a job whose counts go down, and a heat that is cancelled. -/
theorem witness_FrameLevels_others : (∀ k ∈ [0, 2], let s := { sent base (.level 3 7 k) with heats := [⟨0, 7, true, 2, 0, false, none⟩] }
      (s.heat? 0 7).map (·.live) = some true ∧ s.flight.length = 1 ∧ (s.flight.headD default).org.ctx = 0 ∧
      s.behind 1 3 = true ∧ s.endTurn (s.flight.headD default) = true) ∧
    (∀ n ∈ [1, 2], let x := { instOf [] 0 false with count := n, job := some 4 }
      let s := { sent base (.level 4 9 0) with insts := [x] }
      s.inst? 9 = some x ∧ x.ctx = 0 ∧ x.pending = 0 ∧ x.cancelled = false ∧ (s.ctx? 0).map (·.packets) = some []) ∧
    (∀ n ∈ [1, 2], let j : JobRec := { ctx := 0, num := 4, count := n, pending := 0, cancelled := false }
      let s := { sent base (.level 5 4 0) with jobrecs := [j] }
      s.jobrec? 0 4 = some j ∧ j.complete = false ∧ (s.ctx? 0).isSome) := by decide +kernel
/-- A reclamation of a handler frame, of one pinned by a KEEP block, and of another. -/
def reclaiming (handler keep : Bool) : State :=
  { inBlock (inFrame (sent base (.reclaim 1 4)) fun f => { f with handler := handler }) fun b => { b with hdr := if keep then 0x2011 else 0x11 } with nextId := 4 }
theorem witness_FrameLevels_reclaim : ∀ h ∈ [true, false], ∀ k ∈ [true, false], let s := reclaiming h k
    s.flight[0]? = some (s.flight.headD default) ∧ (s.flight.headD default).cargo = .reclaim (cx s).f.fid 4 ∧
    s.frame? (cx s).f.fid = some (cx s).f ∧ (cx s).f.handler = h ∧ s.pinnedByKeep (cx s).f = k ∧ (cx s).f.parent = none ∧ s.flight.length = 1 := by decide +kernel
/-- The only frame of the context waits, for a heat tag or for another thing. -/
def stuckOn (w : Wait) : State :=
  inBlock (inFrame base fun f => { f with place := .parked }) fun b => { b with parked := true, waits := [(0, w)] }
theorem witness_FrameLevels_stuck : ∀ w ∈ [Wait.heatPool, .cont 0], let s := stuckOn w
    (s.ctx? 0).map (·.stuckArmed) = some true ∧ s.stuck 0 = true ∧ s.recs = [] := by decide +kernel
/-- So is a context whose only frame is held and has no handler frame. -/
theorem witness_FrameLevels_held : let s := inFrame base fun f => { f with held := true, place := .callroom }
    (s.ctx? 0).map (·.stuckArmed) = some true ∧ s.stuck 0 = true ∧ s.recs = [] := by decide +kernel
/-- And one of which only a token waits. -/
theorem witness_FrameLevels_tokens : let s := { base with frames := [], blocks := [], insts := [instOf [tok] 0 false] }
    (s.ctx? 0).map (·.stuckArmed) = some true ∧ s.stuck 0 = true ∧ s.recs = [] := by decide +kernel

/-- A context with a packet at its port. -/
def packet (ws : List W64) : Packet := ⟨ws ++ List.replicate (8 - ws.length) 0, true, none, []⟩
def atPort (s : State) (p : Packet) : State := s.modCtx 0 fun c => { c with packets := [p] }
theorem witness_IngressAdmission : (∀ c ∈ [true, false], let s := base.modCtx 0 fun x => { x with params := { x.params with confid := c } }
      (s.ctx? 0).map (·.params.confid) = some c) ∧ 63 < 64 ∧ 7 < 8 ∧
    (let s := (atPort base (packet [1])).modCtx 0 fun x => { x with taken := 1 }
     ∃ i, i < (((s.ctx? 0).map (·.packets.filter (·.slotted))).getD []).length ∧ (1 + 64 - 1 - i) % 64 = 0) := by
  refine ⟨by decide +kernel, by decide +kernel, by decide +kernel, 0, by decide +kernel, by decide +kernel⟩
/-- Packets of a reserved type, and of each type with a field that must be 0. -/
theorem witness_IngressAdmission_malformed : ∀ p ∈ [packet [0], packet [6], packet [1, 0, 0x400000000], packet [2, 0, 0x80000], packet [3, 0, 6], packet [4, 0, 0x10000],
      packet [5, 1, 1]], let s := atPort base p
    (s.ctx? 0).map (·.packets) = some [p] ∧ s.sourcesRun 0 = true ∧ (p.type = 1 → (p.words.getD 2 0).extractLsb' 34 6 ≠ 0) ∧
    (p.type = 2 → (p.words.getD 2 0).getLsbD 19 = true) ∧ (p.type = 3 → 5 < (p.words.getD 2 0).toNat) ∧
    (p.type = 4 → 65536 ≤ (p.words.getD 2 0).toNat) ∧ (p.type = 5 → (p.words.getD 1 0).extractLsb' 0 56 ≠ 0) := by decide +kernel
/-- A CANCEL packet for slot 5: no launch there, a complete one, and one that runs. -/
theorem witness_IngressAdmission_cancel : let p := packet [3, 0, 2, 5]
    p.type = 3 ∧ p.bad = false ∧ p.words.getD 2 0 = 2 ∧ (p.words.getD 3 0).toNat % 256 = 5 ∧ ((atPort base p).ctx? 0).map (·.packets) = some [p] ∧
    (atPort base p).launch? 0 5 = none ∧
    (∀ c ∈ [true, false], let x := { Launch.taken 0 5 with live := true, complete := c, count := 1 }
      ({ atPort base p with launches := [x] } : State).launch? 0 5 = some x ∧ x.node = false ∧ x.live = true ∧ x.cancelled = false ∧
      x.pending = 0 ∧ 0 < x.count) := by decide +kernel
theorem witness_IngressAdmission_capture : ∀ t ∈ [4, 5], ∀ n ∈ [0, 1, 2], ∀ w ∈ [none, some 1],
    let p := packet [BitVec.ofNat 64 t, 0, BitVec.ofNat 64 n]
    let s := (atPort base p).modCtx 0 fun c => { c with window := w }
    p.type = t ∧ p.bad = false ∧ (p.words.getD 2 0).toNat % 65536 = n ∧
    (s.ctx? 0).any (fun c => c.num == 0 && c.packets == [p] && c.window == w && !s.captureHeld c 9 && !s.captureHeld c 10) = true := by decide +kernel

/-- A loaded image of one node of one input and one launch record, its live instance, and a packet for them. -/
def image (det : Bool) : Image := ⟨0, 0x40000000, det, false, List.replicate 32 0, [(0x300000, 1, 0, 0, none)], [], [0x300000], [], [], [], []⟩
def imageInst (credits : Nat) : Inst := ⟨9, 0, 0x40000000, false, true, false, true, 0, 1, 3, [⟨0x300000, 1, 0, 0, 0, [credits], [1], []⟩], [], [0], none, 1, [], [], [], []⟩
def port (p : Packet) (det : Bool) (credits : Nat) : State := { atPort mapped p with images := [image det], insts := [imageInst credits] }
theorem witness_IngressLaunches : ∀ b ∈ [0, 0x10000000000, 1, 127 * 2 ^ 56, 126 * 2 ^ 56 + 0x30000], ∀ d ∈ [true, false],
    let p := packet [1, 0x40000000, BitVec.ofNat 64 b, 7]
    let s := port p d 1
    (s.ctx? 0).map (·.packets) = some [p] ∧ (s.ctx? 0).map (·.num) = some 0 ∧ p.type = 1 ∧ p.bad = false ∧ p.fail = none ∧ (s.ctx? 0).any (fun c => !c.params.confid) = true ∧ s.sourcesRun 0 = true ∧
    s.imageOf 0 p.image = some (image d) ∧ s.liveInst 0 (image d).va = some (imageInst 1) ∧ p.image = (image d).va ∧
    (s.heatLive 0 ((p.words.getD 2 0).extractLsb' 40 16).toNat = false ↔ b = 0x10000000000) ∧
    ((image d).launches.length ≤ ((p.words.getD 2 0).extractLsb' 0 16).toNat ↔ b = 1) ∧
    (128 ≤ ((p.words.getD 2 0).extractLsb' 56 8).toNat + 1 ↔ b = 127 * 2 ^ 56) ∧ s.launch? 0 255 = none := by decide +kernel
theorem witness_IngressLaunches_cancelled : let p := packet [0x20001, 0x40000000]
    let s := { port p false 1 with insts := [{ imageInst 1 with cancelled := true }],
                                   jobrecs := [{ ctx := 0, num := 2, count := 1, pending := 0, cancelled := true }] }
    p.job = 2 ∧ p.bad = false ∧ s.liveInst 0 (image false).va = some { imageInst 1 with cancelled := true } ∧
    (s.jobrec? 0 2).map (fun q => (q.complete, q.cancelled)) = some (false, true) := by decide +kernel
theorem witness_IngressLaunches_full : let s := { port (packet [1, 0x40000000]) false 1 with launches := (List.range 256).map fun k => Launch.taken 0 k }
    ∀ k, k < 256 → (s.launch? 0 k).isSome := by decide +kernel
theorem witness_IngressLaunches_token : ∀ b ∈ [0, 0x10000, 0x100000], ∀ n ∈ [0, 1],
    let p := packet [2, 0x40000000, BitVec.ofNat 64 b, 7]
    let s := port p false n
    (s.ctx? 0).map (·.packets) = some [p] ∧ p.type = 2 ∧ p.bad = false ∧ p.fail = none ∧ s.sourcesRun 0 = true ∧
    s.imageOf 0 p.image = some (image false) ∧ s.liveInst 0 (image false).va = some (imageInst n) ∧ p.image = (image false).va ∧
    s.inst? (imageInst n).iid = some (imageInst n) ∧ s.credits 9 0 0 = n ∧ s.nodeFar 9 0 = false ∧
    (b = 0 ↔ ((image false).nodes[((p.words.getD 2 0).extractLsb' 20 12).toNat]?.map fun x =>
      decide (((p.words.getD 2 0).extractLsb' 16 3).toNat < x.2.1)) = some true) := by decide +kernel

/-- A token packet of a grant behind its sender's store, and alone. -/
theorem witness_IngressLaunches_bar : let p := { packet [2, 0x40000000, 0, 7] with bar := [3] }
    let s := port p false 1
    p.type = 2 ∧ p.bad = false ∧ s.sourcesRun 0 = true ∧ (s.ctx? 0).map (·.packets) = some [p] ∧ s.flight = [] ∧
    (∃ n ∈ p.bar, ∃ w ∈ (sent s (.store data8 0 false false)).flight, w.id = n) := by decide +kernel
/-- Packets whose image has failed to load. -/
theorem witness_IngressLaunches_failed : ∀ t ∈ [1, 2], let p := { packet [BitVec.ofNat 64 t, 0x40000000] with fail := some 6 }
    ((atPort base p).ctx? 0).map (·.packets) = some [p] ∧ p.type = t ∧ p.bad = false ∧ (atPort base p).sourcesRun 0 = true ∧ p.fail = some 6 := by decide +kernel

/-- An image that is a header alone stands at VA 0x40000000, with its magic number or without. -/
def imageAt (magic : Nat) : State :=
  let s := atPort (walking (.fetch 1) 0x4000000F) (packet [1, 0x40000000])
  ((s.wrLE 0x40000000 4 magic).wrLE 0x40000004 4 1).wrLE 0x40000010 8 64
theorem witness_ImageLoading : ∀ m ∈ [0x4C344749, 0], let s := imageAt m
    let g := (parseImage (s.imageBytes 0 0x40000000)).getD default
    (s.ctx? 0).map (·.packets) = some [packet [1, 0x40000000]] ∧ (packet [1, 0x40000000]).type = 1 ∧
    (packet [1, 0x40000000]).bad = false ∧ (packet [1, 0x40000000]).fail = none ∧ s.imageOf 0 (packet [1, 0x40000000]).image = none ∧ (packet [1, 0x40000000]).image = 0x40000000 ∧
    ((parseImage (s.imageBytes 0 0x40000000)).isSome ↔ m = 0x4C344749) ∧
    (m = 0x4C344749 → (s.ctx? 0).any (fun c => (s.imageBreaches c g [] (s.segsOf c g)).isEmpty && (s.mapSegs 0 [] ((s.segsOf c g).getD [])).isSome) = true) := by decide +kernel
theorem witness_ImageLoading_sources : ∀ h ∈ [3, 4], let x := { imageInst 1 with released := false, parts := [h] }
    ({ mapped with insts := [x] } : State).inst? 9 = some x ∧ x.released = false ∧ x.live = true ∧ x.toks = [] ∧
    (h = 4 ↔ ∃ p ∈ x.parts, 4 ≤ p) ∧ (mapped.ctx? x.ctx).isSome := by decide +kernel

/-- A queue of one entry's room, empty and full, and an entry that waits. -/
def queue (tail : Nat) : State := mapped.modCtx 0 fun c =>
  { c with params := { c.params with cq := ⟨0, 1024⟩ }, cqTail := tail, cqWaiting := [⟨1, 2, 1, 3, 4, some 5⟩] }
theorem witness_HostQueues : ∀ t ∈ [0, 63, 64], ((queue t).ctx? 0).any (fun c => c.num == 0 && c.cqWaiting == [⟨1, 2, 1, 3, 4, some 5⟩] &&
    (decide (c.cqTail - c.cqHead < c.params.cq.size / 16) == decide (t < 64)) && decide (c.cqHead ≤ t) && decide (t ≤ c.cqTail)) = true := by decide +kernel
/-- The same entry while a cancelled heat has drained and holds its cells. -/
theorem witness_HostQueues_drained : let s := { queue 0 with heats := [⟨0, 7, true, 0, 0, true, none⟩] }
    ∃ x ∈ s.heats, x.ctx = 0 ∧ x.live = true ∧ x.cancelled = true ∧ x.count = 0 ∧ x.pending = 0 ∧ s.heatQuiet 0 x.tag = true := by decide +kernel
theorem witness_HostQueues_grants : (base.ctx? 0).isSome ∧ 4095 < 4096 ∧ (∀ n, some 0 = some n → (base.ctx? n).isSome) := by
  refine ⟨by decide +kernel, by decide +kernel, fun n h => ?_⟩
  obtain rfl := Option.some.inj h
  decide +kernel

/-! Witnesses: contexts, address spaces and slice pairs -/

/-- Parameters within every limit of CTX_CREATE, for a second context on stall 1, and ones at or past each limit. -/
def params (num rtp cls heat arena red : Nat) (cq : Region) (pitch : List Nat) : CtxParams :=
  { bareParams num 1 with rtp := rtp, cls := cls, heatPool := heat, arena := arena, redLimit := red, cq := cq, pitch := pitch,
                           frameArea := ⟨0x100000, 2 ^ 19⟩ }
def two : State := { base with stalls := base.stalls ++ [(1, Stall.zeroed 5 16)] }
theorem witness_ContextStart : two.pkg.interleave ≠ .spread ∧ two.createOk (params 511 0x100000 63 65535 1024 4096 ⟨0, 1024⟩ [1]) = true ∧
    (∀ p ∈ [params 512 0x100000 63 65535 1024 4096 ⟨0, 1024⟩ [1], params 0 0x100000 63 65535 1024 4096 ⟨0, 1024⟩ [1],
        params 1 0x100001 63 65535 1024 4096 ⟨0, 1024⟩ [1], params 1 0x100000 64 65535 1024 4096 ⟨0, 1024⟩ [1], params 1 0x100000 63 0 1024 4096 ⟨0, 1024⟩ [1],
        params 1 0x100000 63 65536 1024 4096 ⟨0, 1024⟩ [1], params 1 0x100000 63 65535 1023 4096 ⟨0, 1024⟩ [1], params 1 0x100000 63 65535 1024 4097 ⟨0, 1024⟩ [1],
        params 1 0x100000 63 65535 1024 4096 ⟨0, 1008⟩ [1], params 1 0x100000 63 65535 1024 4096 ⟨0, 1024⟩ [], params 1 0x100000 63 65535 1024 4096 ⟨0, 1024⟩ [0, 1]],
      p.pitch = [] ∨ 512 ≤ p.num ∨ (two.ctx? p.num).isSome ∨ p.rtp % 2 ^ 20 ≠ 0 ∨ 64 ≤ p.cls ∨ p.heatPool = 0 ∨ 65536 ≤ p.heatPool ∨
        p.arena < 2 ^ 10 ∨ 4096 < p.redLimit ∨ p.cq.size < 1024 ∨ p.frameArea.size < 2 ^ 19 * p.pitch.length) := by decide +kernel
/-- A stall that another context holds is not free. -/
theorem witness_ContextStart_taken : two.stall? 0 = some (two.stallD 0) ∧ (two.stallD 0).owner = some 0 ∧ (two.stallD 0).saved = false := by decide +kernel
/-- One whose state that context has saved is. -/
theorem witness_ContextStart_displaced : (two.modStall 0 fun x => { x with saved := true }).createOk (params 1 0x100000 63 65535 1024 4096 ⟨0, 1024⟩ [0]) = true := by
  decide +kernel
def saved (lost halt : Bool) : State :=
  (base.modStall 0 fun x => { x with saved := true }).modCtx 0 fun c => { c with preempted := true, lostPages := lost, tdHalt := halt }
theorem witness_ContextStart_run : ∀ l ∈ [true, false], ∀ h ∈ [true, false], let s := saved l h
    (s.ctx? 0).any (fun c => c.num == 0 && c.lostPages == l && c.tdHalt == h && c.params.pitch == [0]) = true ∧ s.recs = [] ∧
    s.stall? 0 = some (st0 s) ∧ (st0 s).owner = some 0 ∧ (st0 s).saved = true ∧ (st0 s).suspect = false ∧ (s.hallD 0).st = .available := by decide +kernel

/-- A record handled under R437 and one that waits for its handler frame; a pitch with a suspect stall, and one with a displaced stall. -/
theorem witness_ContextStart_records : (let s := { saved false false with recs := [record 3, { record 1 with rid := 8, logSlot := some 1 }] }
      (∀ r ∈ s.recs, r.ctx = 0 → r.status ≠ 0) ∧ s.recs.Pairwise (fun q r => q.rid ≠ r.rid)) ∧
    (((saved false false).modStall 0 fun x => { x with suspect := true }).stallD 0).suspect = true := by decide +kernel
theorem witness_ContextStart_displaced_run : let s := { (saved false false).modCtx 0 (fun c => { c with params := { c.params with pitch := [4096] } }) with
      stalls := [(0, { Stall.zeroed 0 16 with owner := some 1 }), (4096, { st0 (saved false false) with owner := some 0 })] }
    (s.ctx? 0).map (·.params.pitch) = some [4096] ∧ (s.stallD 4096).suspect = false ∧ (s.stall? (4096 % 2048)).map (·.owner.isSome) = some true := by
  decide +kernel

/-- A saved stall whose context may run; and one with a dirty page that runs nothing. -/
theorem witness_Preemption : let s := base.modStall 0 fun x => { x with saved := true }
    s.stall? 0 = some (st0 s) ∧ s.storesOk = true ∧ (st0 s).owner = some 0 ∧
    (s.ctx? 0).any (fun d => !d.preempted && !d.blocked && !d.tdHalt) = true ∧ (st0 s).saved = true ∧ (st0 s).suspect = false ∧
    (s.hallD 0).st = .available := by decide +kernel
theorem witness_Preemption_save : let s := { mapped with blocks := [] }.modStall 0 fun x => { x with dirty := x.dirty.set 127 true }
    s.frames.Pairwise (fun f g => f.fid ≠ g.fid) ∧ s.stall? 0 = some (st0 s) ∧ s.storesOk = true ∧ (st0 s).saved = false ∧ (st0 s).pa = none ∧ (st0 s).vec = none ∧ (st0 s).spe = [] ∧
    (st0 s).jobs = [] ∧ s.blocks = [] ∧ (st0 s).dirty.getD 127 false = true ∧ 127 * 32 < 128 * (tileBanks (st0 s).roles).length := by decide +kernel
/-- The frame area stands in mapped memory, and frames wait behind an inline child or without one. -/
theorem witness_Preemption_backing : let s := ({ (walking (.fetch 1) 0x4000000F).modCtx 0 (fun c =>
      { c with params := { c.params with frameArea := ⟨0x40000000, 2 ^ 19⟩ }, backings := [(0, 0)] }) with
        blocks := [], frames := [{ fr 1 .resident with inlineKids := [4] }, fr 4 .parked] }).modStall 0 fun x => { x with dirty := x.dirty.set 127 true }
    (s.ctx? 0).any (fun c => c.num == 0 && decide ((c.backingVa 0 + 127 * 4096) % 4096 = 0) &&
      (s.walkVa 0 (c.backingVa 0 + 127 * 4096)).toOption == some ⟨0x200008, 0x4007F000, 30, pteAttr 0x4000000F⟩) = true ∧ s.ok = true ∧
    s.flight = [] ∧ s.frames.Pairwise (fun f g => f.fid ≠ g.fid) ∧ (∀ q, q < 128 → ((st0 s).dirty.getD q false = true ↔ q = 127)) := by decide +kernel
/-- A saved context on stalls 0 and 1 moves to stalls 2 and 3, or to stall 2 alone. -/
def wide : State :=
  { saved false false with
    stalls := [(0, { Stall.zeroed 0 16 with owner := some 0, saved := true }), (1, { Stall.zeroed 0 16 with owner := some 0, saved := true }),
               (2, Stall.zeroed 0 16), (3, Stall.zeroed 0 16)],
    ctxs := (saved false false).ctxs.map fun c => { c with params := { c.params with pitch := [0, 1], frameArea := ⟨0x100000, 2 ^ 20⟩ },
                                                           backings := [(0, 0), (1, 1)] } }
theorem witness_Preemption_repitch : ∀ new ∈ [[2, 3], [2]], (wide.ctx? 0).any (fun c => c.num == 0 && c.params.pitch == [0, 1]) = true ∧
    new.Pairwise (· < ·) ∧ wide.ctxIdle 0 = true ∧ wide.pitchOk 0 new = true ∧ [0, 1].Pairwise (· < ·) ∧ wide.images = [] ∧ (∀ st ∈ new, st < 2048) ∧
    (wide.ctx? 0).any (fun c => decide (2 ^ 19 * new.length ≤ c.params.frameArea.size) && c.backings == [(0, 0), (1, 1)]) = true ∧
    ((new.filter (· / 512 == 0)).length < 2 ↔ new = [2]) := by decide +kernel

theorem witness_ContextLifetime : (wide.ctx? 0).isSome ∧ (∀ e ∈ wide.stalls, e.2.owner = some 0 → e.2.saved = true) ∧ wide.flight = [] ∧
    (∀ e ∈ wide.stalls, e.2.jobs = []) ∧ wide.pairs = [] ∧ (∀ st ∈ [0, 1], (wide.stall? st).any (·.saved) = true) := by decide +kernel
/-- Changes within the limits, and past each. -/
def noChange : CtxChange := ⟨none, none, none, none, none, none, none, none, none⟩
theorem witness_ContextLifetime_change : (wide.ctx? 0).any (fun c => changeOk c.params { noChange with cls := some 63, arena := some 1024 } &&
      !changeOk c.params { noChange with cls := some 64 } && !changeOk c.params { noChange with heatPool := some 0 } &&
      !changeOk c.params { noChange with arena := some 1023 } && !changeOk c.params { noChange with redLimit := some 4097 } &&
      paramsApart (changeParams c.params { noChange with cls := some 63, arena := some 1024 }) && wide.arenaRoom 0 1024 &&
      changeOk c.params { noChange with trace := some ⟨0x1000000, 4096⟩ } && changeOk c.params { noChange with frameArea := some ⟨0x2000000, 2 ^ 20⟩ } &&
      paramsApart (changeParams c.params { noChange with frameArea := some ⟨0x2000000, 2 ^ 20⟩ }) &&
      paramsApart (changeParams c.params { noChange with trace := some ⟨0x1000000, 4096⟩ })) = true ∧ wide.recs = [] ∧
    (∃ e ∈ base.stalls, e.2.owner = some 0 ∧ e.2.saved = false) ∧
    ((base.modCtx 0 fun c => { c with params := { c.params with future := ⟨0, 32⟩, arena := 2048 } }).ctx? 0).any
      (fun c => decide (16 < c.params.future.size) && decide (1024 < c.params.arena)) = true := by decide +kernel

theorem witness_CacheAndPageControl : let s := base.modHall 0 fun h => { h with fuse := ⟨[], [79], [], []⟩ }
    79 ∈ (s.hallD 0).fuse.slices ∧ 63 < 64 ∧ s.otherRates 0 79 63 + 4096 ≤ 4096 ∧ 4096 < s.otherRates 0 79 63 + 4097 ∧
    ({ s with classes := [⟨0, 79, 63, 0, 1, 0, 5, 0, some (1, 2)⟩] } : State).classes.find? (fun x => x.hall == 0 && x.slice == 79 && x.cls == 63)
      = some ⟨0, 79, 63, 0, 1, 0, 5, 0, some (1, 2)⟩ := by decide +kernel

/-- Two drain tokens are out; the one that arrives has nothing before it, or an operation that is still under way. -/
def draining (left : Nat) (bar : List Nat) : State :=
  { sent mapped (.drain 9 0 bar) with pkg := { mapped.pkg with drains := [(9, left)] } }
theorem witness_CacheAndPageControl_drains : (∀ l ∈ [1, 2], let s := draining l []
      s.flight[0]? = some (s.flight.headD default) ∧ (s.flight.headD default).cargo = .drain 9 0 [] ∧ s.pkg.drains.find? (·.1 == 9) = some (9, l)) ∧
    (let s := { draining 2 [3] with ops := loading.ops }
     (s.flight.headD default).cargo = .drain 9 0 [3] ∧ ∃ id ∈ [3], s.underWay 0 id = true) ∧
    (∃ e ∈ base.stalls, e.2.owner = some 0) ∧ (∀ e ∈ base.stalls, e.2.owner ≠ some 1) := by decide +kernel
/-- Tables stand for the last page below 1 GiB; page 0x900000 is to be mapped there. -/
def tables : State := (((mapped.wrLE 0x100000 8 0x200001).wrLE 0x200000 8 0x300001).wrLE 0x300FF8 8 0x400001).modCtx 0
  fun c => { c with params := { c.params with rtp := 0x100000 } }
theorem witness_CacheAndPageControl_map : (tables.ctx? 0).any (fun c => c.num == 0 && c.params.rtp == 0x100000 && !tables.mapRefused c 0x900000 4096) = true ∧
    tables.ok = true ∧ 0x3FFFF000 % 4096 = 0 ∧ 0x3FFFF000 < 2 ^ 56 ∧ 0x900000 % 4096 = 0 ∧ paKind 0x900000 = .dram ∧
    (0x00F : BitVec 12).getLsbD 0 = true ∧ tables.rdLE 0x100000 8 = 0x200001 ∧ tables.rdLE 0x200000 8 = 0x300001 ∧
    tables.rdLE (0x300000 + 8 * bits 0x3FFFF000 29 21) 8 = 0x400001 ∧ 0x400001 % 4 = 1 ∧ bits 0x400001 51 12 * 4096 = 0x400000 ∧
    (∀ e ∈ [0x100000, 0x200000, 0x300FF8, 0x400FF8], e + 8 ≤ 0x900000) ∧ (0x00F : BitVec 12).getLsbD 8 = false ∧
    (0x00F : BitVec 12).getLsbD 7 = false ∧ (∀ e ∈ [0x100000, 0x200000, 0x300FF8], e + 8 ≤ 0x400FF8) ∧ bits 0x3FFFF000 20 12 = 511 := by
  decide +kernel
theorem witness_CacheAndPageControl_mailbox : (∀ c ∈ [true, false], ((walking (.fetch 1) 0x4000000F).modCtx 0 fun x => { x with params := { x.params with confid := c } }).ctx? 0
      |>.any (fun x => x.params.confid == c)) ∧ 0x40000000 + 1 ≤ 2 ^ 56 ∧
    (let s := walking (.fetch 1) 0x4000000F
     (s.walkVa 0 0x40000000).toOption = some ⟨0x200008, 0x40000000, 30, pteAttr 0x4000000F⟩ ∧ s.readLost 0x40000000 = false ∧ s.earlyIn 0 0x40000000 1 = false ∧
     paKind 0x40000000 = .dram ∧ s.ok = true) := by decide +kernel

/-- Slice pair 5 of hall 0, free or held, with no ways or 4, stable or changing. -/
def pairOf (owner : Option Nat) (cur target stt : Nat) : Pair := ⟨0, 5, owner, 0, cur, cur, stt, 0, 0, target, 0, false, none⟩
def withPair (s : State) (p : Pair) : State := { s with pairs := [p] }
theorem witness_SlicePairs : (∀ o ∈ [none, some 0], ∀ n ∈ [0, 4], (withPair tables (pairOf o n n 0)).pair? 0 5 = some (pairOf o n n 0)) ∧
    (tables.ctx? 0).isSome ∧ 0x3FFFF000 % 4096 = 0 ∧ tables.vaMapped 0 0x3FFFF000 4096 = false ∧
    ((withPair tables (pairOf none 0 0 0)).mapEntry 0 0x3FFFF000 3 (0xE * 2 ^ 48 + 5 * 2 ^ 38 + 15) []).isSome := by decide +kernel
/-- Stores to the three registers of the control page: a value past 16, 16, and the value in force; while stable and while changing. -/
def ctrl (ofs : Nat) : Acc := ⟨0, 0, 0x1000 + ofs, 8, locsFrom (0x1000 + ofs) (0xE * 2 ^ 48 + 5 * 2 ^ 38 + ofs) 8 false⟩
theorem witness_SlicePairs_stores : ∀ o ∈ [0, 8, 16], ∀ v ∈ [17, 16, 4], ∀ t ∈ [0, 1],
    let s := withPair (sent mapped (.store (ctrl o) (BitVec.ofNat 64 v) false false)) (pairOf (some 0) 4 4 t)
    let w := s.flight.headD default
    s.flight[0]? = some w ∧ w.cargo = .store (ctrl o) (BitVec.ofNat 64 v) false false ∧ paKind (ctrl o).pa = .control ∧ s.writeOrder w = true ∧
    s.writeClear w (ctrl o) = true ∧ s.accLost (ctrl o) false = false ∧ s.pairAt? (ctrl o).pa = some (pairOf (some 0) 4 4 t) ∧
    w.org.ctx = 0 ∧ s.pair? 0 5 = some (pairOf (some 0) 4 4 t) ∧ (ctrl o).pa % 4096 = o ∧ (BitVec.ofNat 64 v).toNat % 32 = v := by
  decide +kernel
/-- Both phases of a shrink and of a growth; a job accepted before it has a footprint in the removed range. -/
theorem witness_SlicePairs_changes : ∀ t ∈ [(4, 2), (2, 4)], ∀ p ∈ [1, 2], let q := pairOf (some 0) t.1 t.2 p
    (withPair mapped q).pair? 0 5 = some q ∧ q.hall = 0 ∧ q.pair = 5 ∧ (withPair mapped q).ok = true ∧ (withPair mapped q).pairBusy q = false ∧
    q.releasing = false ∧ q.hva = 0 ∧ (∀ e ∈ (withPair mapped q).stalls, e.2.jobs = []) ∧
    (withPair (atStall fun x => { x with jobs := [{ running 0 none with acceptNo := 0, scratch := [(0, 5, 0x380000, 0x400000)] }] })
      (pairOf (some 0) 4 2 1)).pairBusy (pairOf (some 0) 4 2 1) = true := by decide +kernel

/-! Witnesses: security, debug, trace, links, power and halls -/

def ctxWith (f : Ctx → Ctx) : State := base.modCtx 0 f
theorem witness_SecurityAndDebug : (base.ctx? 0).any (fun c => decide (c.num < 512)) = true ∧
    (∀ e ∈ [(Tdisp.unlocked, TdispReq.lock), (.locked, .run), (.locked, .stop), (.run, .stop), (.locked, .unlock), (.error, .unlock), (.run, .lock)],
      ((ctxWith fun c => { c with tdisp := e.1, params := { c.params with confid := true } }).ctx? 0).any
        (fun c => c.num == 0 && c.params.confid && c.tdisp == e.1) = true) := by decide +kernel
theorem witness_SecurityAndDebug_counters : (base.stall? 0).map (·.counters) = some (List.replicate 16 0) ∧
    (base.ctx? 0).map (·.counters) = some (List.replicate 16 0) ∧ (((base.stall? 0).bind (·.owner)).bind base.ctx?).isSome ∧
    (List.replicate 16 0)[15]? = some 0 ∧ (List.replicate 16 0).length = 16 := by decide +kernel
def debug (stopped : Option Nat) : State :=
  inFrame (ctxWith fun c => { c with params := { c.params with debuggable := true } }) fun f => { f with stopped := stopped }
theorem witness_SecurityAndDebug_debug : ∀ r ∈ [none, some 7], ((debug r).ctx? 0).any (fun c => c.num == 0 && c.params.debuggable && !c.params.confid) = true ∧
    (debug r).byRef 0 1 = some (cx (debug r)).f ∧ (debug r).frame? (cx (debug r)).f.fid = some (cx (debug r)).f ∧ (cx (debug r)).f.stopped = r ∧ (cx (debug r)).f.held = false ∧
    (debug r).byRef 0 2 = none ∧ ((debug r).launch? 0 5 = none) ∧ ((launched false false false 0).launch? 0 5).isSome := by decide +kernel
theorem witness_SecurityAndDebug_held : let s := inFrame (debug (some 7)) fun f => { f with held := true }
    s.byRef 0 1 = some (cx s).f ∧ s.frame? (cx s).f.fid = some (cx s).f ∧ (cx s).f.held = true := by decide +kernel
theorem witness_SecurityAndDebug_refused : (base.ctx? 0).any (fun c => !c.params.debuggable && !c.params.confid) = true ∧
    ((ctxWith fun c => { c with params := { c.params with confid := true } }).ctx? 0).any (fun c => c.params.confid && c.tdisp != .run) = true := by
  decide +kernel
/-- Rings of 64 records and of 2^26, and sizes and bases that are refused; a ring with room and a full one, with a record held back. -/
def ringed (wptr : Nat) : State := (debug none).modCtx 0 fun c =>
  { c with trace := { base := 0x1000, ctl := 6 <<< 35, wptr := wptr, lost := 0, lostTotal := 0, walk := 0, waiting := [[1]] } }
theorem witness_Tracing : (0x1000 : W64).extractLsb' 0 56 = 0x1000 ∧ (0x3000000000 : W64).extractLsb' 35 5 = 6 ∧ ((0xD000000000 : W64).extractLsb' 35 5).toNat = 26 ∧
    ((0xD800000000 : W64).extractLsb' 35 5).toNat = 27 ∧ ((0x2800000000 : W64).extractLsb' 35 5).toNat = 5 ∧ 0x1000 + 64 + 32 * 2 ^ 26 ≤ 2 ^ 56 ∧
    (∀ n ∈ [0, 64], ((ringed n).ctx? 0).any (fun c => c.num == 0 && c.params.debuggable && !c.params.confid && c.trace.waiting == [[1]] &&
      c.trace.lost == 0 && (ringed n).ringFull c == decide (n = 64)) = true) := by decide +kernel
/-- A ring that has lost records and has room; and a confidential context whose ring pages hold ENC, or do not. -/
theorem witness_Tracing_lost : let s := (ringed 0).modCtx 0 fun c => { c with trace := { c.trace with lost := 3, waiting := [] } }
    (s.ctx? 0).any (fun c => c.num == 0 && c.trace.lost != 0 && !s.ringFull c) = true := by decide +kernel
theorem witness_Tracing_enc : ∀ e ∈ [0x4000000F, 0x4000080F], let s := (walking (.fetch 1) e).modCtx 0 fun c =>
      { c with tdisp := .run, params := { c.params with debuggable := true, confid := true } }
    (s.ctx? 0).any (fun c => c.num == 0 && c.params.debuggable && c.params.confid && c.tdisp == .run) = true ∧
    (s.walkVa 0 0x40000000).toOption.map (·.attr.enc) = some (e == 0x4000080F) := by decide +kernel
/-- A walk's step finds nothing, an entry that came from another stall, one from an ingress, or is the last. -/
def stepping (n : Nat) (hist : List HistEntry) : State := (sent base (.walkStep 1 n 2 3)).modStall 0 fun x => { x with hist := hist }
def cameFrom (edge : Nat) : HistEntry := ⟨2, 3, 0, 0, ⟨edge, 9, 9, 0, false⟩, 0, false, false, false⟩
theorem witness_Tracing_walk : ∀ n ∈ [0, 255], ∀ l ∈ [[], [cameFrom 1], [cameFrom 7]], let s := stepping n l
    s.flight[0]? = some (s.flight.headD default) ∧ (s.flight.headD default).cargo = .walkStep 1 n 2 3 ∧
    s.controlFirst (s.flight.headD default) = true ∧ (s.stallD 0).hist.find? (fun e => e.fn == 2 && e.bsq == 3) = l.head? ∧ ({ s with flight := [] } : State).walksAt 0 < 8 ∧ s.flight.length = 1 := by decide +kernel
/-- Eight steps stand at the next stall already; and a step behind an earlier one of its stall. -/
theorem witness_Tracing_full : let s := stepping 0 [cameFrom 1]
    let w := s.flight.headD default
    let t := { s with flight := w :: List.replicate 8 { w with id := 9, stall := 9 } }
    t.flight[0]? = some w ∧ 8 ≤ ((t.flight.eraseIdx 0).filter fun x => x.stall == 9 && (match x.cargo with | .walkStep _ _ _ _ => true | _ => false)).length ∧
    (t.flight[1]?).isSome ∧ w.id < 9 := by decide +kernel

/-- The pacer's commands for connection 9 of one slot, from router 0 to router 1 of hall 0, and one to a router that is not there. -/
def pace (op n : Nat) : W64 := BitVec.ofNat 64 (op * 2 ^ 60 + 9 * 2 ^ 48 + n * 2 ^ 40 + 1 * 2 ^ 18)
def paced : State := { base with vslots := diagonal 0 9 0 1 63 }
theorem witness_LinksAndPower : ∀ s ∈ [base, paced],
    (let free := (List.range 64).filter fun k => (diagonal 0 9 0 1 k).all fun v => (s.pacerView 0).all fun x =>
       !(x.hall == v.hall && x.router == v.router && x.port == v.port && x.slot == v.slot)
     let held := (List.range 64).filter fun k => (diagonal 0 9 0 1 k).all fun v => (s.pacerView 0).contains v
     (∀ op ∈ [1, 2, 3], (pace op 1).extractLsb' 60 4 = BitVec.ofNat 4 op ∧ routersOk 0 (pace op 1) = true) ∧ 1 ≤ free.length ∧ free.length < 65 ∧
     (held = if s.vslots = [] then [] else [63])) := by decide +kernel
theorem witness_LinksAndPower_links : 3 < 4 ∧ 7 < 8 ∧ 7 % 2 ∈ ((base.modHall 3 fun h => { h with fuse := ⟨[], [], [], [1]⟩ }).hallD (7 / 2)).fuse.ports ∧
    (let s := token [] 0 false 0
     s.flight[0]? = some (s.flight.headD default) ∧ (s.flight.headD default).cargo = .token 9 0 1 0 7 ∧ (s.inst? 9).isSome ∧
     (s.ctx? (s.flight.headD default).org.ctx).isSome ∧ s.recs = []) ∧
    (let s := { token [] 0 false 0 with flight := [⟨3, { (cx base).org with inst := some 9 }, 0, 0, .store data8 0 false false⟩] }
     (s.inst? 9).isSome ∧ (s.flight.headD default).org.inst = some 9 ∧ (s.ctx? (s.flight.headD default).org.ctx).isSome ∧ s.recs = []) ∧
    (∃ e ∈ base.stalls, e.1 < 2048 ∧ e.1 / 512 = 0 ∧ 4 < e.2.freq) ∧ (∃ f ∈ (base.hallD 3).islands, 1 < f) ∧
    2400 < 2401 ∧ (105 < 106 ∧ 115 ≤ 115) ∧ 3 < base.halls.length ∧
    base.canLower = true ∧ (∃ e ∈ [(0, 4), (2048 + 4 * 3 + 2, 1)], e.1 < 2048 ∧ ∃ x, base.stall? e.1 = some x ∧ max 4 e.2 < x.freq) ∧
    (base.hallD 3).islands[2]? = some 16 := by decide +kernel

/-- The package at each stage, with hall 0 starting; fuse maps at the minimums of R3 and just below one. -/
def staged (n : Nat) (h : HallSt) : State := { State.reset with pkg := { State.reset.pkg with stage := n }, halls := State.reset.halls.map fun x => { x with st := h } }
def fuse (n : Nat) : FuseMap := ⟨List.range n, List.range 76, List.range 60, [0, 1]⟩
theorem witness_HallLifetime : (∀ n ∈ [0, 1, 2], (staged n .starting).pkg.stage = n) ∧ 3 < (staged 2 .starting).halls.length ∧
    ((staged 2 .starting).hallD 3).st = .starting ∧ ((staged 2 .resetting).hallD 3).st = .resetting := by decide +kernel
theorem witness_HallLifetime_fuse : ∀ n ∈ [303, 304], (fuse n).stalls.Pairwise (· < ·) ∧ (fuse n).slices.Pairwise (· < ·) ∧
    (fuse n).channels.Pairwise (· < ·) ∧ (fuse n).ports.Pairwise (· < ·) ∧ (∀ k ∈ (fuse n).stalls, k < 320) ∧ (∀ k ∈ (fuse n).slices, k < 80) ∧
    (∀ k ∈ (fuse n).channels, k < 64) ∧ (∀ k ∈ (fuse n).ports, k < 2) ∧ (304 ≤ (fuse n).stalls.length ↔ n = 304) := by
  intro n h
  have h2 : n = 303 ∨ n = 304 := by simpa using h
  refine ⟨List.pairwise_lt_range, List.pairwise_lt_range, List.pairwise_lt_range, by simp [fuse], fun k hk => ?_, fun k hk => ?_,
    fun k hk => ?_, fun k hk => ?_, ?_⟩
  · have : k < n := List.mem_range.mp hk
    omega
  · have : k < 76 := List.mem_range.mp hk
    omega
  · have : k < 60 := List.mem_range.mp hk
    omega
  · have : k = 0 ∨ k = 1 := by simpa [fuse] using hk
    omega
  · simp only [fuse, List.length_range]; omega
theorem witness_HallLifetime_reports : let s := base.modHall 3 fun h => { h with lost := [9] }
    s.halls[3]? = some (s.hallD 3) ∧ (s.hallD 3).fuse.stalls.Nodup ∧ (s.hallD 3).fuse.ports.Nodup ∧ 3 < s.halls.length ∧ 1279 / 128 ∈ (s.hallD 3).lost ∧
    1280 / 128 ∉ (s.hallD 3).lost := by decide +kernel
/-- An owned stall that a fuse map leaves out. -/
theorem witness_HallLifetime_displaced : let s := { base with pkg := { base.pkg with stage := 2 }, halls := base.halls.map fun (h : Hall) => { h with st := .resetting } }
    let f : FuseMap := ⟨(List.range 304).map (· + 1), List.range 76, List.range 60, [0, 1]⟩
    (s.stall? 0).map (fun (x : Stall) => x.owner) = some (some 0) ∧ 0 ∉ f.stalls ∧ (s.ctx? 0).map (·.params.pitch) = some [0] ∧ (s.hallD 0).st = .resetting ∧ s.pkg.stage = 2 := by
  decide +kernel
/-- A hall that may be reset with a context on it, with none, and one that may not. -/
theorem witness_HallLifetime_reset : base.halls.length = 4 ∧ (base.hallD 0).st = .available ∧
    (base.ctx? 0).any (fun c => c.params.pitch.any (· / 512 == 0)) = true ∧ ((staged 2 .failed).hallD 3).st = .failed ∧
    (staged 2 .failed).ctxs = [] ∧ (staged 2 .failed).insts = [] ∧ (staged 2 .failed).pairs = [] ∧ (staged 2 .failed).ok = true ∧
    ((staged 2 .starting).hallD 3).st ≠ .available ∧ ((staged 2 .starting).hallD 3).st ≠ .failed := by decide +kernel

/-! Witnesses: steps and invariants -/

/-- The schedule fires the current slot, or holds an event, with power and without. -/
def scheduled (a : Act) (stage : Nat) : State := { base with sched := [a], cur := none, pkg := { base.pkg with stage := stage } }
theorem witness_Stepping : (scheduled (.fire 2 0) 2).sched = [.fire 2 0] ∧ ((scheduled (.fire 2 0) 2).block? 2).isSome ∧
    ((scheduled (.fire 2 0) 2).block? 2).bind (fun b => (b.parsed.getD 0 .second).instr?) = some (.nop plain) ∧
    ({ scheduled (.fire 2 0) 2 with sched := [] } : State).issuable 2 0 = some (.nop plain, 0) := by decide +kernel
theorem witness_Stepping_slot : let s := inBlock base fun b => { b with slots := [⟨some 0, some 0, some 0, false⟩] }
    let b := (cx s).b
    s.block? b.bid = some b ∧ s.frame? b.fid = some (cx s).f ∧ b.words = 0x0F00000000000000 :: [] ∧
    (decodeWord 0x0F00000000000000 0).toOption = some (.nop plain) ∧ (Instr.nop plain).wellFormed = true ∧ b.parked = false ∧ b.spec = false ∧
    s.stallRuns (cx s).f.stall = true ∧ b.waits = [] ∧ (b.slotD 0).fired = false ∧ (b.slotD 0).l = some 0 ∧ (b.slotD 0).r = some 0 ∧
    (b.slotD 0).p = some 0 := by decide +kernel
theorem witness_Stepping_event : (∀ n ∈ [0, 2], (scheduled (.event .powerGood) n).sched = [.event .powerGood] ∧ (scheduled (.event .powerGood) n).pkg.stage = n) ∧
    Instr.powerGood.isWord = false ∧ (Instr.nop plain).isWord = true ∧ Instr.hallStatus.isWord = false ∧ Instr.hallStatus ≠ .powerGood := by decide +kernel
theorem witness_RoundTrip : (Instr.bfx plain 63 0 true).wellFormed = true ∧ (Instr.spt ⟨0x3FD4, 0x064, 0, 0, 0x010, 0, 0x020, 0, 3, 0⟩ false).wellFormed = true := by
  decide +kernel
/-- Stalls whose engines run: a chunk or a row has yet to end, or the message has, and an SPE message. -/
theorem witness_Stepping_clock : (∀ n ∈ [0, 1], let s := atStall fun x => { x with pa := some (paRun n 0 false), vec := some (vecRun n 0 false) }
      s.stall? 0 = some (st0 s) ∧ s.stallRuns 0 = true ∧ (st0 s).pa = some (paRun n 0 false) ∧ (st0 s).vec = some (vecRun n 0 false) ∧
      ((paRun n 0 false).chunk < (paRun n 0 false).costs.length ↔ n = 0) ∧ ((vecRun n 0 false).rowsDone < (vecRun n 0 false).costs.length ↔ n = 0) ∧
      (st0 s).pagesIn ((st0 s).tileD 5) = true ∧ (st0 s).pagesIn ((st0 s).tileD 2) = true ∧ s.traceHolds mma.org 4 = false ∧ s.traceHolds vadd.org 4 = false) ∧
    (let s := atStall fun x => { x with spe := [speRunning 0] }
     s.stallRuns 0 = true ∧ (st0 s).spe = [speRunning 0] ∧ s.traceHolds spz.org 4 = false) := by decide +kernel
/-- An event that meets a full ring leaves a record waiting; one with room does not. -/
theorem witness_Stepping_held : ∀ n ∈ [0, 1], let s := scheduled (.event .powerGood) 2
    let t : State := { s with ctxs := s.ctxs.map fun (c : Ctx) => { c with trace := { c.trace with waiting := List.replicate n [1] } } }
    (t.ctxs.any fun c => decide (((s.ctx? c.num).map (·.trace.waiting.length)).getD 0 < c.trace.waiting.length)) = decide (n = 1) := by decide +kernel
/-- States with memory, heat cells, stores and records. -/
theorem witness_StepKeepsForm : tables.ok = true ∧ heated.ok = true ∧ State.reset.ok = true := by decide +kernel
theorem witness_StepKeepsStores : tiled.storesOk = true ∧ tiled.numbersOk = true ∧ (handling base).numbersOk = true := by decide +kernel

/-! Witnesses: words and events that complete -/

/-- The one ready frame of a stall, and the one frame on a hall's overflow list. -/
theorem witness_FrameEventsComplete_frames : (let s := frames [fr 1 .callroom, fr 4 .gated];
      s.stallRuns 0 = true ∧ s.engineUse 0 < 4 ∧ (s.frames.filter fun f => f.stall == 0 && f.inTable).length < 64 ∧ s.frameReady (fr 1 .callroom) = true ∧
      s.frame? 1 = some (fr 1 .callroom) ∧ s.blockOf 1 = none ∧ ∀ g ∈ s.frames, g.stall = 0 → s.frameReady g = true → g = fr 1 .callroom) ∧
    (let s := frames [fr 1 .overflow, fr 4 .gated];
      s.callRoom 0 0 < 8192 ∧ s.frame? 1 = some (fr 1 .overflow) ∧ s.launchGated (fr 1 .overflow) = false ∧
      ∀ g ∈ s.frames, g.stall / 512 = 0 → g.place = .overflow → g = fr 1 .overflow) := by decide +kernel
/-- A sound block is mapped; a token comes before the sources are released; a count of 2 and a frame without a parent. -/
theorem witness_FrameEventsComplete_others : (let s := fetchedBlock 0x11 0x0E00000000000000 false;
      (fresh s).breach? = none ∧ (fresh s).bkpt? = none ∧ s.watched (frameOf s) = false ∧ (fresh s).isLoop = false ∧ s.blocks = []) ∧
    (let s := { token [] 0 false 0 with insts := [{ instOf [] 0 false with released := false }] };
      (s.flight.headD default).cargo = .token 9 0 1 0 7 ∧ (s.inst? 9).map (·.released) = some false ∧ (s.inst? 9).map (·.live) = some true ∧
      s.flight.length = 1 ∧ s.behind (s.flight.headD default).org.fid 3 = true) ∧
    (let s := counting 2 0 true none;
      (s.flight.headD default).cargo = .level 2 5 0 ∧ s.behind (s.flight.headD default).org.fid 3 = true ∧ s.endTurn (s.flight.headD default) = true ∧
      (s.launch? 0 5).map (·.count) = some 2) ∧
    (let s := reclaiming false false;
      s.flight.length = 1 ∧ (cx s).f.handler = false ∧ (cx s).f.parent = none ∧ s.pinnedByKeep (cx s).f = false) := by decide +kernel
/-- A first contribution; a forward that has no part yet, and one that has; a tile that the store takes. -/
theorem witness_EngineEventsComplete : (let s := contributing [] false;
      (s.flight.headD default).cargo = .contribution 0 5 1 0 0 7 ∧ (s.red? 0 5).map (·.held) = some [] ∧ s.nodeStore 0 < 16384) ∧
    (let s := parts (.forward 9 3 0 1 1 7 0x100000004 0);
      s.redMeet 9 3 0 0x100000004 = none ∧ (s.inst? 9).map (·.freed) = some [] ∧ s.nodeStore 0 < 16384) ∧
    (let s := parts (.result 9 0 0 7 0x100000004 0);
      (s.flight.headD default).cargo = .result 9 0 0 7 0x100000004 0 ∧ s.redMeet 9 0 0 0x100000004 = some (part0, false) ∧ s.red? 0 5 = some part0) ∧
    (let s := hallWith [];
      (s.halls[1]?).map (·.xstore) = some [] ∧ (s.halls[1]?).map (·.xtaken) = some []) := by decide +kernel
/-- A word of an empty port, and a packet of a reserved type. -/
theorem witness_EngineEventsComplete_port : (base.ctx? 0).any (fun c => !c.params.confid && c.packets.isEmpty && c.num == 0) = true ∧
    ((atPort base (packet [6])).ctx? 0).map (·.packets) = some [packet [6]] ∧ (packet [6]).type = 6 := by decide +kernel
/-- What makes and runs a context, delegates a pair and ends its change, sets a ring and drains it, ends a walk and commits a block. -/
theorem witness_OwnerCompletions : two.createOk (params 511 0x100000 63 65535 1024 4096 ⟨0, 1024⟩ [1]) = true ∧
    (let s := saved false false
     (s.ctx? 0).any (fun c => c.num == 0 && !c.lostPages && !c.tdHalt && c.params.pitch == [0]) = true ∧ (s.stallD 0).suspect = false ∧ s.recs = []) ∧
    (let p := pairOf none 0 0 0
     let s := withPair tables p
     (s.ctx? 0).isSome ∧ s.pair? 0 5 = some p ∧ p.owner = none ∧ p.stt = 0 ∧ s.vaMapped 0 0x3FFFF000 4096 = false ∧
     (s.mapEntry 0 0x3FFFF000 3 (p.ctrlPa + 15) []).isSome) ∧
    (let p := pairOf (some 0) 4 4 0
     (withPair mapped p).pair? 0 5 = some p ∧ p.cur ≠ 0) ∧
    (∀ o ∈ [0, 16], let s := withPair (sent mapped (.store (ctrl o) 16 false false)) (pairOf (some 0) 4 4 0)
     s.writeOrder (s.flight.headD default) = true ∧ s.writeClear (s.flight.headD default) (ctrl o) = true ∧ s.accLost (ctrl o) false = false ∧
     s.pairAt? (ctrl o).pa = some (pairOf (some 0) 4 4 0) ∧ (16 : W64).toNat % 32 ≠ 4) ∧
    (∀ n ∈ [1, 2], (withPair mapped (pairOf (some 0) 4 2 n)).pairBusy (pairOf (some 0) 4 2 n) = false) ∧
    ((0x1000 : W64).extractLsb' 0 12 : BitVec 12) = 0 ∧
    (let s := stepping 0 []
     s.flight.length = 1 ∧ (s.stallD (s.flight.headD default).stall).hist = []) ∧
    (let s := committing [(0, .to 0x300000)] none []
     s.mayCommit (cx s).b (cx s).f = true ∧ (cx s).b.effs = [] ∧ (cx s).b.exits = [(0, .to 0x300000)] ∧ (cx s).f.handler = false ∧
     (cx s).f.reclaim = none ∧ s.stallRuns 0 = true) := by decide +kernel

end Sys2Proof.Tests
end

/-! The canonical form of memory and of heat cells, and the four halls, through every operation of the model. -/

namespace Sys2Proof.Machine

theorem ite_ok {c : Prop} [Decidable c] {a b : State} (ha : a.ok = true) (hb : b.ok = true) : (if c then a else b).ok = true := by
  split
  · exact ha
  · exact hb

theorem elim_ok {α : Type} {o : Option α} {a : State} {f : α → State} (ha : a.ok = true) (hf : ∀ x, (f x).ok = true) :
    (o.elim a f).ok = true := by
  cases o with
  | none => exact ha
  | some x => exact hf x

theorem foldl_ok {α : Type} {f : State → α → State} {l : List α} {s : State} (h : s.ok = true)
    (hf : ∀ s a, s.ok = true → (f s a).ok = true) : (l.foldl f s).ok = true := by
  induction l generalizing s with
  | nil => exact h
  | cons a l ih => exact ih (hf s a h)

theorem sameHalls_ok {s t : State} (h : s.ok = true) (hm : t.mem = s.mem) (hc : t.cells = s.cells) {f : Hall → Hall}
    (hh : t.halls = s.halls.map f) : t.ok = true :=
  ok_of_same h hm hc (by rw [hh, List.length_map])

/-- An outcome whose next state, where there is one, is in canonical form. -/
def NextOk (o : Out) : Prop := ∀ t, o = .next t → t.ok = true

theorem nextOk_next {s : State} (h : s.ok = true) : NextOk (.next s) := fun _ e => by cases e; exact h
theorem nextOk_fault {r : Fault} : NextOk (.fault r) := fun _ e => by cases e
theorem nextOk_refused {r : Refusal} : NextOk (.refused r) := fun _ e => by cases e
theorem nextOk_ite {c : Prop} [Decidable c] {a b : Out} (ha : NextOk a) (hb : NextOk b) : NextOk (if c then a else b) := by
  split
  · exact ha
  · exact hb

section
variable {s t : State}


theorem dropMem_ok {p : Nat → Bool} (h : s.ok = true) : State.ok { s with mem := spDrop p s.mem } = true := by
  obtain ⟨hm, hc, hh⟩ := (ok_iff s).1 h
  exact (ok_iff _).2 ⟨spDrop_ok _ _ _ hm, hc, hh⟩

/-! Mem -/

theorem healScratch_ok {pa : Nat} (h : s.ok = true) : (s.healScratch pa).ok = true :=
  ite_ok h (sameHalls_ok h rfl rfl rfl)

/-! Translate -/

theorem modStall_ok {n : Nat} {f : Stall → Stall} (h : s.ok = true) : (s.modStall n f).ok = true :=
  h

theorem modCtx_ok {c : Nat} {f : Ctx → Ctx} (h : s.ok = true) : (s.modCtx c f).ok = true :=
  h

theorem vaPut_ok {ctx va : Nat} {bs : List Byte} (h : s.ok = true) : (s.vaPut ctx va bs).ok = true := by
  unfold State.vaPut
  refine foldl_ok h fun _ _ h1 => ?_
  split
  · exact wrBytes_ok h1 _ _
  · exact h1

theorem vaZero_ok {ctx va n : Nat} (h : s.ok = true) : (s.vaZero ctx va n).ok = true := by
  refine foldl_ok h fun _ _ h1 => ?_
  split
  · exact dropMem_ok h1
  · exact h1

theorem fillTlb_ok {st ctx va : Nat} {l : Leaf} (h : s.ok = true) : (s.fillTlb st ctx va l).ok = true :=
  modStall_ok (modHall_ok h _ _)

theorem markAD_ok {ctx va : Nat} {wr : Bool} (h : s.ok = true) : (s.markAD ctx va wr).ok = true := by
  unfold State.markAD
  split
  · exact wrLE_ok h _ _ _
  · exact h

theorem markPages_ok {ctx va size : Nat} {wr : Bool} (h : s.ok = true) : (s.markPages ctx va size wr).ok = true :=
  ite_ok (markAD_ok h) (markAD_ok (markAD_ok h))

theorem reserve_ok {bid : Nat} {a : Acc} (h : s.ok = true) : (s.reserve bid a).ok = true :=
  modCtx_ok h

/-! Ops -/

theorem modFrame_ok {fid : Nat} {f : Frame → Frame} (h : s.ok = true) : (s.modFrame fid f).ok = true :=
  h

theorem modBlock_ok {bid : Nat} {f : Block → Block} (h : s.ok = true) : (s.modBlock bid f).ok = true :=
  h

theorem modInst_ok {i : Nat} {f : Inst → Inst} (h : s.ok = true) : (s.modInst i f).ok = true :=
  h

theorem modLaunch_ok {ctx slot : Nat} {f : Launch → Launch} (h : s.ok = true) : (s.modLaunch ctx slot f).ok = true :=
  h

theorem modHeat_ok {ctx tag : Nat} {f : Heat → Heat} (h : s.ok = true) : (s.modHeat ctx tag f).ok = true :=
  h

theorem modJobrec_ok {ctx num : Nat} {f : JobRec → JobRec} (h : s.ok = true) : (s.modJobrec ctx num f).ok = true :=
  h

theorem modRed_ok {hall slot : Nat} {f : Red → Red} (h : s.ok = true) : (s.modRed hall slot f).ok = true :=
  h

theorem modRec_ok {rid : Nat} {f : Rec → Rec} (h : s.ok = true) : (s.modRec rid f).ok = true :=
  h

theorem modPair_ok {hall pair : Nat} {f : Pair → Pair} (h : s.ok = true) : (s.modPair hall pair f).ok = true :=
  h

theorem choose_ok {l : List Nat} {k : Option Nat} (h : s.ok = true) (e : s.choose l = (k, t)) : t.ok = true := by
  unfold State.choose at e
  split at e <;> cases e <;> exact h

theorem reply_ok {status : Nat} {data : List Nat} (h : s.ok = true) : (s.reply status data).ok = true :=
  h

theorem ship_ok {org : Org} {msq : Nat} {cargo : Cargo} (h : s.ok = true) : (s.ship org msq cargo).ok = true :=
  h

theorem land_ok {k : Nat} (h : s.ok = true) : (s.land k).ok = true :=
  h

theorem count_ok {st k n : Nat} (h : s.ok = true) : (s.count st k n).ok = true := by
  dsimp only [State.count]
  split
  · exact modCtx_ok (modStall_ok h)
  · exact modStall_ok h

theorem post_ok {ctx : Nat} {e : CqEntry} (h : s.ok = true) : (s.post ctx e).ok = true :=
  modCtx_ok h

theorem tellDriver_ok {ctx : Nat} (h : s.ok = true) : (s.tellDriver ctx).ok = true :=
  post_ok h

theorem enterRoom_ok {fid : Nat} (h : s.ok = true) : (s.enterRoom fid).ok = true := by
  unfold State.enterRoom
  split
  · exact h
  · exact modFrame_ok h

theorem leaveEngine_ok {fid : Nat} (h : s.ok = true) : (s.leaveEngine fid).ok = true := by
  unfold State.leaveEngine
  split
  · exact ite_ok (enterRoom_ok h) h
  · exact h

theorem ringPut_ok {c : Ctx} {bs : List Byte} (h : s.ok = true) : (s.ringPut c bs).ok = true :=
  modCtx_ok (vaWrite_ok _ _ _ _ (vaWrite_ok _ _ _ _ h))

theorem ringLoss_ok {ctx : Nat} (h : s.ok = true) : (s.ringLoss ctx).ok = true := by
  unfold State.ringLoss
  split
  · exact h
  · exact ite_ok h (modCtx_ok (ringPut_ok h))

theorem ringOffer_ok {ctx st : Nat} {bs : List Byte} (h : s.ok = true) : (s.ringOffer ctx st bs).ok = true := by
  dsimp only [State.ringOffer]
  split
  · exact ringLoss_ok h
  · exact ite_ok (modCtx_ok (ringLoss_ok h)) (ite_ok (ite_ok (count_ok (vaWrite_ok _ _ _ _ (modCtx_ok (ringLoss_ok h)))) (modCtx_ok
      (ringLoss_ok h))) (ringPut_ok (ringLoss_ok h)))

theorem birty_ok {o : Org} {ty xw : Nat} (h : s.ok = true) : (s.birty o ty xw).ok = true := by
  unfold State.birty
  split
  · exact h
  · exact ite_ok (ringOffer_ok h) h

theorem wrCont_ok {c : Cont} {next : Nat} (h : s.ok = true) : (s.wrCont c next).ok = true := by
  unfold State.wrCont
  split
  · exact wrLE_ok h _ _ _
  · exact h

theorem wrConts_ok {l : List Cont} (h : s.ok = true) : (s.wrConts l).ok = true := by
  induction l generalizing s with
  | nil => exact h
  | cons c l ih => exact ih (wrCont_ok h)

theorem unlinkDead_ok {ctx va : Nat} (h : s.ok = true) : (s.unlinkDead ctx va).ok = true := by
  unfold State.unlinkDead
  split
  · exact h
  · extract_lets t l
    have ht : (t.wrConts l).ok = true := wrConts_ok h
    split
    · exact wrLE_ok ht _ _ _
    · exact ht

theorem launchSettle_ok {ctx slot : Nat} (h : s.ok = true) : (s.launchSettle ctx slot).ok = true := by
  unfold State.launchSettle
  split
  · refine ite_ok ?_ h
    extract_lets t1 t2
    have ht1 : t1.ok = true := modLaunch_ok h
    have ht2 : t2.ok = true := by
      dsimp only [t2]
      split
      · exact post_ok ht1
      · exact ht1
    split
    · exact ite_ok (ship_ok ht2) ht2
    · exact ht2
  · exact h

theorem jobSettle_ok {ctx num : Nat} (h : s.ok = true) : (s.jobSettle ctx num).ok = true := by
  unfold State.jobSettle
  split
  · exact ite_ok (post_ok (modJobrec_ok h)) h
  · exact h

theorem undoEffect_ok {ctx st : Nat} {x : Effect} (h : s.ok = true) : (s.undoEffect ctx st x).ok = true := by
  unfold State.undoEffect
  split
  · exact h
  · exact modCtx_ok h
  · exact h
  · exact h
  · refine ite_ok h ?_
    split
    · exact launchSettle_ok (modLaunch_ok h)
    · exact modHeat_ok h
    · exact modInst_ok h
    · exact jobSettle_ok (modJobrec_ok h)
    · exact h
  · exact h

theorem killConts_ok {o : Org} {bid : Nat} (h : s.ok = true) : (s.killConts o bid).ok = true :=
  foldl_ok h fun _ _ h1 => ship_ok (wrConts_ok h1)

theorem unreadCopies_ok {bid : Nat} (h : s.ok = true) : (s.unreadCopies bid).ok = true :=
  h

theorem dropCopies_ok {fid : Nat} (h : s.ok = true) : (s.dropCopies fid).ok = true :=
  h

theorem discard1_ok {b : Block} {cls cause slot : Nat} (h : s.ok = true) : (s.discard1 b cls cause slot).ok = true := by
  unfold State.discard1
  split
  · exact h
  · extract_lets _ _ _ _ _ t5
    have ht5 : t5.ok = true := dropCopies_ok (unreadCopies_ok (killConts_ok (modCtx_ok (foldl_ok h fun _ _ h1 => undoEffect_ok h1))))
    exact ite_ok (count_ok ht5) (birty_ok (count_ok ht5))

theorem discard_ok {b : Block} {cls cause slot : Nat} (h : s.ok = true) : (s.discard b cls cause slot).ok = true :=
  discard1_ok (foldl_ok h fun _ _ h1 => discard1_ok h1)

theorem discardSpec_ok {fid : Nat} (h : s.ok = true) : (s.discardSpec fid).ok = true :=
  foldl_ok h fun _ _ h1 => discard1_ok h1

theorem discardFrame_ok {fid cls cause slot : Nat} (h : s.ok = true) : (s.discardFrame fid cls cause slot).ok = true :=
  foldl_ok h fun _ _ h1 => discard1_ok h1

theorem handlerless_ok {r : Rec} (h : s.ok = true) : (s.handlerless r).ok = true :=
  post_ok (modCtx_ok (modRec_ok h))

theorem fwLog_ok {r : Rec} {conf : Bool} (h : s.ok = true) : (s.fwLog r conf).ok = true :=
  modHall_ok h _ _

theorem writeRec_ok {r : Rec} {c : Ctx} {k : Nat} (h : s.ok = true) : (s.writeRec r c k).ok = true :=
  ite_ok (handlerless_ok (birty_ok (vaWrite_ok _ _ _ _ (modCtx_ok (modRec_ok h))))) (birty_ok (vaWrite_ok _ _ _ _ (modCtx_ok (modRec_ok
      h))))

theorem flushRecs_ok {ctx n : Nat} (h : s.ok = true) : (s.flushRecs ctx n).ok = true := by
  induction n generalizing s with
  | zero => exact h
  | succ n ih =>
    unfold State.flushRecs
    split
    · split
      · exact ih (writeRec_ok h)
      · exact h
    · exact h

theorem enterRec_ok {r : Rec} (h : s.ok = true) : (s.enterRec r).ok = true := by
  dsimp only [State.enterRec]
  split
  · exact h
  · exact ite_ok (modHall_ok (fwLog_ok h) _ _) (flushRecs_ok (fwLog_ok h))

theorem report_ok {o : Org} {i : FaultInfo} (h : s.ok = true) : (s.report o i).ok = true :=
  enterRec_ok h

theorem blockFault_ok {bid slot : Nat} {i : FaultInfo} (h : s.ok = true) : (s.blockFault bid slot i).ok = true := by
  unfold State.blockFault
  split
  · exact h
  · split
    · exact h
    · exact ite_ok (discardSpec_ok h) (enterRec_ok (leaveEngine_ok (modFrame_ok (discard_ok h))))

theorem mapFault_ok {fid slot : Nat} {i : FaultInfo} (h : s.ok = true) : (s.mapFault fid slot i).ok = true := by
  unfold State.mapFault
  split
  · exact h
  · exact enterRec_ok (leaveEngine_ok (modFrame_ok (birty_ok (count_ok h))))

theorem freeRec_ok {r : Rec} (h : s.ok = true) : (s.freeRec r).ok = true := by
  dsimp only [State.freeRec]
  refine flushRecs_ok ?_
  split
  · exact modCtx_ok h
  · exact h

theorem unhold_ok {fid by_ : Nat} (h : s.ok = true) : (s.unhold fid by_).ok = true :=
  modFrame_ok h

/-! Cache -/

theorem putClass_ok {e : ClassEntry} (h : s.ok = true) : (s.putClass e).ok = true :=
  h

theorem putSet_ok {x : CacheSet} (h : s.ok = true) : (s.putSet x).ok = true :=
  h

theorem serve1_ok {cls : Nat} {wr : Bool} {pa : Nat} (h : s.ok = true) : (s.serve1 cls wr pa).ok = true :=
  ite_ok (putSet_ok (putClass_ok h)) (putClass_ok h)

theorem served_ok {st ctx : Nat} {pas : List Nat} {wr : Bool} (h : s.ok = true) : (s.served st ctx pas wr).ok = true :=
  foldl_ok (ite_ok (count_ok h) h) fun _ _ h1 => serve1_ok h1

theorem translated_ok {st ctx va : Nat} (h : s.ok = true) : (s.translated st ctx va).ok = true := by
  dsimp only [State.translated]
  refine ite_ok h ?_
  split
  · exact modStall_ok h
  · split
    · exact fillTlb_ok (served_ok h)
    · exact served_ok h

theorem dropLines_ok {p : CacheSet → CacheLine → Bool} (h : s.ok = true) : (s.dropLines p).ok = true :=
  h

/-! Operands -/

theorem predOff_ok {c : Cx} (h : s.ok = true) : (s.predOff c).ok = true :=
  modBlock_ok h

theorem done_ok {c : Cx} (h : s.ok = true) : (s.done c).ok = true :=
  count_ok (modBlock_ok h)

theorem sendToken_ok {bid n : Nat} {hd : Hd} {v : W64} {a : Arrival} (h : s.ok = true) : (s.sendToken bid n hd v a).ok = true :=
  modBlock_ok h

theorem deliver_ok {c : Cx} {hd : Hd} {v : W64} (h : s.ok = true) : (s.deliver c hd v).ok = true :=
  sendToken_ok (done_ok h)

theorem deliverFrom_ok {c : Cx} {hd : Hd} {v : W64} {a : Arrival} (h : s.ok = true) : (s.deliverFrom c hd v a).ok = true :=
  sendToken_ok (done_ok h)

theorem effect_ok {c : Cx} {e : Effect} (h : s.ok = true) : (s.effect c e).ok = true :=
  modBlock_ok (done_ok h)

theorem waitOn_ok {c : Cx} {w : Wait} (h : s.ok = true) : (s.waitOn c w).ok = true :=
  modBlock_ok h

theorem faultAt_ok {c : Cx} {i : FaultInfo} (h : s.ok = true) : (s.faultAt c i).ok = true :=
  blockFault_ok h

theorem runWord_ok {hd : Hd} {k : Cx → State} (h : s.ok = true) (hk : ∀ (a : Cx), (k a).ok = true) : NextOk (s.runWord hd k) := by
  unfold State.runWord
  split
  · exact nextOk_fault
  · exact nextOk_next (ite_ok (predOff_ok h) (hk _))

theorem runBare_ok {k : Cx → State} (hk : ∀ c, (k c).ok = true) : NextOk (s.runBare k) := by
  unfold State.runBare
  split
  · exact nextOk_fault
  · exact nextOk_next (hk _)

theorem satisfyReg_ok {c : Cx} {reg : BitVec 5} {v : Option W64} (h : s.ok = true) : (s.satisfyReg c reg v).ok = true :=
  ite_ok (faultAt_ok h) (modBlock_ok (done_ok h))

theorem satisfyLsid_ok {c : Cx} {lsid : BitVec 5} {k : State → State} (h : s.ok = true)
    (hk : ∀ (a : State), a.ok = true → (k a).ok = true) :
    (s.satisfyLsid c lsid k).ok = true :=
  ite_ok (faultAt_ok h) (ite_ok (hk _ h) (hk _ (modBlock_ok h)))

theorem fireExit_ok {c : Cx} {e : Exit} (h : s.ok = true) : (s.fireExit c e).ok = true :=
  ite_ok (faultAt_ok h) (modBlock_ok (done_ok h))

/-! Flags -/

theorem raiseScalar_ok {c : Cx} {fl : FlagSet} (h : s.ok = true) : (s.raiseScalar c fl).ok = true :=
  modBlock_ok h

/-! Tiles -/

theorem fillPage_ok {st page : Nat} (h : s.ok = true) : (s.fillPage st page).ok = true :=
  ite_ok h (modStall_ok h)

theorem fillPages_ok {st : Nat} {ts : List Tile} (h : s.ok = true) : (s.fillPages st ts).ok = true :=
  foldl_ok h fun _ _ h1 => fillPage_ok h1

theorem pagesOut_ok {st : Nat} {pages : List Nat} (h : s.ok = true) : (s.pagesOut st pages).ok = true := by
  unfold State.pagesOut
  split
  · exact foldl_ok h fun _ _ h1 => vaPut_ok h1
  · exact h

theorem fold_ok {fid : Nat} {afl : BitVec 5} (h : s.ok = true) : (s.fold fid afl).ok = true :=
  modFrame_ok h

theorem dropFold_ok {fid : Nat} (h : s.ok = true) : (s.dropFold fid).ok = true :=
  modFrame_ok h

/-! Blocks -/

theorem settleBlock_ok {bid : Nat} (h : s.ok = true) : (s.settleBlock bid).ok = true := by
  unfold State.settleBlock
  split
  · exact h
  · split
    · exact h
    · exact ite_ok h (ite_ok (ite_ok h (modFrame_ok (modBlock_ok h))) (ite_ok h (blockFault_ok h)))

/-! Frames -/

theorem countUp_ok {o : Org} {job : Bool} (h : s.ok = true) : (s.countUp o job).ok = true := by
  unfold State.countUp
  extract_lets t1 t2
  have ht1 : t1.ok = true := by
    dsimp only [t1]
    split
    · exact modLaunch_ok h
    · exact h
  have ht2 : t2.ok = true := ite_ok ht1 (modHeat_ok ht1)
  split
  · exact modInst_ok ht2
  · exact ht2

theorem countDown_ok {o : Org} {job : Bool} (h : s.ok = true) : (s.countDown o job).ok = true := by
  unfold State.countDown
  extract_lets t1 t2
  have ht1 : t1.ok = true := by
    dsimp only [t1]
    split
    · exact ship_ok h
    · exact h
  have ht2 : t2.ok = true := ite_ok ht1 (ship_ok ht1)
  split
  · exact ship_ok ht2
  · exact ht2

theorem addFrame_ok {f : Frame} (h : s.ok = true) : (s.addFrame f).ok = true :=
  ite_ok h (countUp_ok h)

theorem spawnChild_ok {f : Frame} {o : Org} {cell blk : Nat} {arg : W64} {extra : Nat} (h : s.ok = true) :
    (s.spawnChild f o cell blk arg extra).ok = true := by
  unfold State.spawnChild
  extract_lets _ _ _ _ t1 _ _ _ _ _ t2
  have ht1 : t1.ok = true := by
    refine ite_ok ?_ h
    split
    · exact modLaunch_ok h
    · exact modInst_ok h
    · exact h
  have ht2 : t2.ok = true := addFrame_ok ht1
  exact modFrame_ok (ite_ok ht2 (wrLE_ok ht2 _ _ _))

theorem rootFrames_ok {tmpl : Frame} {slot : Nat} {ctr : Bool} {arg : W64} {hallOfIx : Nat → Nat} {n i : Nat} (h : s.ok = true) :
    (s.rootFrames tmpl slot ctr arg hallOfIx n i).ok = true := by
  induction n generalizing s i with
  | zero => exact h
  | succ n ih => exact ih (addFrame_ok (ite_ok (modLaunch_ok h) h))

theorem startKid_ok {k : Nat} (h : s.ok = true) : (s.startKid k).ok = true := by
  unfold State.startKid
  split
  · exact ite_ok (enterRoom_ok h) h
  · exact h

theorem inlineDone_ok {parent fid : Nat} (h : s.ok = true) : (s.inlineDone parent fid).ok = true := by
  unfold State.inlineDone
  split
  · exact h
  · dsimp only
    split
    · exact ite_ok (enterRoom_ok (modFrame_ok h)) (modFrame_ok h)
    · exact startKid_ok (modFrame_ok h)

theorem freeKids_ok {f : Frame} (h : s.ok = true) : (s.freeKids f).ok = true :=
  foldl_ok h fun _ _ h1 => startKid_ok (modFrame_ok h1)

theorem dropHolds_ok {f : Frame} {o : Org} (h : s.ok = true) : (s.dropHolds f o).ok = true :=
  foldl_ok h fun _ _ h1 => ship_ok h1

theorem endFrame_ok {fid : Nat} {recl : Bool} (h : s.ok = true) : (s.endFrame fid recl).ok = true := by
  unfold State.endFrame
  split
  · exact h
  · extract_lets _ t1 t2 _ _ t5
    have ht1 : t1.ok = true := by
      dsimp only [t1]
      split
      · exact ship_ok h
      · exact h
    have ht2 : t2.ok = true := dropHolds_ok ht1
    have ht5 : t5.ok = true := freeKids_ok (ite_ok (modHall_ok ht2 _ _) (countDown_ok ht2))
    split
    · exact inlineDone_ok ht5
    · exact ht5

/-! Reclaim -/

theorem engBirty_ok {m : Msg} {ty eng n : Nat} (h : s.ok = true) : (s.engBirty m ty eng n).ok = true :=
  birty_ok h

theorem dropFolds_ok {m : Msg} (h : s.ok = true) : (s.dropFolds m).ok = true :=
  foldl_ok h fun _ _ h1 => dropFold_ok h1

theorem loseTiles_ok {st : Nat} {dsts : List Nat} (h : s.ok = true) : (s.loseTiles st dsts).ok = true :=
  foldl_ok h fun _ _ h1 => h1

theorem paAbandon_ok {st : Nat} {r : PaRun} {n : Nat} (h : s.ok = true) : (s.paAbandon st r n).ok = true :=
  engBirty_ok (loseTiles_ok (count_ok (modStall_ok h)))

theorem vecAbandon_ok {st : Nat} {r : VecRun} (h : s.ok = true) : (s.vecAbandon st r).ok = true :=
  engBirty_ok (loseTiles_ok (modStall_ok h))

theorem dropKept_ok {st : Nat} {p : Msg → Bool} (h : s.ok = true) : (s.dropKept st p).ok = true :=
  ite_ok h (elim_ok (elim_ok h fun _ => paAbandon_ok h) fun _ => vecAbandon_ok (elim_ok h fun _ => paAbandon_ok h))

theorem jobBirty_ok {m : Msg} {what bytes : Nat} (h : s.ok = true) : (s.jobBirty m what bytes).ok = true :=
  birty_ok h

theorem dropEntry_ok {m : Msg} {what : Nat} (h : s.ok = true) : (s.dropEntry m what).ok = true :=
  countDown_ok (jobBirty_ok (dropFolds_ok h))

theorem dropJob_ok {st : Nat} {j : Job} (h : s.ok = true) : (s.dropJob st j).ok = true :=
  modCtx_ok (modStall_ok h)

theorem returnRemote_ok {st : Nat} {j : Job} (h : s.ok = true) : (s.returnRemote st j).ok = true := by
  unfold State.returnRemote
  split
  · exact modHall_ok h _ _
  · exact h

theorem abandonJob_ok {st id what : Nat} (h : s.ok = true) : (s.abandonJob st id what).ok = true := by
  unfold State.abandonJob
  split
  · exact h
  · exact countDown_ok (jobBirty_ok (modStall_ok (ite_ok (dropFolds_ok (returnRemote_ok (dropJob_ok h))) (returnRemote_ok (dropJob_ok
      h)))))

theorem abandonPorter_ok {st : Nat} {p0 : Msg → Bool} (h : s.ok = true) : (s.abandonPorter st p0).ok = true :=
  foldl_ok (foldl_ok (modStall_ok h) fun _ _ h1 => ite_ok h1 (dropEntry_ok h1)) fun _ _ h1 => ite_ok (modStall_ok h1) (abandonJob_ok h1)

theorem abandonFrameWork_ok {st fid : Nat} (h : s.ok = true) : (s.abandonFrameWork st fid).ok = true :=
  abandonPorter_ok (dropKept_ok (modStall_ok h))

theorem reclaimFrame_ok {fid cause : Nat} (h : s.ok = true) : (s.reclaimFrame fid cause).ok = true := by
  unfold State.reclaimFrame
  split
  · exact h
  · exact ite_ok h (ite_ok (modFrame_ok h) (endFrame_ok (count_ok (abandonFrameWork_ok (discardFrame_ok h)))))

theorem requestReclaim_ok {f : Frame} {cause : Nat} (h : s.ok = true) : (s.requestReclaim f cause).ok = true :=
  ite_ok h (ship_ok h)

theorem credit_ok {i n k : Nat} {plus : Bool} (h : s.ok = true) : (s.credit i n k plus).ok = true :=
  modInst_ok h

theorem ueSend_ok {x : UeItem} (h : s.ok = true) : (s.ueSend x).ok = true :=
  ite_ok h h

theorem sendTok_ok {o : Org} {i n k : Nat} {tag : W16} {v : W64} (h : s.ok = true) : (s.sendTok o i n k tag v).ok = true :=
  ite_ok (ueSend_ok (credit_ok h)) (ship_ok (modInst_ok (credit_ok h)))

theorem instSettle_ok {i : Nat} (h : s.ok = true) : (s.instSettle i).ok = true := by
  unfold State.instSettle
  split
  · exact h
  · refine ite_ok ?_ h
    dsimp only
    split
    · exact ship_ok (sameHalls_ok h rfl rfl rfl)
    · exact sameHalls_ok h rfl rfl rfl

theorem levelSettle_ok {ctx lvl obj : Nat} (h : s.ok = true) : (s.levelSettle ctx lvl obj).ok = true := by
  unfold State.levelSettle
  split
  · exact launchSettle_ok h
  · exact instSettle_ok h
  · exact jobSettle_ok h
  · exact h

theorem requestAll_ok {p : Frame → Bool} (h : s.ok = true) : (s.requestAll p).ok = true :=
  foldl_ok h fun _ _ h1 => requestReclaim_ok h1

theorem abandonAll_ok {p : Msg → Bool} (h : s.ok = true) : (s.abandonAll p).ok = true :=
  foldl_ok h fun _ _ h1 => abandonPorter_ok h1

theorem cancelLaunches_ok {p : Launch → Bool} (h : s.ok = true) : (s.cancelLaunches p).ok = true :=
  h

theorem endInst_ok {i : Nat} (h : s.ok = true) : (s.endInst i).ok = true := by
  unfold State.endInst
  split
  · exact h
  · exact instSettle_ok (abandonAll_ok (requestAll_ok (cancelLaunches_ok h)))

theorem cancelInst_ok {i : Nat} (h : s.ok = true) : (s.cancelInst i).ok = true :=
  endInst_ok (ite_ok (ueSend_ok h) h)

theorem cancelLevel_ok {ctx lvl obj : Nat} (h : s.ok = true) : (s.cancelLevel ctx lvl obj).ok = true := by
  unfold State.cancelLevel
  split
  · exact abandonAll_ok (requestAll_ok (modLaunch_ok h))
  · exact ite_ok (requestAll_ok (modHeat_ok h)) h
  · exact cancelInst_ok h
  · exact abandonAll_ok (requestAll_ok (foldl_ok (cancelLaunches_ok (modJobrec_ok h)) fun _ _ h1 => cancelInst_ok h1))
  · exact h

theorem cancelDone_ok {ctx lvl obj : Nat} (h : s.ok = true) : (s.cancelDone ctx lvl obj).ok = true := by
  unfold State.cancelDone
  split
  · exact modLaunch_ok h
  · exact modHeat_ok h
  · exact modInst_ok h
  · exact modJobrec_ok h
  · exact h

theorem levelDown_ok {ctx lvl obj : Nat} (h : s.ok = true) : (s.levelDown ctx lvl obj).ok = true := by
  unfold State.levelDown
  split
  · exact modLaunch_ok h
  · exact modHeat_ok h
  · exact modInst_ok h
  · exact modJobrec_ok h
  · exact h

theorem cancelAdmit_ok {ctx lvl obj n : Nat} (h : s.ok = true) (e : s.cancelAdmit ctx lvl obj = some (n, t)) : t.ok = true := by
  unfold State.cancelAdmit at e
  repeat' split at e
  all_goals cases e <;> exact h

theorem freeHeat_ok {ctx tag : Nat} (h : s.ok = true) : (s.freeHeat ctx tag).ok = true := by
  unfold State.freeHeat
  extract_lets lo hi t
  obtain ⟨hm, hc, hh⟩ := (ok_iff s).1 h
  have ht : t.ok = true := (ok_iff t).2 ⟨hm, spOk_filter _ _ _ _ hc, hh⟩
  exact modCtx_ok ht

/-! Migrate -/

theorem migrAdd_ok {ctx page n : Nat} (h : s.ok = true) : (s.migrAdd ctx page n).ok = true :=
  ite_ok h (ite_ok h (ite_ok h h))

theorem takeNotices_ok {n : Nat} (h : s.ok = true) : (s.takeNotices n).ok = true :=
  h

theorem migrTouch_ok {ctx : Nat} {pas : List Nat} (h : s.ok = true) : (s.migrTouch ctx pas).ok = true :=
  foldl_ok h fun _ _ h1 => migrAdd_ok h1

theorem markServed_ok {st ctx va : Nat} {wr : Bool} (h : s.ok = true) : (s.markServed st ctx va wr).ok = true := by
  unfold State.markServed
  split
  · exact ite_ok h (served_ok (served_ok h))
  · exact h

theorem markAccess_ok {st ctx va n : Nat} {wr : Bool} (h : s.ok = true) : (s.markAccess st ctx va n wr).ok = true :=
  markPages_ok (ite_ok (markServed_ok h) (markServed_ok (markServed_ok h)))

theorem accessDone_ok {st : Nat} {a : Acc} {wr : Bool} (h : s.ok = true) : (s.accessDone st a wr).ok = true :=
  ite_ok h (migrTouch_ok (markAccess_ok h))

/-! Nodes -/

theorem returnCredits_ok {i : Nat} {ts : List Tok} (h : s.ok = true) : (s.returnCredits i ts).ok = true :=
  foldl_ok h fun _ _ h1 => ite_ok (ueSend_ok h1) h1

theorem starterReport_ok {x : Inst} {nd : Node} {cls : Cls} {tag : W16} (h : s.ok = true) : (s.starterReport x nd cls tag).ok = true :=
  report_ok h

theorem fireNode_ok {i node : Nat} {tag : W16} {last : Arrival} (h : s.ok = true) : (s.fireNode i node tag last).ok = true := by
  unfold State.fireNode
  split
  · exact h
  · split
    · exact ite_ok h (ite_ok (instSettle_ok (starterReport_ok (modInst_ok (returnCredits_ok h)))) (ite_ok (starterReport_ok h)
        (addFrame_ok (modInst_ok (returnCredits_ok h)))))
    · exact h

theorem fireKey_ok {i node : Nat} {tag : W16} {n : Nat} (h : s.ok = true) : (s.fireKey i node tag n).ok = true := by
  induction n generalizing s with
  | zero => exact h
  | succ n ih =>
    unfold State.fireKey
    split
    · exact h
    · split
      · exact h
      · exact ite_ok (fireNode_ok h) (ih (fireNode_ok h))

theorem keyEnters_ok {i node : Nat} {tag : W16} (h : s.ok = true) : (s.keyEnters i node tag).ok = true := by
  dsimp only [State.keyEnters]
  split
  · exact ite_ok (fireKey_ok (modInst_ok h)) (modInst_ok h)
  · exact modInst_ok h

theorem joinKey_ok {i : Nat} {t : Tok} (h : s.ok = true) : (s.joinKey i t).ok = true := by
  unfold State.joinKey
  split
  · exact h
  · exact modInst_ok h

/-! Serve -/

theorem spillOne_ok {st : Nat} (h : s.ok = true) (e : s.spillOne st = some t) : t.ok = true := by
  unfold State.spillOne at e
  repeat' split at e
  all_goals cases e <;> exact h

theorem recordFor_ok {st : Nat} {f : Frame} (h : s.ok = true) (e : s.recordFor st f = some t) : t.ok = true := by
  unfold State.recordFor at e
  split at e
  · next e1 => cases e; exact spillOne_ok h e1
  · exact spillOne_ok (modFrame_ok h) e
  · cases e

theorem execFrameServe_ok {st : Nat} (h : s.ok = true) : NextOk (execFrameServe st s) := by
  unfold execFrameServe
  refine nextOk_next (ite_ok h ?_)
  split
  · exact h
  · split
    · exact h
    · next e1 =>
        dsimp only
        split
        · exact settleBlock_ok (modBlock_ok (modFrame_ok (modStall_ok (recordFor_ok h e1))))
        · exact modFrame_ok (modStall_ok (recordFor_ok h e1))

theorem execCallroomOverflowEntry_ok {hall : Nat} (h : s.ok = true) : NextOk (execCallroomOverflowEntry hall s) := by
  unfold execCallroomOverflowEntry
  refine nextOk_next (ite_ok h ?_)
  split
  · exact h
  · exact ite_ok (keyEnters_ok (modHall_ok h _ _)) (modFrame_ok (modHall_ok h _ _))

theorem stopFrame_ok {f : Frame} {reason cookie : Nat} (h : s.ok = true) : (s.stopFrame f reason cookie).ok = true :=
  ite_ok (post_ok (post_ok (leaveEngine_ok (modFrame_ok h)))) (post_ok (leaveEngine_ok (modFrame_ok h)))

theorem fetchVersion_ok {st ctx va : Nat} {b l : List Byte} {stale : Bool} (h : s.ok = true)
    (e : s.fetchVersion st ctx va b stale = (l, t)) : t.ok = true := by
  dsimp only [State.fetchVersion] at e
  split at e
  · cases e; exact ite_ok (served_ok h) (modStall_ok (served_ok h))
  · split at e
    · next e1 => cases e; exact choose_ok h e1
    · next e1 => cases e; exact choose_ok h e1

theorem execBlockFetch_ok {fid : Nat} {stale : Bool} (h : s.ok = true) : NextOk (execBlockFetch fid stale s) := by
  unfold execBlockFetch
  refine nextOk_next ?_
  split
  · exact h
  · refine ite_ok h (ite_ok (stopFrame_ok h) ?_)
    split
    · split
      next e2 => exact modFrame_ok (fetchVersion_ok (translated_ok h) e2)
    · exact modFrame_ok h
    · exact mapFault_ok h

theorem execBlockMap_ok {fid : Nat} (h : s.ok = true) : NextOk (execBlockMap fid s) := by
  unfold execBlockMap
  refine nextOk_next ?_
  split
  · exact h
  · split
    · exact h
    · refine ite_ok h ?_
      dsimp only
      split
      · exact mapFault_ok h
      · refine ite_ok (stopFrame_ok (birty_ok (count_ok h))) ?_
        split
        · exact ite_ok (stopFrame_ok (birty_ok (count_ok h))) (mapFault_ok h)
        · exact ite_ok (modFrame_ok h) (modFrame_ok h)

theorem execSpeculativeMap_ok {fid addr : Nat} (h : s.ok = true) : NextOk (execSpeculativeMap fid addr s) := by
  unfold execSpeculativeMap
  refine nextOk_next ?_
  split
  · refine ite_ok h ?_
    split
    · split
      next e2 => exact ite_ok (ok_of_same (fetchVersion_ok h e2) rfl rfl rfl) (ok_of_same (fetchVersion_ok h e2) rfl rfl rfl)
    · exact h
  · exact h

theorem execOperandTokenArrival_ok {bid k : Nat} (h : s.ok = true) : NextOk (execOperandTokenArrival bid k s) := by
  unfold execOperandTokenArrival
  refine nextOk_next ?_
  split
  · exact h
  · split
    · refine ite_ok h ?_
      split
      · exact blockFault_ok h
      · exact settleBlock_ok (modBlock_ok h)
    · exact h

/-! Commit -/

theorem sendMsg_ok {m : Msg} (h : s.ok = true) : (s.sendMsg m).ok = true :=
  ite_ok (countUp_ok (modFrame_ok (modStall_ok h))) (modFrame_ok (modStall_ok h))

theorem startLaunch_ok {f : Frame} {o : Org} {slot : Nat} {word arg : W64} (h : s.ok = true) :
    (s.startLaunch f o slot word arg).ok = true :=
  rootFrames_ok (modLaunch_ok h)

theorem hallReport_ok {o : Org} {hall : Nat} {cls : Cls} {extra : W64} (h : s.ok = true) : (s.hallReport o hall cls extra).ok = true :=
  report_ok h

theorem dropKey_ok {i : Nat} {key : W16} {hall : Nat} {hd : W64} (h : s.ok = true) : (s.dropKey i key hall hd).ok = true :=
  foldl_ok (modInst_ok h) fun _ _ h1 => hallReport_ok h1

theorem partFreed_ok {i key part n handle hall : Nat} (h : s.ok = true) : (s.partFreed i key part n handle hall).ok = true :=
  ite_ok (dropKey_ok (modInst_ok h)) (modInst_ok h)

theorem dropRed_ok {hall slot : Nat} (h : s.ok = true) : (s.dropRed hall slot).ok = true := by
  unfold State.dropRed
  split
  · exact h
  · dsimp only
    split
    · exact ite_ok h (partFreed_ok (ite_ok (ueSend_ok h) h))
    · exact h

theorem liveRed_ok {hall slot : Nat} (h : s.ok = true) : (s.liveRed hall slot).ok = true := by
  dsimp only [State.liveRed]
  split
  · exact modRed_ok h
  · split
    · exact modRed_ok h
    · exact foldl_ok (modInst_ok (ite_ok (modRed_ok (modRed_ok h)) (modRed_ok h))) fun _ _ h1 => ship_ok h1

theorem sendGrant_ok {from_ heat ctx : Nat} {bar : List Nat} {w v : W64} (h : s.ok = true) :
    (s.sendGrant from_ heat ctx bar w v).ok = true :=
  modCtx_ok h

theorem applyEffect_ok {o : Org} {pos : Nat} {e : Nat × Effect} (h : s.ok = true) : (s.applyEffect o pos e).ok = true := by
  unfold State.applyEffect
  split
  · exact h
  · dsimp only
    split
    · exact ite_ok (foldl_ok h fun _ _ h1 => ship_ok h1) (ship_ok h)
    · split
      · split
        · exact ship_ok h
        · exact h
      · exact h
    · exact foldl_ok (ship_ok h) fun _ _ h1 => ship_ok h1
    · exact ship_ok h
    · exact h
    · exact h
    · exact h
    · exact h
    · exact h
    · exact spawnChild_ok h
    · exact ite_ok (ite_ok h (modFrame_ok h)) (ship_ok (ite_ok h (modFrame_ok h)))
    · exact ship_ok (modFrame_ok h)
    · exact ship_ok h
    · exact startLaunch_ok h
    · exact ite_ok (ship_ok h) h
    · exact sendTok_ok h
    · exact sendGrant_ok h
    · exact modHeat_ok h
    · exact freeHeat_ok h
    · exact ship_ok h
    · exact sendMsg_ok h
    · exact modFrame_ok h
    · exact ship_ok h
    · exact liveRed_ok h
    · refine ite_ok h (foldl_ok (dropRed_ok h) fun _ _ h1 => ?_)
      split
      · exact blockFault_ok h1
      · exact h1

theorem returnFrom_ok {fid : Nat} {r : Rec} {form l : Nat} {g0 : W64} (h : s.ok = true) : (s.returnFrom fid r form l g0).ok = true := by
  unfold State.returnFrom
  extract_lets t1 t2
  have ht1 : t1.ok = true := by
    dsimp only [t1]
    split
    · refine ite_ok h ?_
      split
      · exact unhold_ok h
      · exact endFrame_ok h
      · exact unhold_ok (modFrame_ok h)
    · exact h
  have ht2 : t2.ok = true := by
    dsimp only [t2]
    split
    · exact ite_ok (modStall_ok ht1) (abandonJob_ok ht1)
    · exact ht1
  exact freeRec_ok ht2

theorem endHandler_ok {f : Frame} {form l : Nat} {g0 : W64} (h : s.ok = true) : (s.endHandler f form l g0).ok = true := by
  dsimp only [State.endHandler]
  refine endFrame_ok ?_
  split
  · exact returnFrom_ok h
  · exact h

theorem noteCommit_ok {b : Block} {f : Frame} {o : Org} (h : s.ok = true) : (s.noteCommit b f o).ok = true := by
  dsimp only [State.noteCommit]
  split
  · exact ite_ok (ite_ok (ite_ok (ship_ok (count_ok (modCtx_ok (modStall_ok (modStall_ok h))))) (count_ok (modCtx_ok (modStall_ok
      (modStall_ok h))))) (modStall_ok (modStall_ok h))) (modStall_ok h)
  · exact modStall_ok h

theorem confirmSpec_ok {fid bid : Nat} (h : s.ok = true) : (s.confirmSpec fid bid).ok = true := by
  unfold State.confirmSpec
  split
  · exact h
  · split
    · exact ite_ok (settleBlock_ok (modBlock_ok h)) (discardSpec_ok h)
    · exact h

theorem svcStop_ok {b : Block} {o : Org} {ended : Bool} (h : s.ok = true) : (s.svcStop b o ended).ok = true := by
  unfold State.svcStop
  refine foldl_ok h fun _ _ h1 => ?_
  split
  · exact ite_ok (enterRec_ok h1) (enterRec_ok (leaveEngine_ok (modFrame_ok h1)))
  · exact h1

theorem settleFrame_ok {fid : Nat} {wp yld : Bool} (h : s.ok = true) : (s.settleFrame fid wp yld).ok = true := by
  unfold State.settleFrame
  split
  · exact h
  · extract_lets _ t1
    have ht1 : t1.ok = true := ite_ok (stopFrame_ok h) (ite_ok (stopFrame_ok h) (ite_ok (stopFrame_ok h) (ite_ok h (ite_ok (enterRoom_ok
        h) (modFrame_ok h)))))
    split
    · exact ht1
    · exact startKid_ok ht1

theorem commitBlock_ok {b : Block} {f : Frame} (h : s.ok = true) : (s.commitBlock b f).ok = true := by
  unfold State.commitBlock
  extract_lets _ o pos s1 s2 s3 s4 s5 s6 s7 s8 s9 s10 s11 s12 wp yld ended s13 s14 s15
  have h3 : s3.ok = true := by
    refine foldl_ok (modFrame_ok (modStall_ok h)) fun _ _ h1 => ?_
    split
    · exact modCtx_ok h1
    · exact h1
  have h5 : s5.ok = true := ok_of_same (foldl_ok h3 fun _ _ h1 => applyEffect_ok h1 : s4.ok = true) rfl rfl rfl
  have h7 : s7.ok = true := markAccess_ok (foldl_ok h5 fun _ _ h1 => ite_ok (accessDone_ok h1) h1)
  have h8 : s8.ok = true := by
    refine foldl_ok h7 fun _ _ h1 => ?_
    split
    · exact birty_ok h1
    · exact h1
  have h11 : s11.ok = true := ok_of_same (modFrame_ok (noteCommit_ok (birty_ok (count_ok h8))) : s10.ok = true) rfl rfl rfl
  have h13 : s13.ok = true := svcStop_ok (ite_ok h11 (modCtx_ok h11))
  have h15 : s15.ok = true := discardSpec_ok (ite_ok (post_ok h13) h13)
  have go : ((s13.settleFrame f.fid wp yld).confirmSpec f.fid b.bid).ok = true := confirmSpec_ok (settleFrame_ok h13)
  refine ite_ok ?_ ?_
  · split
    · exact h15
    · refine ite_ok ?_ (endFrame_ok h15)
      split <;> exact endHandler_ok h15
  · split
    · split
      · exact ite_ok go (reclaimFrame_ok h13)
      · exact h13
    · exact go

theorem execBlockCommit_ok {bid : Nat} (h : s.ok = true) : NextOk (execBlockCommit bid s) := by
  unfold execBlockCommit
  refine nextOk_next ?_
  split
  · exact h
  · split
    · exact h
    · refine ite_ok h ?_
      split
      · exact blockFault_ok h
      · exact ite_ok h (ite_ok (modFrame_ok (modBlock_ok h)) (commitBlock_ok h))

/-! Engine -/

theorem takeFolds_ok {m : Msg} (h : s.ok = true) : (s.takeFolds m).ok = true :=
  foldl_ok h fun _ _ h1 => fold_ok h1

theorem engReport_ok {m : Msg} {cls : Cls} {eng : Nat} (h : s.ok = true) : (s.engReport m cls eng).ok = true :=
  report_ok h

theorem dropMsg_ok {m : Msg} {cls : Cls} {eng : Nat} (h : s.ok = true) : (s.dropMsg m cls eng).ok = true :=
  engReport_ok (dropFolds_ok h)

theorem sendAt_ok {c : Cx} {i : Instr} {bad : Option Cls} {nb ready : Bool} (h : s.ok = true) :
    (s.sendAt c i bad nb ready).ok = true := by
  unfold State.sendAt
  split
  · exact faultAt_ok h
  · exact ite_ok (faultAt_ok h) (effect_ok h)

theorem arithFail_ok {m : Msg} {eng : Nat} (h : s.ok = true) : (s.arithFail m eng).ok = true :=
  tellDriver_ok (report_ok (modStall_ok (report_ok h)))

/-! Spe -/

theorem execSpeMessageIssue_ok {st : Nat} (h : s.ok = true) : NextOk (execSpeMessageIssue st s) := by
  unfold execSpeMessageIssue
  refine nextOk_next ?_
  dsimp only
  split
  · exact h
  · refine ite_ok h ?_
    split
    · exact dropMsg_ok (modStall_ok h)
    · exact ite_ok (dropMsg_ok (modStall_ok h)) (engBirty_ok (ite_ok (modStall_ok (takeFolds_ok (modStall_ok h))) (count_ok (modStall_ok
        (takeFolds_ok (modStall_ok h))))))

theorem speLeave_ok {st : Nat} {r : SpeRun} (h : s.ok = true) : (s.speLeave st r).ok = true :=
  modStall_ok (modStall_ok h)

theorem speAbandon_ok {st : Nat} {r : SpeRun} (h : s.ok = true) : (s.speAbandon st r).ok = true :=
  engBirty_ok (loseTiles_ok (speLeave_ok h))

theorem speFinish_ok {st : Nat} {r : SpeRun} {ok : Bool} (h : s.ok = true) : (s.speFinish st r ok).ok = true :=
  ite_ok (arithFail_ok (speAbandon_ok h)) (engBirty_ok (modFrame_ok (modStall_ok (speLeave_ok h))))

theorem execSpeMessageComplete_ok {st : Nat} {ok : Bool} (h : s.ok = true) : NextOk (execSpeMessageComplete st ok s) := by
  unfold execSpeMessageComplete
  refine nextOk_next ?_
  dsimp only
  split
  · exact h
  · exact ite_ok h (ite_ok (modStall_ok h) (speFinish_ok h))

/-! Memory -/

theorem startWalk_ok {c : Cx} {va first heat : Nat} {quiet wr : Bool} (h : s.ok = true) :
    (s.startWalk c va first heat quiet wr).ok = true :=
  waitOn_ok h

theorem checked_ok {c : Cx} {n : Need} {store : Bool} {ea : W64} {size heat : Nat} {k : Acc → State} (h : s.ok = true)
    (hk : ∀ (a : Acc), (k a).ok = true) :
    (s.checked c n store ea size heat k).ok = true := by
  unfold State.checked
  split
  · exact hk _
  · exact startWalk_ok h
  · exact faultAt_ok h

theorem sees_ok {c : Cx} {a : Acc} {rd wr mark : Bool} (h : s.ok = true) : (s.sees c a rd wr mark).ok = true :=
  modBlock_ok h

theorem noteSeen_ok {b : Block} {f : Frame} {m : MemOp} (h : s.ok = true) : (s.noteSeen b f m).ok = true :=
  ite_ok h h

theorem countAccess_ok {st : Nat} {a : Acc} {wr : Bool} (h : s.ok = true) : (s.countAccess st a wr).ok = true :=
  served_ok (count_ok h)

theorem failHall_ok {hall : Nat} (h : s.ok = true) : (s.failHall hall).ok = true :=
  foldl_ok (modHall_ok h _ _) fun _ _ h1 => tellDriver_ok h1

theorem loseSector_ok {ctx heat : Nat} {b : BLoc} (h : s.ok = true) : (s.loseSector ctx heat b).ok = true :=
  ite_ok (modHall_ok h _ _) (ite_ok h (ite_ok (failHall_ok h) (modHall_ok h _ _)))

theorem addOp_ok {c : Cx} {lsid : BitVec 5} {k : OpKind} {a : Acc} (h : s.ok = true) : (s.addOp c lsid k a).ok = true :=
  h

theorem specLoad_ok {c : Cx} {hd : Hd} {m : MF} {n : Need} {base : W64} {heat : Nat} (h : s.ok = true) :
    (s.specLoad c hd m n base heat).ok = true := by
  unfold State.specLoad
  split
  · exact addOp_ok (sees_ok (done_ok h))
  · exact waitOn_ok h
  · exact modBlock_ok (deliver_ok h)

theorem loadBy_ok {c : Cx} {hd : Hd} {m : MF} {base : W64} {heat : Nat} {ld : Bool} (h : s.ok = true) :
    (s.loadBy c hd m base heat ld).ok = true :=
  satisfyLsid_ok h fun _ h1 => ite_ok (specLoad_ok h1) (checked_ok h1 fun _ => addOp_ok (sees_ok (done_ok h1)))

theorem execLds_ok {hd : Hd} {m : MF} (h : s.ok = true) : NextOk (execLds hd m s) := by
  unfold execLds
  refine runWord_ok h fun _ => satisfyLsid_ok h fun _ h1 => ite_ok (deliver_ok h1) ?_
  split
  · exact addOp_ok (sees_ok (done_ok h1))
  · exact ite_ok (waitOn_ok h1) (startWalk_ok h1)
  · exact deliver_ok h1

theorem execPref_ok {hd : Hd} {m : MF} (h : s.ok = true) : NextOk (execPref hd m s) := by
  unfold execPref
  refine runWord_ok h fun _ => satisfyLsid_ok h fun _ h1 => ite_ok (done_ok h1) ?_
  split
  · exact served_ok (done_ok h1)
  · exact ite_ok (waitOn_ok h1) (startWalk_ok h1)
  · exact done_ok h1

theorem noteCopies_ok {fid bid : Nat} {a : Acc} {ws : List (Nat × Acc × List Byte)} (h : s.ok = true) :
    (s.noteCopies fid bid a ws).ok = true :=
  h

theorem readError_ok {b : Block} {m : MemOp} {bad : BLoc → Bool} {cls : Cls} (h : s.ok = true) : (s.readError b m bad cls).ok = true :=
  blockFault_ok h

theorem loadDone_ok {b : Block} {f : Frame} {m : MemOp} {hd : Hd} {sg : Bool} {bs : List Byte} (h : s.ok = true) :
    (s.loadDone b f m hd sg bs).ok = true :=
  countAccess_ok (sendToken_ok (noteSeen_ok h))

theorem readByte_ok {b : Block} {f : Frame} {m : MemOp} {hd : Hd} {sg : Bool} (h : s.ok = true) : (s.readByte b f m hd sg).ok = true := by
  dsimp only [State.readByte]
  split
  · next e => exact ite_ok (loadDone_ok (noteCopies_ok (choose_ok h e))) (ok_of_same (choose_ok h e) rfl rfl rfl)
  · next e => exact choose_ok h e

theorem execMemReadResponse_ok {op : Nat} {err : Bool} (h : s.ok = true) : NextOk (execMemReadResponse op err s) := by
  unfold execMemReadResponse
  refine nextOk_next ?_
  split
  · exact h
  · split
    · split
      · exact h
      · refine ite_ok h (ite_ok (readError_ok (loseSector_ok h)) (ite_ok (readError_ok h) (ite_ok (readError_ok h) ?_)))
        split
        · exact h
        · exact ite_ok (readByte_ok h) (loadDone_ok (noteCopies_ok h))
    · exact h

theorem atomicBy_ok {c : Cx} {m : MF} {i : Instr} {opnd new : W64} (h : s.ok = true) : (s.atomicBy c m i opnd new).ok = true :=
  satisfyLsid_ok h fun _ h1 => ite_ok (faultAt_ok h1) (checked_ok h1 fun _ => sees_ok (effect_ok (addOp_ok (reserve_ok h1))))

theorem execAtomicAdmit_ok {op : Nat} (h : s.ok = true) : NextOk (execAtomicAdmit op s) := by
  unfold execAtomicAdmit
  refine nextOk_next ?_
  split
  · exact h
  · split
    · split
      · exact h
      · exact ite_ok h (ite_ok (readError_ok h) (ite_ok (readError_ok h) (countAccess_ok (sendToken_ok (noteSeen_ok (noteCopies_ok h))))))
    · exact h

theorem execStmc_ok {hd : Hd} {m : MF} (h : s.ok = true) : NextOk (execStmc hd m s) :=
  runWord_ok h fun _ => satisfyLsid_ok h fun _ h1 => ite_ok (faultAt_ok h1) (checked_ok h1 fun _ => ite_ok (faultAt_ok h1) (ite_ok
      (waitOn_ok h1) (ite_ok (faultAt_ok h1) (sees_ok (effect_ok h1)))))

theorem execMcastDelivery_ok {k : Nat} (h : s.ok = true) : NextOk (execMcastDelivery k s) := by
  unfold execMcastDelivery
  refine nextOk_next ?_
  split
  · exact h
  · split
    · exact ite_ok h (ite_ok (modStall_ok (land_ok h)) (modCtx_ok (land_ok h)))
    · exact h

theorem noteEarly_ok {w : Flight} {a : Acc} (h : s.ok = true) : (s.noteEarly w a).ok = true :=
  ite_ok h h

theorem endReserve_ok {ctx bid heat : Nat} {secs : List Nat} (h : s.ok = true) : (s.endReserve ctx bid heat secs).ok = true :=
  modCtx_ok h

theorem startCells_ok {fid : Nat} {a : Acc} (h : s.ok = true) : (s.startCells fid a).ok = true :=
  foldl_ok h fun _ _ h1 => ite_ok h1 (putCells_ok h1 _ _ _)

theorem performWrite_ok {bid : Nat} {a : Acc} {bs : List Byte} (h : s.ok = true) : (s.performWrite bid a bs).ok = true :=
  ite_ok (foldl_ok (wrLocs_ok _ _ _ _ _ h) fun _ _ h1 => healScratch_ok h1) (endReserve_ok (foldl_ok (wrLocs_ok _ _ _ _ _ h) fun _ _ h1
      => healScratch_ok h1))

theorem writeError_ok {w : Flight} {a : Acc} {bad : BLoc → Bool} {cls : Cls} (h : s.ok = true) : (s.writeError w a bad cls).ok = true :=
  dropCopies_ok (report_ok (endReserve_ok h))

theorem execStorePerform_ok {k : Nat} {err : Bool} (h : s.ok = true) : NextOk (execStorePerform k err s) := by
  unfold execStorePerform
  refine nextOk_next ?_
  split
  · exact h
  · next w _ =>
    have land : ∀ a, ((s.noteEarly w a).land k).ok = true := fun _ => land_ok (noteEarly_ok h)
    extract_lets act
    have hact : ∀ a bs touch count, (act a bs touch count).ok = true := by
      intro a bs touch count
      refine ite_ok (writeError_ok (loseSector_ok (land a))) (ite_ok (writeError_ok (land a)) (ite_ok (writeError_ok (land a)) ?_))
      extract_lets t
      have ht : t.ok = true := ite_ok (dropCopies_ok (performWrite_ok (startCells_ok (land a)))) (land a)
      exact ite_ok (countAccess_ok ht) (ite_ok (served_ok ht) ht)
    split
    · exact ite_ok h (hact ..)
    · exact ite_ok h (hact ..)
    · exact ite_ok h (hact ..)
    · exact h

theorem execPageWalkDone_ok {w : Nat} (h : s.ok = true) : NextOk (execPageWalkDone w s) := by
  unfold execPageWalkDone
  refine nextOk_next ?_
  split
  · exact h
  · refine ite_ok h ?_
    extract_lets r t1 t2
    have h1 : t1.ok = true := served_ok h
    have h2 : t2.ok = true := by
      dsimp only [t2]
      cases r with
      | ok l => exact fillTlb_ok h1
      | error cls => exact h1
    split
    · extract_lets t3
      have h3 : t3.ok = true := modBlock_ok h2
      split
      · exact h3
      · exact modBlock_ok h3
      · exact blockFault_ok h3
      · exact h3
    · exact modFrame_ok h2
    · exact mapFault_ok h2

/-! Sync -/

theorem setOrigin_ok {o : Org} {va : Nat} (h : s.ok = true) : (s.setOrigin o va).ok = true :=
  h

theorem link_ok {c : Cx} {a : Acc} {hurdle : Bool} (h : s.ok = true) : (s.link c a hurdle).ok = true := by
  unfold State.link
  extract_lets k t
  have ht : t.ok = true := wrCont_ok h
  exact waitOn_ok (wrLE_ok ht _ _ _)

theorem wake1_ok {v : W64} {a : Arrival} {k : Cont} (h : s.ok = true) : (s.wake1 v a k).ok = true := by
  unfold State.wake1
  split
  · exact h
  · split
    · exact sendToken_ok (count_ok (modBlock_ok h))
    · exact h

theorem wakeAll_ok {ctx va : Nat} {v : W64} {a : Arrival} (h : s.ok = true) : (s.wakeAll ctx va v a).ok = true :=
  foldl_ok h fun _ _ h1 => wake1_ok h1

theorem failWaiters_ok {ctx va : Nat} (h : s.ok = true) : (s.failWaiters ctx va).ok = true :=
  foldl_ok h fun _ _ h1 => blockFault_ok h1

theorem syncChecked_keepsOk {c : Cx} {r w : Bool} {ea : W64} {heat : Nat} {k : Acc → State} (h : s.ok = true)
    (hk : ∀ (a : Acc), (k a).ok = true) :
    (s.syncChecked c r w ea heat k).ok = true :=
  ite_ok (faultAt_ok h) (checked_ok h fun _ => hk _)

theorem syncRead_ok {c : Cx} {a : Acc} {k : Nat → State} (h : s.ok = true) (hk : ∀ (a : Nat), (k a).ok = true) :
    (s.syncRead c a k).ok = true :=
  ite_ok (faultAt_ok h) (hk _)

theorem hurdleBy_ok {c : Cx} {m : MF} {kind : Nat} (h : s.ok = true) : (s.hurdleBy c m kind).ok = true :=
  satisfyLsid_ok h fun _ h1 => syncChecked_keepsOk h1 fun _ => sees_ok (effect_ok h1)

theorem execHdWait_ok {hd : Hd} {m : MF} (h : s.ok = true) : NextOk (execHdWait hd m s) :=
  runWord_ok h fun _ => satisfyLsid_ok h fun _ h1 => syncChecked_keepsOk h1 fun _ => ite_ok (waitOn_ok h1) (syncRead_ok h1 fun _ =>
      ite_ok (deliverFrom_ok (countAccess_ok (sees_ok h1))) (link_ok (countAccess_ok (sees_ok h1))))

theorem execHdTest_ok {hd : Hd} {m : MF} (h : s.ok = true) : NextOk (execHdTest hd m s) :=
  runWord_ok h fun _ => satisfyLsid_ok h fun _ h1 => syncChecked_keepsOk h1 fun _ => ite_ok (waitOn_ok h1) (syncRead_ok h1 fun _ =>
      ite_ok (deliverFrom_ok (countAccess_ok (sees_ok h1))) (ite_ok (link_ok (countAccess_ok (sees_ok h1))) (deliver_ok (countAccess_ok
      (sees_ok h1)))))

theorem hdSettle_ok {o : Org} {va pa w : Nat} (h : s.ok = true) : (s.hdSettle o va pa w).ok = true :=
  ite_ok (wrLE_ok h _ _ _) (wakeAll_ok (setOrigin_ok (wrLE_ok h _ _ _)))

theorem hdPerform_ok {o : Org} {a : Acc} {kind n eng : Nat} (h : s.ok = true) : (s.hdPerform o a kind n eng).ok = true := by
  unfold State.hdPerform
  extract_lets w info
  split
  · exact ite_ok (report_ok h) (wrLE_ok h _ _ _)
  · exact hdSettle_ok (ite_ok (report_ok h) h)
  · exact hdSettle_ok (ite_ok (report_ok h) h)

theorem execHurdleUpdatePerform_ok {k : Nat} {err : Bool} (h : s.ok = true) : NextOk (execHurdleUpdatePerform k err s) := by
  unfold execHurdleUpdatePerform
  refine nextOk_next ?_
  split
  · exact h
  · split
    · exact ite_ok (ite_ok h (ite_ok (report_ok (ite_ok (loseSector_ok (land_ok h)) (land_ok h))) (served_ok (hdPerform_ok (land_ok
        h))))) (ite_ok h (ite_ok (writeError_ok (ite_ok (loseSector_ok (land_ok h)) (land_ok h))) (countAccess_ok (hdPerform_ok (land_ok
        (noteEarly_ok h))))))
    · exact h

theorem execFget_ok {hd : Hd} {m : MF} (h : s.ok = true) : NextOk (execFget hd m s) :=
  runWord_ok h fun _ => satisfyLsid_ok h fun _ h1 => syncChecked_keepsOk h1 fun _ => ite_ok (waitOn_ok h1) (syncRead_ok h1 fun _ =>
      ite_ok (deliverFrom_ok (countAccess_ok (sees_ok h1))) (ite_ok (link_ok (countAccess_ok (sees_ok h1))) (faultAt_ok (countAccess_ok
      (sees_ok h1)))))

theorem execFtest_ok {hd : Hd} (h : s.ok = true) : NextOk (execFtest hd s) := by
  unfold execFtest
  refine runWord_ok h fun _ => syncChecked_keepsOk h fun _ => ite_ok (waitOn_ok h) (syncRead_ok h fun _ => ?_)
  extract_lets t1
  have ht1 : t1.ok = true := countAccess_ok (sees_ok h)
  exact ite_ok (deliverFrom_ok ht1) (ite_ok (ite_ok (link_ok ht1) (deliver_ok ht1)) (faultAt_ok ht1))

theorem execPeek_ok {hd : Hd} (h : s.ok = true) : NextOk (execPeek hd s) :=
  runWord_ok h fun _ => ite_ok (faultAt_ok h) (syncChecked_keepsOk h fun _ => syncRead_ok h fun _ => deliver_ok (countAccess_ok (sees_ok
      h)))

theorem freeCell_ok {ctx va pa : Nat} (h : s.ok = true) : (s.freeCell ctx va pa).ok = true :=
  ite_ok (modCtx_ok (wrLE_ok h _ _ _)) h

theorem execFutureCellFset_ok {k : Nat} (h : s.ok = true) : NextOk (execFutureCellFset k s) := by
  unfold execFutureCellFset
  refine nextOk_next ?_
  split
  · exact h
  · split
    · refine ite_ok h (ite_ok (writeError_ok (land_ok h)) ?_)
      extract_lets t1
      have ht1 : t1.ok = true := countAccess_ok (land_ok (noteEarly_ok h))
      exact ite_ok (wakeAll_ok (setOrigin_ok (wrLE_ok ht1 _ _ _))) (ite_ok (freeCell_ok ht1) (writeError_ok ht1))
    · exact h

theorem execFutureReachChange_ok {k : Nat} (h : s.ok = true) : NextOk (execFutureReachChange k s) := by
  unfold execFutureReachChange
  refine nextOk_next ?_
  split
  · exact h
  · split
    · extract_lets _ _ _ _ _ _ t2 t3 _ t5
      have ht2 : t2.ok = true := wrLE_ok (served_ok (land_ok h)) _ _ _
      have ht3 : t3.ok = true := ite_ok (report_ok ht2) ht2
      have ht5 : t5.ok = true := failWaiters_ok (wrLE_ok ht3 _ _ _)
      refine ite_ok h (ite_ok (land_ok h) (ite_ok (report_ok (land_ok h)) (ite_ok ht3 (ite_ok ?_ (freeCell_ok ht3)))))
      split
      · exact requestReclaim_ok ht5
      · exact freeCell_ok ht5
    · exact h

theorem execProducerEnd_ok {k : Nat} (h : s.ok = true) : NextOk (execProducerEnd k s) := by
  unfold execProducerEnd
  refine nextOk_next ?_
  split
  · exact h
  · split
    · exact ite_ok h (ite_ok (land_ok h) (ite_ok (report_ok (land_ok h)) (ite_ok (served_ok (land_ok h)) (ite_ok (ite_ok (failWaiters_ok
        (wrLE_ok (served_ok (land_ok h)) _ _ _)) (wakeAll_ok (setOrigin_ok (wrLE_ok (served_ok (land_ok h)) _ _ _)))) (freeCell_ok
        (served_ok (land_ok h)))))))
    · exact h

theorem execContinuationUnlink_ok {k : Nat} (h : s.ok = true) : NextOk (execContinuationUnlink k s) := by
  unfold execContinuationUnlink
  refine nextOk_next ?_
  split
  · exact h
  · split
    · exact unlinkDead_ok (land_ok h)
    · exact h

/-! Future -/

theorem execHtNew_ok {hd : Hd} (h : s.ok = true) : NextOk (execHtNew hd s) := by
  unfold execHtNew
  refine runWord_ok h fun _ => ?_
  split
  · next e => exact waitOn_ok (choose_ok h e)
  · next e => exact sendToken_ok (effect_ok (ok_of_same (choose_ok h e) rfl rfl rfl))

theorem execHtEnd_ok {hd : Hd} (h : s.ok = true) : NextOk (execHtEnd hd s) := by
  unfold execHtEnd
  refine runWord_ok h fun _ => ?_
  split
  · exact faultAt_ok h
  · exact ite_ok (faultAt_ok h) (ite_ok (effect_ok (modHeat_ok h)) (waitOn_ok (modHeat_ok h)))

theorem execHeatCellsFree_ok {ctx tag : Nat} (h : s.ok = true) : NextOk (execHeatCellsFree ctx tag s) := by
  unfold execHeatCellsFree
  refine nextOk_next ?_
  split
  · exact ite_ok (freeHeat_ok h) h
  · exact h

theorem execSpawn_ok {hd : Hd} {extra : BitVec 8} (h : s.ok = true) : NextOk (execSpawn hd extra s) := by
  unfold execSpawn
  refine runWord_ok h fun _ => ?_
  dsimp only
  refine ite_ok (faultAt_ok h) (ite_ok (faultAt_ok h) (ite_ok (faultAt_ok h) ?_))
  split
  · exact faultAt_ok h
  · split
    · exact h
    · split
      · next e2 => exact faultAt_ok (choose_ok h e2)
      · next e2 => exact sendToken_ok (effect_ok (modCtx_ok (choose_ok h e2)))

theorem execFref_ok {hd : Hd} (h : s.ok = true) : NextOk (execFref hd s) := by
  unfold execFref
  refine runWord_ok h fun _ => ?_
  dsimp only
  refine ite_ok (faultAt_ok h) (syncChecked_keepsOk h fun _ => ?_)
  split
  · exact faultAt_ok h
  · exact sees_ok (effect_ok h)

theorem execFdrop_ok {hd : Hd} (h : s.ok = true) : NextOk (execFdrop hd s) := by
  unfold execFdrop
  refine runWord_ok h fun _ => syncChecked_keepsOk h fun _ => ?_
  split
  · exact faultAt_ok h
  · exact sees_ok (effect_ok h)

theorem execLaunch_ok {hd : Hd} (h : s.ok = true) : NextOk (execLaunch hd s) := by
  unfold execLaunch
  refine runWord_ok h fun _ => ite_ok (faultAt_ok h) (ite_ok (faultAt_ok h) ?_)
  split
  · next e => exact faultAt_ok (choose_ok h e)
  · next e => exact sendToken_ok (effect_ok (ok_of_same (choose_ok h e) rfl rfl rfl))

theorem execLwait_ok {hd : Hd} (h : s.ok = true) : NextOk (execLwait hd s) := by
  unfold execLwait
  refine runWord_ok h fun _ => ?_
  dsimp only
  split
  · exact faultAt_ok h
  · exact ite_ok (faultAt_ok h) (ite_ok (deliver_ok h) (waitOn_ok h))

theorem execCancel_ok {hd : Hd} (h : s.ok = true) : NextOk (execCancel hd s) := by
  unfold execCancel
  refine runWord_ok h fun _ => ?_
  dsimp only
  split
  · exact faultAt_ok h
  · exact deliver_ok h
  · split
    · exact waitOn_ok h
    · next e1 => exact sendToken_ok (effect_ok (cancelAdmit_ok h e1))

theorem execSend_ok {hd : Hd} (h : s.ok = true) : NextOk (execSend hd s) := by
  unfold execSend
  refine runWord_ok h fun _ => ?_
  split
  · exact faultAt_ok h
  · exact effect_ok h
  · exact effect_ok h

theorem execTokenArrival_ok {k : Nat} (h : s.ok = true) : NextOk (execTokenArrival k s) := by
  unfold execTokenArrival
  refine nextOk_next ?_
  split
  · exact h
  · split
    · refine ite_ok h ?_
      dsimp only
      split
      · exact land_ok h
      · exact ite_ok (instSettle_ok (modInst_ok (land_ok h))) (ite_ok (joinKey_ok (land_ok h)) (fireNode_ok (joinKey_ok (land_ok h))))
    · exact h

theorem execLevelCounterUpdate_ok {k : Nat} (h : s.ok = true) : NextOk (execLevelCounterUpdate k s) := by
  unfold execLevelCounterUpdate
  refine nextOk_next ?_
  split
  · exact h
  · split
    · exact ite_ok h (ite_ok (levelSettle_ok (levelDown_ok (land_ok h))) (ite_ok (levelSettle_ok (cancelLevel_ok (cancelDone_ok (land_ok
        h)))) (cancelLevel_ok (land_ok h))))
    · exact h

theorem execReclaimRequest_ok {k : Nat} (h : s.ok = true) : NextOk (execReclaimRequest k s) := by
  unfold execReclaimRequest
  refine nextOk_next ?_
  split
  · exact h
  · split
    · exact ite_ok (reclaimFrame_ok (land_ok h)) h
    · exact h

/-! System -/

theorem eretBy_ok {c : Cx} {form l : Nat} {r : W64} (h : s.ok = true) : (s.eretBy c form l r).ok = true :=
  ite_ok (faultAt_ok h) (fireExit_ok h)

theorem execEretRedir_ok {hd : Hd} (h : s.ok = true) : NextOk (execEretRedir hd s) := by
  unfold execEretRedir
  refine runWord_ok h fun _ => ite_ok (faultAt_ok h) ?_
  split
  · exact faultAt_ok h
  · exact eretBy_ok h

theorem execCsrr_ok {hd : Hd} {n : BitVec 12} (h : s.ok = true) : NextOk (execCsrr hd n s) := by
  unfold execCsrr
  refine runWord_ok h fun _ => ite_ok (faultAt_ok h) ?_
  split
  · exact faultAt_ok h
  · exact ite_ok (waitOn_ok h) (ite_ok (waitOn_ok h) (ite_ok (waitOn_ok h) (deliver_ok h)))

theorem execFltrd_ok {hd : Hd} (h : s.ok = true) : NextOk (execFltrd hd s) := by
  unfold execFltrd
  refine runWord_ok h fun _ => ite_ok (faultAt_ok h) ?_
  split <;> exact deliver_ok h

theorem execHandlerFrameCreate_ok {hall : Nat} (h : s.ok = true) : NextOk (execHandlerFrameCreate hall s) := by
  unfold execHandlerFrameCreate
  refine nextOk_next ?_
  split
  · exact h
  · split
    · exact h
    · exact ite_ok (handlerless_ok h) (ite_ok h (modRec_ok (modHall_ok (addFrame_ok h) _ _)))

/-! Scalar -/

theorem execBri_ok {hd : Hd} {x : BitVec 3} (h : s.ok = true) : NextOk (execBri hd x s) := by
  unfold execBri
  refine runWord_ok h fun _ => ?_
  split
  · exact faultAt_ok h
  · exact fireExit_ok h

theorem execRet_ok {hd : Hd} {x : BitVec 3} (h : s.ok = true) : NextOk (execRet hd x s) := by
  unfold execRet
  refine runWord_ok h fun _ => ?_
  split
  · exact waitOn_ok h
  · split
    · exact faultAt_ok h
    · exact fireExit_ok h

theorem execGrd_ok {hd : Hd} {reg : BitVec 5} (h : s.ok = true) : NextOk (execGrd hd reg s) := by
  unfold execGrd
  refine runWord_ok h fun _ => ?_
  split
  · exact deliver_ok h
  · exact waitOn_ok h

/-! Plane -/

theorem planeExec_ok {c : Cx} {i : Instr} {nb : Bool} (h : s.ok = true) : (s.planeExec c i nb).ok = true :=
  sendAt_ok h

theorem execPaMessageStart_ok {st : Nat} (h : s.ok = true) : NextOk (execPaMessageStart st s) := by
  unfold execPaMessageStart
  refine nextOk_next ?_
  dsimp only
  refine ite_ok h ?_
  split
  · exact h
  · refine ite_ok h ?_
    split
    · exact dropMsg_ok (modStall_ok h)
    · exact engBirty_ok (modStall_ok (takeFolds_ok (modStall_ok h)))

theorem execPaChunkEnd_ok {st : Nat} {ok : Bool} (h : s.ok = true) : NextOk (execPaChunkEnd st ok s) := by
  unfold execPaChunkEnd
  refine nextOk_next ?_
  dsimp only
  split
  · exact h
  · exact ite_ok h (ite_ok (paAbandon_ok h) (ite_ok (modStall_ok h) (ite_ok (arithFail_ok (paAbandon_ok h)) (modStall_ok h))))

theorem paFinish_ok {st : Nat} {r : PaRun} (h : s.ok = true) : (s.paFinish st r).ok = true :=
  engBirty_ok (count_ok (modStall_ok (fillPages_ok h)))

theorem execPaMessageComplete_ok {st : Nat} (h : s.ok = true) : NextOk (execPaMessageComplete st s) := by
  unfold execPaMessageComplete
  refine nextOk_next ?_
  dsimp only
  split
  · exact h
  · exact ite_ok h (ite_ok (paAbandon_ok h) (paFinish_ok h))

/-! Vector -/

theorem vecExec_ok {c : Cx} {i : Instr} {nb : Bool} (h : s.ok = true) : (s.vecExec c i nb).ok = true :=
  sendAt_ok h

theorem execVecMessageStart_ok {st : Nat} (h : s.ok = true) : NextOk (execVecMessageStart st s) := by
  unfold execVecMessageStart
  refine nextOk_next ?_
  dsimp only
  refine ite_ok h ?_
  split
  · exact h
  · refine ite_ok h ?_
    split
    · exact dropMsg_ok (modStall_ok h)
    · exact engBirty_ok (modStall_ok (takeFolds_ok (modStall_ok h)))

theorem execVecRowEnd_ok {st : Nat} {ok : Bool} (h : s.ok = true) : NextOk (execVecRowEnd st ok s) := by
  unfold execVecRowEnd
  refine nextOk_next ?_
  dsimp only
  split
  · exact h
  · exact ite_ok h (ite_ok (vecAbandon_ok h) (ite_ok (count_ok (modStall_ok h)) (ite_ok (arithFail_ok (vecAbandon_ok h)) (modStall_ok
      h))))

theorem vecFinish_ok {st : Nat} {r : VecRun} (h : s.ok = true) : (s.vecFinish st r).ok = true :=
  engBirty_ok (modStall_ok (fillPages_ok h))

theorem execVecMessageComplete_ok {st : Nat} (h : s.ok = true) : NextOk (execVecMessageComplete st s) := by
  unfold execVecMessageComplete
  refine nextOk_next ?_
  dsimp only
  split
  · exact h
  · exact ite_ok h (ite_ok (vecAbandon_ok h) (vecFinish_ok h))

/-! TileOps -/

theorem execTget_ok {hd : Hd} {ta : BitVec 6} {nb : Bool} (h : s.ok = true) : NextOk (execTget hd ta nb s) := by
  unfold execTget
  refine runWord_ok h fun _ => ?_
  dsimp only
  refine ite_ok (waitOn_ok h) (ite_ok (faultAt_ok h) (ite_ok (ite_ok (faultAt_ok h) (waitOn_ok h)) ?_))
  split
  · exact faultAt_ok h
  · exact ite_ok (faultAt_ok h) (ite_ok (waitOn_ok h) (deliverFrom_ok (modBlock_ok (modStall_ok h))))

theorem execTileTableOpApply_ok {st k : Nat} (h : s.ok = true) : NextOk (execTileTableOpApply st k s) := by
  unfold execTileTableOpApply
  refine nextOk_next ?_
  dsimp only
  split
  · exact h
  · refine ite_ok h ?_
    split
    · exact modStall_ok (takeFolds_ok h)
    · exact engReport_ok (modStall_ok (takeFolds_ok h))

theorem execTilePageRefill_ok {st page : Nat} {err : Bool} (h : s.ok = true) : NextOk (execTilePageRefill st page err s) := by
  unfold execTilePageRefill
  refine nextOk_next ?_
  extract_lets _ _ _ _ _ t4 t5 t6
  have ht4 : t4.ok = true := foldl_ok (foldl_ok (foldl_ok (modStall_ok h) fun _ _ h1 => dropMsg_ok h1) fun _ _ h1 => dropMsg_ok h1) fun
      _ _ h1 => dropMsg_ok h1
  have ht5 : t5.ok = true := by
    dsimp only [t5]
    split
    · exact ite_ok (engReport_ok (paAbandon_ok ht4)) ht4
    · exact ht4
  have ht6 : t6.ok = true := by
    dsimp only [t6]
    split
    · exact ite_ok (engReport_ok (vecAbandon_ok ht5)) ht5
    · exact ht5
  refine ite_ok h (ite_ok (fillPage_ok h) (foldl_ok (foldl_ok (abandonPorter_ok ht6) fun _ _ h1 => engReport_ok h1) fun _ _ h1 => ?_))
  split
  · exact blockFault_ok h1
  · exact h1

/-! Porter -/

theorem cardAt_ok {c : Cx} {i : Instr} {bad : Option Cls} {nb ready : Bool} (h : s.ok = true) : (s.cardAt c i bad nb ready).ok = true :=
  ite_ok (faultAt_ok h) (sendAt_ok h)

theorem rejectMsg_ok {m : Msg} {i : FaultInfo} (h : s.ok = true) : (s.rejectMsg m i).ok = true :=
  countDown_ok (jobBirty_ok (report_ok (dropFolds_ok h)))

theorem rejectCard_ok {m : Msg} {sub : Nat} {card : List W64} (h : s.ok = true) : (s.rejectCard m sub card).ok = true :=
  rejectMsg_ok h

theorem acceptJob_ok {st : Nat} {m : Msg} {card : List W64} (h : s.ok = true) : (s.acceptJob st m card).ok = true :=
  jobBirty_ok (modStall_ok h)

theorem execPorterJobAccept_ok {st : Nat} (h : s.ok = true) : NextOk (execPorterJobAccept st s) := by
  unfold execPorterJobAccept
  refine nextOk_next ?_
  dsimp only
  refine ite_ok h ?_
  split
  · exact h
  · refine ite_ok (modStall_ok h) (ite_ok h ?_)
    split
    · exact rejectCard_ok (modStall_ok h)
    · split
      · exact rejectCard_ok (served_ok (accessDone_ok (translated_ok (modStall_ok h))))
      · exact acceptJob_ok (served_ok (accessDone_ok (translated_ok (modStall_ok h))))

theorem startJob_ok {st : Nat} {j : Job} (h : s.ok = true) : (s.startJob st j).ok = true := by
  dsimp only [State.startJob]
  split
  · exact modHall_ok (modStall_ok (takeFolds_ok h)) _ _
  · exact modStall_ok (takeFolds_ok h)

theorem execPorterJobStart_ok {st : Nat} (h : s.ok = true) : NextOk (execPorterJobStart st s) := by
  unfold execPorterJobStart
  refine nextOk_next ?_
  dsimp only
  refine ite_ok h ?_
  split
  · exact h
  · exact ite_ok (rejectMsg_ok (modStall_ok h)) (ite_ok (rejectMsg_ok (modStall_ok h)) (startJob_ok h))
  · split
    · exact rejectCard_ok (dropJob_ok h)
    · split
      · exact rejectMsg_ok (dropJob_ok h)
      · exact startJob_ok h

theorem failJob_ok {st : Nat} {j : Job} {i : FaultInfo} (h : s.ok = true) : (s.failJob st j i).ok = true :=
  report_ok (abandonJob_ok h)

theorem sendRemote_ok {j : Job} (h : s.ok = true) : (s.sendRemote j).ok = true := by
  unfold State.sendRemote
  split
  · exact ite_ok (ueSend_ok h) (ship_ok h)
  · exact h

theorem gateDown_ok {ctx slot : Nat} (h : s.ok = true) : (s.gateDown ctx slot).ok = true := by
  dsimp only [State.gateDown]
  split
  · exact ite_ok h (modLaunch_ok h)
  · exact modLaunch_ok h

theorem arriveFor_ok {j : Job} (h : s.ok = true) : (s.arriveFor j).ok = true := by
  dsimp only [State.arriveFor]
  refine ite_ok (report_ok h) ?_
  split
  · exact report_ok h
  · split
    · exact report_ok h
    · exact accessDone_ok (ship_ok (translated_ok h))

theorem jobAction_ok {j : Job} (h : s.ok = true) (e : s.jobAction j = some t) : t.ok = true := by
  dsimp only [State.jobAction] at e
  split at e
  · cases e; exact arriveFor_ok h
  · split at e
    · cases e; exact report_ok h
    · cases e; exact sendGrant_ok h
    · split at e
      · cases e
      · cases e; exact sendTok_ok h
  · split at e
    · split at e
      · cases e; exact report_ok h
      · cases e; exact gateDown_ok h
    · cases e; exact report_ok h
  · cases e; exact h

theorem execPorterJobComplete_ok {st id : Nat} (h : s.ok = true) : NextOk (execPorterJobComplete st id s) := by
  unfold execPorterJobComplete
  refine nextOk_next ?_
  dsimp only
  split
  · exact h
  · refine ite_ok h ?_
    split
    · exact ite_ok h (modStall_ok (sendRemote_ok h))
    · next e1 => exact countDown_ok (dropJob_ok (jobBirty_ok (jobAction_ok (ite_ok h (modStall_ok (sendRemote_ok h))) e1)))

/-! Round -/

theorem reserveAll_ok {j : Job} {l : List Acc} (h : s.ok = true) (e : s.reserveAll j l = .ok t) : t.ok = true := by
  induction l generalizing s with
  | nil => cases e; exact h
  | cons a l ih =>
    unfold State.reserveAll at e
    split at e
    · cases e
    · exact ih (reserve_ok h) e

theorem stopRound_ok {st : Nat} {j : Job} {e : Stop} (h : s.ok = true) : (s.stopRound st j e).ok = true :=
  ite_ok (enterRec_ok (jobBirty_ok (modStall_ok h))) (failJob_ok h)

theorem beginRound_ok {st : Nat} {j : Job} {hi : Nat} {slots : List Nat} {y : Stall} {r : RoundM Build} (h : s.ok = true) :
    (s.beginRound st j hi slots y r).ok = true := by
  unfold State.beginRound
  split
  · exact stopRound_ok h
  · split
    · exact failJob_ok h
    · next e => exact foldl_ok (modStall_ok (reserveAll_ok h e)) fun _ _ h1 => translated_ok h1

theorem execPorterRoundStart_ok {st id : Nat} (h : s.ok = true) : NextOk (execPorterRoundStart st id s) := by
  unfold execPorterRoundStart
  refine nextOk_next ?_
  dsimp only
  split
  · exact h
  · refine ite_ok h ?_
    split
    · exact beginRound_ok h
    · split
      · exact h
      · exact beginRound_ok h

theorem jobPerform_ok {st : Nat} {j : Job} {w : JobWrite} (h : s.ok = true) : (State.jobPerform st s j w).1.ok = true := by
  cases w with
  | mem a bs => exact performWrite_ok h
  | rmw a op fp x => exact performWrite_ok h
  | word a fl => exact performWrite_ok h
  | tile t o bs => exact modStall_ok h
  | afl t fl => exact modStall_ok h

theorem endRound_ok {st : Nat} {j : Job} {r : Round} (h : s.ok = true) : (s.endRound st j r).ok = true := by
  have writes : ∀ (ws : List JobWrite) (p : State × Job), p.1.ok = true →
      (ws.foldl (fun (e : State × Job) w => State.jobPerform st e.1 e.2 w) p).1.ok = true := by
    intro ws
    induction ws with
    | nil => exact fun _ hp => hp
    | cons w ws ih => exact fun p hp => ih _ (jobPerform_ok hp)
  exact modCtx_ok (modStall_ok (foldl_ok (count_ok (count_ok (writes r.writes (s, j) h))) fun _ _ h1 => served_ok (accessDone_ok h1)))

theorem roundDone_ok {st : Nat} {j : Job} {r : Round} {err : Bool} (h : s.ok = true) : (s.roundDone st j r err).ok = true := by
  dsimp only [State.roundDone]
  refine ite_ok (failJob_ok (modStall_ok (loseSector_ok h))) ?_
  split
  · exact failJob_ok (modStall_ok h)
  · exact failJob_ok (modStall_ok h)
  · exact ite_ok (abandonJob_ok (endRound_ok h)) (endRound_ok h)

theorem execPorterRoundComplete_ok {st id : Nat} {err : Bool} (h : s.ok = true) : NextOk (execPorterRoundComplete st id err s) := by
  unfold execPorterRoundComplete
  refine nextOk_next ?_
  split
  · exact h
  · split
    · exact h
    · exact ite_ok h (roundDone_ok h)

/-! Reduce -/

theorem redInit_ok {c : Cx} {hd : Hd} (h : s.ok = true) : (s.redInit c hd).ok = true := by
  dsimp only [State.redInit]
  refine ite_ok (faultAt_ok h) (ite_ok (faultAt_ok h) (ite_ok (faultAt_ok h) ?_))
  split
  · next e => exact faultAt_ok (choose_ok h e)
  · next e => exact sendToken_ok (effect_ok (ok_of_same (choose_ok h e) rfl rfl rfl))

theorem execRdinitFree_ok {hd : Hd} (h : s.ok = true) : NextOk (execRdinitFree hd s) := by
  unfold execRdinitFree
  refine runWord_ok h fun _ => ?_
  split
  · exact faultAt_ok h
  · exact effect_ok h

theorem execRed_ok {hd : Hd} (h : s.ok = true) : NextOk (execRed hd s) := by
  unfold execRed
  refine runWord_ok h fun _ => ?_
  dsimp only
  split
  · exact faultAt_ok h
  · exact ite_ok (faultAt_ok h) (effect_ok h)

theorem redWait_ok {c : Cx} {hd : Hd} {flags : Bool} (h : s.ok = true) : (s.redWait c hd flags).ok = true := by
  unfold State.redWait
  split
  · exact faultAt_ok h
  · exact ite_ok (faultAt_ok h) (ite_ok (waitOn_ok h) (deliverFrom_ok (modBlock_ok h)))

theorem breakParts_ok {inst : Option Nat} {key : Nat} (h : s.ok = true) : (s.breakParts inst key).ok = true :=
  h

theorem breakKey_ok {i key : Nat} (h : s.ok = true) : (s.breakKey i key).ok = true :=
  ite_ok (ueSend_ok (modInst_ok (breakParts_ok h))) (modInst_ok (breakParts_ok h))

theorem breakRed_ok {o : Org} {r : Red} (h : s.ok = true) : (s.breakRed o r).ok = true :=
  hallReport_ok (ite_ok (modRed_ok h) (elim_ok (modRed_ok h) fun _ => breakKey_ok (modRed_ok h)))

theorem shipPart_ok {o : Org} {part inst : Nat} {near : Cargo} {far : UeItem} (h : s.ok = true) :
    (s.shipPart o part inst near far).ok = true :=
  ite_ok (ueSend_ok h) (ship_ok h)

theorem forwardTo_ok {r : Red} {part l j : Nat} {v : W64} {fl : BitVec 5} {o : Org} (h : s.ok = true) :
    (r.forwardTo part l j v fl o s).ok = true :=
  shipPart_ok h

theorem redTop_ok {o : Org} {r : Red} {v : W64} (h : s.ok = true) : (s.redTop o r v).ok = true :=
  ite_ok (ite_ok (modRed_ok h) (foldl_ok (modRed_ok h) fun _ _ h1 => shipPart_ok h1)) (ite_ok (shipPart_ok (modRed_ok h)) (forwardTo_ok
      (modRed_ok h)))

theorem redSettle_ok {o : Org} {old : Red} {a : Arrival} {e : Red × RedEnd} (h : s.ok = true) : (s.redSettle o old a e).ok = true := by
  dsimp only [State.redSettle]
  split
  · exact breakRed_ok h
  · exact redTop_ok h
  · exact ite_ok (breakRed_ok h) (modRed_ok h)

theorem redContribute_ok {o : Org} {r : Red} {l j : Nat} {v : W64} (h : s.ok = true) : (s.redContribute o r l j v).ok = true :=
  ite_ok h (ite_ok (forwardTo_ok h) (redSettle_ok h))

theorem execRedContributionArrive_ok {k : Nat} (h : s.ok = true) : NextOk (execRedContributionArrive k s) := by
  unfold execRedContributionArrive
  refine nextOk_next ?_
  split
  · exact h
  · split
    · refine ite_ok h ?_
      dsimp only
      split
      · exact ite_ok (redContribute_ok (land_ok h)) (hallReport_ok (land_ok h))
      · exact hallReport_ok (land_ok h)
    · exact h

theorem keepFwd_ok {x : Inst} {f : Fwd} (h : s.ok = true) : (s.keepFwd x f).ok = true := by
  dsimp only [State.keepFwd]
  split
  · exact hallReport_ok h
  · refine ite_ok (modInst_ok h) (ite_ok (modInst_ok h) ?_)
    split
    · exact breakRed_ok h
    · exact hallReport_ok (breakKey_ok h)

theorem execRedPartForwardArrive_ok {k : Nat} (h : s.ok = true) : NextOk (execRedPartForwardArrive k s) := by
  unfold execRedPartForwardArrive
  refine nextOk_next ?_
  split
  · exact h
  · dsimp only
    split
    · exact land_ok h
    · split
      · exact keepFwd_ok (land_ok h)
      · exact ite_ok (land_ok h) (ite_ok (breakRed_ok (land_ok h)) (redSettle_ok (land_ok h)))

theorem execRedResultArrive_ok {k : Nat} (h : s.ok = true) : NextOk (execRedResultArrive k s) := by
  unfold execRedResultArrive
  refine nextOk_next ?_
  split
  · exact h
  · split
    · refine ite_ok (land_ok h) ?_
      split
      · exact h
      · exact ite_ok (land_ok h) (ite_ok (breakRed_ok (land_ok h)) (modRed_ok (land_ok h)))
    · exact h

theorem execXmsgArrive_ok {k : Nat} (h : s.ok = true) : NextOk (execXmsgArrive k s) := by
  unfold execXmsgArrive
  refine nextOk_next ?_
  split
  · exact h
  · split
    · split
      · exact land_ok h
      · exact ite_ok (hallReport_ok (land_ok h)) (ite_ok h (modHall_ok (land_ok h) _ _))
    · exact h

/-! Space -/

theorem zeroRun_ok {pa n : Nat} (h : s.ok = true) : (s.zeroRun pa n).ok = true := dropMem_ok h

theorem mapFrom_ok {va lvl n fuel table : Nat} {pages l : List Nat} (h : s.ok = true)
    (e : s.mapFrom va lvl n fuel table pages = some (t, l)) : t.ok = true := by
  induction fuel generalizing s table pages with
  | zero => cases e
  | succ fuel ih =>
    dsimp only [State.mapFrom] at e
    split at e
    · cases e; exact wrLE_ok h _ _ _
    · split at e
      · split at e
        · cases e
        · exact ih h e
      · split at e
        · cases e
        · split at e
          · cases e
          · exact ih (wrLE_ok (zeroRun_ok h) _ _ _) e

theorem mapEntry_ok {ctx va lvl n : Nat} {pages l : List Nat} (h : s.ok = true)
    (e : s.mapEntry ctx va lvl n pages = some (t, l)) : t.ok = true := by
  unfold State.mapEntry at e
  split at e
  · exact mapFrom_ok h e
  · cases e

theorem formatCells_ok {ctx lo n : Nat} (h : s.ok = true) : (s.formatCells ctx lo n).ok = true := by
  unfold State.formatCells
  split
  · exact h
  · dsimp only
    refine foldl_ok h fun _ _ h1 => ?_
    split
    · exact ite_ok (modCtx_ok (wrLE_ok h1 _ _ _)) h1
    · exact h1

theorem cryptPages_ok {key : BitVec 512} {back : Bool} {pages : List Nat} (h : s.ok = true) : (s.cryptPages key back pages).ok = true :=
  dropLines_ok (foldl_ok h fun _ _ h1 => foldl_ok h1 fun _ _ h2 => wrBytes_ok h2 _ _)

theorem recrypt_ok {c : Ctx} {keep : Bool} (h : t.ok = true) : (s.recrypt t c keep).ok = true := by
  unfold State.recrypt
  split
  · exact h
  · exact ite_ok (cryptPages_ok (cryptPages_ok h)) (cryptPages_ok h)

theorem sealPages_ok {c : Ctx} (h : s.ok = true) : (s.sealPages c).ok = true :=
  elim_ok h fun _ => cryptPages_ok h

theorem execPageMap_ok {ctx va pa lvl : Nat} {flags : BitVec 12} {keep : Bool} {tables : List Nat} (h : s.ok = true) :
    NextOk (execPageMap ctx va pa lvl flags keep tables s) := by
  unfold execPageMap
  refine nextOk_next ?_
  split
  · exact reply_ok h
  · extract_lets n s'
    refine ite_ok (reply_ok h) ?_
    have hs' : s'.ok = true := ite_ok h (zeroRun_ok h)
    split
    · exact reply_ok h
    · next t _ e =>
      have ht := mapEntry_ok hs' e
      exact reply_ok (ite_ok (recrypt_ok ht) (formatCells_ok (recrypt_ok ht)))

theorem execMailboxMemoryAccess_ok {ctx va len : Nat} {data : Option (List Byte)} (h : s.ok = true) :
    NextOk (execMailboxMemoryAccess ctx va len data s) := by
  unfold execMailboxMemoryAccess
  refine nextOk_next ?_
  dsimp only
  split
  · exact reply_ok h
  · refine ite_ok (reply_ok h) (ite_ok h ?_)
    split
    · exact reply_ok (vaWrite_ok _ _ _ _ h)
    · exact reply_ok h

theorem dropTlbs_ok {ctx : Nat} {rs : List (Nat × Nat)} (h : s.ok = true) : (s.dropTlbs ctx rs).ok = true :=
  sameHalls_ok h rfl rfl rfl

theorem invalidate_ok {ctx : Nat} {rs : List (Nat × Nat)} (h : s.ok = true) : (s.invalidate ctx rs).ok = true :=
  ite_ok (reply_ok (dropTlbs_ok h)) (foldl_ok (dropTlbs_ok h) fun _ _ h1 => ship_ok h1)

theorem execDrainTokenArrive_ok {k : Nat} (h : s.ok = true) : NextOk (execDrainTokenArrive k s) := by
  unfold execDrainTokenArrive
  refine nextOk_next ?_
  split
  · exact h
  · split
    · exact ite_ok h (ite_ok (reply_ok h) h)
    · exact h

/-! Losel -/

theorem mapSeg_ok {g : Seg} {n k ctx : Nat} {p q : State × List Nat} (h : p.1.ok = true)
    (e : State.mapSeg g n k p ctx = some q) : q.1.ok = true := by
  induction n generalizing k p with
  | zero => cases e; exact h
  | succ n ih =>
    dsimp only [State.mapSeg] at e
    split at e
    · cases e
    · split at e
      · cases e
      · split at e
        · next e1 => exact ih (mapEntry_ok (wrBytes_ok (zeroRun_ok h) _ _) e1) e
        · cases e

theorem mapSegs_ok {ctx : Nat} {pages l : List Nat} {segs : List Seg} (h : s.ok = true)
    (e : s.mapSegs ctx pages segs = some (t, l)) : t.ok = true := by
  have fold : ∀ (segs : List Seg) (a : Option (State × List Nat)), (∀ p, a = some p → p.1.ok = true) →
      ∀ q, segs.foldl (fun a g => a.bind fun p => State.mapSeg g (g.room / 4096) 0 p ctx) a = some q → q.1.ok = true := by
    intro segs
    induction segs with
    | nil => exact fun a ha q e => ha q e
    | cons g segs ih =>
      refine fun a ha q e => ih _ (fun p ep => ?_) q e
      obtain ⟨p0, e0, e1⟩ := Option.bind_eq_some_iff.1 ep
      exact mapSeg_ok (ha p0 e0) e1
  exact fold segs _ (fun p ep => by cases ep; exact h) _ e

theorem buildRanges_ok {c : Ctx} (h : s.ok = true) : (s.buildRanges c).ok = true :=
  foldl_ok h fun _ _ h1 => wrLE_ok h1 _ _ _

theorem swapStall_ok {roles : List Nat} {st : Nat} (h : s.ok = true) : (s.swapStall roles st).ok = true :=
  ite_ok (modStall_ok h) (modStall_ok (pagesOut_ok (modStall_ok (foldl_ok h fun _ _ h1 => fillPage_ok h1))))

theorem swapIn_ok {c : Ctx} {roles : List Nat} (h : s.ok = true) : (s.swapIn c roles).ok = true :=
  buildRanges_ok (foldl_ok h fun _ _ h1 => swapStall_ok h1)

theorem failLoad_ok {c : Ctx} {va : Nat} {parts : List Nat} {b : Breach} (h : s.ok = true) : (s.failLoad c va parts b).ok = true :=
  modCtx_ok (ite_ok (ueSend_ok (choose_ok h rfl)) (choose_ok h rfl))

theorem execImageLoad_ok {ctx : Nat} {cut : List (Nat × Nat)} {pages : List Nat} (h : s.ok = true) :
    NextOk (execImageLoad ctx cut pages s) := by
  unfold execImageLoad
  refine nextOk_next ?_
  split
  · exact h
  · dsimp only
    refine ite_ok h ?_
    split
    · exact failLoad_ok h
    · split
      · exact failLoad_ok (choose_ok h rfl)
      · split
        · exact h
        · next e3 => exact ite_ok (modCtx_ok (ok_of_same (mapSegs_ok h e3) rfl rfl rfl)) (swapIn_ok (modCtx_ok (ok_of_same (mapSegs_ok h
            e3) rfl rfl rfl)))

theorem startInst_ok {c : Ctx} {m : Image} {slot job : Nat} (h : s.ok = true) : (s.startInst c m slot job).ok = true :=
  foldl_ok (modJobrec_ok (ite_ok h (swapIn_ok h))) fun _ _ h1 => modStall_ok h1

/-! Ingress -/

theorem execIngressSlotWrite_ok {ctx slot word : Nat} {val : W64} {ide : Bool} (h : s.ok = true) :
    NextOk (execIngressSlotWrite ctx slot word val ide s) := by
  unfold execIngressSlotWrite
  refine nextOk_next ?_
  split
  · exact h
  · exact ite_ok h (ite_ok (modCtx_ok h) (ite_ok (modCtx_ok h) (ite_ok (modCtx_ok h) (modCtx_ok h))))

theorem accept_ok {ctx : Nat} {p : Packet} (h : s.ok = true) : (s.accept ctx p).ok = true :=
  foldl_ok (modCtx_ok h) fun _ _ h1 => instSettle_ok h1

theorem answer_ok {ctx : Nat} {p : Packet} {status detail : Nat} (h : s.ok = true) : (s.answer ctx p status detail).ok = true :=
  post_ok (accept_ok h)

theorem openJob_ok {ctx num : Nat} (h : s.ok = true) : (s.openJob ctx num).ok = true :=
  ite_ok h h

theorem forgetParts_ok {ctx va : Nat} (h : s.ok = true) : (s.forgetParts ctx va).ok = true :=
  modCtx_ok h

theorem joinInst_ok {c : Ctx} {m : Image} {job i : Nat} (h : s.ok = true) (e : s.joinInst c m job = .ok (i, t)) : t.ok = true := by
  unfold State.joinInst at e
  split at e
  · cases e; exact openJob_ok h
  · split at e
    · cases e
    · split at e
      · cases e
      · split at e
        · cases e
        · next e1 => cases e; exact startInst_ok (openJob_ok (choose_ok h e1))

theorem packetLaunch_ok {c : Ctx} {m : Image} {iid slot : Nat} {p : Packet} (h : s.ok = true) :
    (s.packetLaunch c m iid slot p).ok = true :=
  rootFrames_ok (openJob_ok h)

theorem execLaunchPacket_ok {ctx : Nat} (h : s.ok = true) : NextOk (execLaunchPacket ctx s) := by
  unfold execLaunchPacket
  refine nextOk_next ?_
  split
  · exact h
  · refine ite_ok (answer_ok h) ?_
    split
    · exact answer_ok h
    · exact h
    · refine ite_ok (answer_ok h) (ite_ok (answer_ok h) (ite_ok (answer_ok h) ?_))
      split
      · next e => exact answer_ok (choose_ok h e)
      · next e =>
        extract_lets held
        have hh : held.ok = true := ok_of_same (choose_ok h e) rfl rfl rfl
        split
        · exact forgetParts_ok (answer_ok h)
        · next e1 => exact accept_ok (packetLaunch_ok (ok_of_same (joinInst_ok hh e1) rfl rfl rfl))

theorem execTokenPacket_ok {ctx : Nat} (h : s.ok = true) : NextOk (execTokenPacket ctx s) := by
  unfold execTokenPacket
  refine nextOk_next ?_
  split
  · exact h
  · refine ite_ok (answer_ok h) ?_
    split
    · exact answer_ok h
    · exact h
    · dsimp only
      refine ite_ok (answer_ok h) ?_
      split
      · exact forgetParts_ok (answer_ok h)
      · next e2 => exact ite_ok h (accept_ok (sendTok_ok (joinInst_ok h e2)))

theorem execCancelPacket_ok {ctx : Nat} (h : s.ok = true) : NextOk (execCancelPacket ctx s) := by
  unfold execCancelPacket
  refine nextOk_next ?_
  split
  · exact h
  · refine ite_ok (answer_ok h) ?_
    dsimp only
    split
    · exact answer_ok h
    · split
      · exact h
      · next e2 => exact ite_ok (answer_ok (levelSettle_ok (cancelLevel_ok (cancelDone_ok (cancelAdmit_ok h e2))))) (answer_ok
          (cancelAdmit_ok h e2))

theorem captureRecord_ok {c : Ctx} {ty cap job : Nat} (h : s.ok = true) : (s.captureRecord c ty cap job).ok = true :=
  ite_ok (ringOffer_ok h) h

theorem execStartPacket_ok {ctx : Nat} (h : s.ok = true) : NextOk (execStartPacket ctx s) := by
  unfold execStartPacket
  refine nextOk_next ?_
  split
  · exact h
  · exact ite_ok (answer_ok h) (ite_ok h (answer_ok (captureRecord_ok (modCtx_ok h))))

theorem execStopPacket_ok {ctx : Nat} (h : s.ok = true) : NextOk (execStopPacket ctx s) := by
  unfold execStopPacket
  refine nextOk_next ?_
  split
  · exact h
  · exact ite_ok (answer_ok h) (ite_ok h (answer_ok (captureRecord_ok (modCtx_ok h))))

theorem execReservedTypePacket_ok {ctx : Nat} (h : s.ok = true) : NextOk (execReservedTypePacket ctx s) := by
  unfold execReservedTypePacket
  refine nextOk_next ?_
  split
  · exact h
  · exact answer_ok h

theorem fireAll_ok {i : Nat} (h : s.ok = true) : (s.fireAll i).ok = true := by
  unfold State.fireAll
  split
  · exact h
  · exact foldl_ok h fun _ _ h1 => fireKey_ok h1

theorem execInstanceSourceRelease_ok {inst : Nat} {allLoaded : Bool} (h : s.ok = true) :
    NextOk (execInstanceSourceRelease inst allLoaded s) := by
  unfold execInstanceSourceRelease
  refine nextOk_next ?_
  split
  · exact h
  · exact ite_ok h (ite_ok (fireAll_ok (modInst_ok h)) (ite_ok (cancelInst_ok (modCtx_ok (choose_ok h rfl))) h))

theorem execCompletionEntryPost_ok {ctx : Nat} (h : s.ok = true) : NextOk (execCompletionEntryPost ctx s) := by
  unfold execCompletionEntryPost
  refine nextOk_next ?_
  split
  · exact h
  · split
    · exact h
    · refine ite_ok h ?_
      dsimp only
      split
      · exact modLaunch_ok (modCtx_ok (vaWrite_ok _ _ _ _ h))
      · exact modCtx_ok (vaWrite_ok _ _ _ _ h)

theorem execCqHeadWrite_ok {ctx head : Nat} (h : s.ok = true) : NextOk (execCqHeadWrite ctx head s) := by
  unfold execCqHeadWrite
  refine nextOk_next ?_
  split
  · exact reply_ok h
  · exact ite_ok (reply_ok h) (reply_ok (modCtx_ok h))

/-! Ways -/

theorem dropScratch_ok {p : Pair} {lo hi : Nat} (h : s.ok = true) : (s.dropScratch p lo hi).ok = true :=
  modHall_ok (zeroRun_ok h) _ _

theorem pairArrive_ok {p : Pair} {o : Org} (h : s.ok = true) : (s.pairArrive p o).ok = true := by
  unfold State.pairArrive
  refine ite_ok h ?_
  dsimp only
  refine ite_ok (report_ok h) ?_
  split
  · exact report_ok h
  · split
    · exact report_ok h
    · exact accessDone_ok (ship_ok h)

theorem storeWpr_ok {p : Pair} {o : Org} {x v : Nat} (h : s.ok = true) : (s.storeWpr p o x v).ok = true :=
  ite_ok (modPair_ok h) (ite_ok (modPair_ok h) (ite_ok (pairArrive_ok (modPair_ok h)) (modPair_ok h)))

theorem controlStore_ok {k : Nat} {ofs : Nat → Bool} {f : State → Pair → Org → Nat → Nat → State} (h : s.ok = true)
    (hf : ∀ t p o a d, t.ok = true → (f t p o a d).ok = true) : (s.controlStore k ofs f).ok = true := by
  unfold State.controlStore
  split
  · exact h
  · split
    · refine ite_ok h (ite_ok (writeError_ok (land_ok h)) ?_)
      extract_lets t1
      have h1 : t1.ok = true := countAccess_ok (land_ok h)
      split
      · exact ite_ok (hf _ _ _ _ _ h1) h1
      · exact h1
    · exact h

theorem execWprPhase1End_ok {hall pair : Nat} (h : s.ok = true) : NextOk (execWprPhase1End hall pair s) := by
  unfold execWprPhase1End
  refine nextOk_next ?_
  split
  · exact h
  · exact ite_ok h (modPair_ok (ite_ok (dropScratch_ok h) (dropLines_ok h)))

theorem rejectHeld_ok {p : Pair} (h : s.ok = true) : (s.rejectHeld p).ok = true :=
  foldl_ok h fun _ _ h1 => foldl_ok h1 fun _ _ h2 => rejectMsg_ok (dropJob_ok h2)

theorem takeBack_ok {p : Pair} (h : s.ok = true) : (s.takeBack p).ok = true := by
  unfold State.takeBack
  split
  · exact h
  · exact invalidate_ok (modPair_ok (foldl_ok h fun _ _ h1 => wrLE_ok h1 _ _ _))

theorem execWprChangeEnd_ok {hall pair : Nat} (h : s.ok = true) : NextOk (execWprChangeEnd hall pair s) := by
  unfold execWprChangeEnd
  refine nextOk_next ?_
  split
  · exact h
  · refine ite_ok h ?_
    extract_lets t1 _ t3 t4
    have ht1 : t1.ok = true := rejectHeld_ok h
    have ht3 : t3.ok = true := modPair_ok (ite_ok (dropScratch_ok ht1) ht1)
    have ht4 : t4.ok = true := by
      dsimp only [t4]
      split
      · exact pairArrive_ok ht3
      · exact ht3
    exact ite_ok (takeBack_ok ht4) ht4

theorem execPairDelegate_ok {ctx hall pair va : Nat} {tables : List Nat} (h : s.ok = true) :
    NextOk (execPairDelegate ctx hall pair va tables s) := by
  unfold execPairDelegate
  refine nextOk_next ?_
  split
  · refine ite_ok (reply_ok h) ?_
    split
    · exact reply_ok h
    · next e1 => exact reply_ok (modPair_ok (mapEntry_ok h e1))
  · exact reply_ok h

theorem execPairRelease_ok {hall pair : Nat} (h : s.ok = true) : NextOk (execPairRelease hall pair s) := by
  unfold execPairRelease
  refine nextOk_next ?_
  split
  · exact reply_ok h
  · split
    · exact reply_ok h
    · exact ite_ok h (ite_ok (takeBack_ok h) (modPair_ok h))

theorem dropPairs_ok {ctx : Nat} (h : s.ok = true) : (s.dropPairs ctx).ok = true :=
  foldl_ok h fun _ _ h1 => modPair_ok (dropScratch_ok (rejectHeld_ok h1))

/-! Context -/

theorem stopBlocks_ok {st : Nat} (h : s.ok = true) : (s.stopBlocks st).ok = true := by
  dsimp only [State.stopBlocks]
  refine foldl_ok (foldl_ok h fun _ _ h1 => discard1_ok h1) fun _ _ h1 => ?_
  split
  · refine ite_ok (discard_ok h1) ?_
    split
    · exact blockFault_ok h1
    · exact commitBlock_ok h1
  · exact h1

theorem stopPlane_ok {st : Nat} (h : s.ok = true) : (s.stopPlane st).ok = true := by
  unfold State.stopPlane
  split
  · exact h
  · exact ite_ok (paAbandon_ok h) (ite_ok (paFinish_ok h) (modStall_ok h))

theorem stopVector_ok {st : Nat} (h : s.ok = true) : (s.stopVector st).ok = true := by
  unfold State.stopVector
  split
  · exact h
  · exact ite_ok (vecAbandon_ok h) (ite_ok (vecFinish_ok (count_ok h)) (modStall_ok (count_ok h)))

theorem stopPorter_ok {st : Nat} (h : s.ok = true) : (s.stopPorter st).ok = true := by
  unfold State.stopPorter
  refine foldl_ok h fun _ _ h1 => ?_
  split
  · exact roundDone_ok h1
  · exact h1

theorem stopEngines_ok {st : Nat} (h : s.ok = true) : (s.stopEngines st).ok = true :=
  stopPorter_ok (foldl_ok (stopVector_ok (stopPlane_ok h)) fun _ _ h1 => speFinish_ok h1)

theorem writeBack_ok {st : Nat} (h : s.ok = true) : (s.writeBack st).ok = true :=
  modStall_ok (pagesOut_ok h)

theorem saveStall_ok {st : Nat} (h : s.ok = true) : (s.saveStall st).ok = true :=
  modStall_ok (writeBack_ok (foldl_ok h fun _ _ h1 => leaveEngine_ok h1))

theorem preemptStall_ok {st : Nat} (h : s.ok = true) : (s.preemptStall st).ok = true := by
  unfold State.preemptStall
  split
  · exact h
  · exact ite_ok h (ite_ok (stopBlocks_ok h) (saveStall_ok (stopEngines_ok (stopBlocks_ok h))))

theorem execPreempt_ok {st : Nat} (h : s.ok = true) : NextOk (execPreempt st s) := by
  unfold execPreempt
  refine nextOk_next ?_
  split
  · exact reply_ok h
  · exact ite_ok (reply_ok (preemptStall_ok h)) h

theorem rename_ok {ctx : Nat} {f cyc : Nat → Nat} (h : s.ok = true) : (s.rename ctx f cyc).ok = true :=
  modCtx_ok h

theorem displace_ok {st : Nat} {lost : Bool} (h : s.ok = true) : (s.displace st lost).ok = true := by
  unfold State.displace
  split
  · exact h
  · split <;> exact h

theorem moveTo_ok {c : Ctx} {f : Nat → Nat} {new : List Nat} (h : s.ok = true) : (s.moveTo c f new).ok = true := by
  unfold State.moveTo
  extract_lets old s1 place joins free s2 s3
  have h1 : s1.ok = true := foldl_ok h fun _ _ h1 => displace_ok h1
  have h2 : s2.ok = true := ok_of_same h1 rfl rfl rfl
  exact foldl_ok (modCtx_ok h2) fun _ _ h3 => vaZero_ok h3

theorem comeHome_ok {c : Ctx} (h : s.ok = true) : (s.comeHome c).ok = true :=
  ite_ok h (moveTo_ok h)

theorem resumeStall_ok {st : Nat} (h : s.ok = true) : (s.resumeStall st).ok = true := by
  unfold State.resumeStall
  split
  · exact h
  · split
    · exact h
    · exact ite_ok h (modStall_ok h)

theorem execCtxRun_ok {ctx : Nat} (h : s.ok = true) : NextOk (execCtxRun ctx s) := by
  unfold execCtxRun
  refine nextOk_next ?_
  split
  · exact reply_ok h
  · exact ite_ok (reply_ok h) (reply_ok (foldl_ok (foldl_ok (comeHome_ok (modCtx_ok h)) fun _ _ h1 => freeRec_ok h1) fun _ _ h1 =>
      resumeStall_ok h1))

theorem eraseCtx_ok {ctx : Nat} (h : s.ok = true) : (s.eraseCtx ctx).ok = true := by
  unfold State.eraseCtx
  extract_lets mine fids iids waves t
  have ht : t.ok = true := foldl_ok h fun _ _ h1 => modHall_ok h1 _ _
  obtain ⟨hm, hc, hh⟩ := (ok_iff t).1 ht
  exact (ok_iff _).2 ⟨hm, spOk_filter _ _ _ _ hc, (List.length_map ..).trans hh⟩

theorem execCtxDestroy_ok {ctx : Nat} (h : s.ok = true) : NextOk (execCtxDestroy ctx s) := by
  unfold execCtxDestroy
  refine nextOk_next ?_
  split
  · exact reply_ok h
  · exact ite_ok (modCtx_ok (foldl_ok h fun _ _ h1 => preemptStall_ok h1)) (reply_ok (dropPairs_ok (eraseCtx_ok (sealPages_ok (modCtx_ok
      (foldl_ok h fun _ _ h1 => preemptStall_ok h1))))))

theorem moveArea_ok {c : Ctx} {r : Region} (h : s.ok = true) : (s.moveArea c r).ok = true :=
  foldl_ok h fun _ _ h1 => vaPut_ok h1

theorem execCtxChange_ok {ctx : Nat} {ch : CtxChange} (h : s.ok = true) : NextOk (execCtxChange ctx ch s) := by
  unfold execCtxChange
  refine nextOk_next ?_
  split
  · exact reply_ok h
  · refine ite_ok (reply_ok h) ?_
    dsimp only
    refine reply_ok (flushRecs_ok ?_)
    split
    · refine formatCells_ok (modCtx_ok ?_)
      split
      · exact moveArea_ok h
      · exact h
    · refine modCtx_ok ?_
      split
      · exact moveArea_ok h
      · exact h

theorem execRepitch_ok {ctx : Nat} {pitch : List Nat} (h : s.ok = true) : NextOk (execRepitch ctx pitch s) := by
  unfold execRepitch
  refine nextOk_next ?_
  split
  · exact reply_ok h
  · dsimp only
    refine ite_ok (reply_ok h) ?_
    split
    · exact reply_ok (ite_ok (buildRanges_ok (moveTo_ok h)) (moveTo_ok h))
    · exact moveTo_ok h

theorem replaceSuspect_ok {c : Ctx} (h : s.ok = true) : (s.replaceSuspect c).ok = true := by
  unfold State.replaceSuspect
  split
  · exact h
  · refine ite_ok h ?_
    dsimp only
    split
    · exact h
    · next e1 =>
        split
        · exact foldl_ok (ite_ok (buildRanges_ok (moveTo_ok (choose_ok h e1))) (moveTo_ok (choose_ok h e1))) fun _ _ h1 =>
            resumeStall_ok h1
        · exact moveTo_ok (choose_ok h e1)

theorem replaceSuspects_ok (h : s.ok = true) : s.replaceSuspects.ok = true :=
  foldl_ok h fun _ _ h1 => replaceSuspect_ok h1

theorem execStuckDetection_ok {ctx : Nat} (h : s.ok = true) : NextOk (execStuckDetection ctx s) := by
  unfold execStuckDetection
  refine nextOk_next ?_
  split
  · exact h
  · exact ite_ok h (enterRec_ok (modCtx_ok h))

/-! Debug -/

theorem execAttest_ok {ctx : Nat} {nonce : BitVec 256} (h : s.ok = true) : NextOk (execAttest ctx nonce s) := by
  unfold execAttest
  refine nextOk_next ?_
  split <;> exact reply_ok h

theorem execTdispRequest_ok {ctx : Nat} {req : TdispReq} (h : s.ok = true) : NextOk (execTdispRequest ctx req s) := by
  unfold execTdispRequest
  refine nextOk_next ?_
  split
  · exact reply_ok h
  · split
    · exact reply_ok h
    · exact reply_ok (ite_ok (foldl_ok (modCtx_ok h) fun _ _ h1 => resumeStall_ok h1) (modCtx_ok h))

theorem debug_ok {ctx : Nat} {ok : Bool} {k : Ctx → State} (h : s.ok = true) (hk : ∀ (a : Ctx), (k a).ok = true) :
    (s.debug ctx ok k).ok = true := by
  unfold State.debug
  split
  · exact reply_ok h
  · exact ite_ok (reply_ok h) (ite_ok (reply_ok h) (hk _))

theorem execDbgHalt_ok {ctx : Nat} {slot : Option Nat} {sealedOk : Bool} (h : s.ok = true) :
    NextOk (execDbgHalt ctx slot sealedOk s) := by
  unfold execDbgHalt
  refine nextOk_next (debug_ok h fun _ => ?_)
  dsimp only
  split <;> exact reply_ok h

theorem execDbgResume_ok {ctx ref : Nat} {pass stp sealedOk : Bool} (h : s.ok = true) :
    NextOk (execDbgResume ctx ref pass stp sealedOk s) := by
  unfold execDbgResume
  refine nextOk_next (debug_ok h fun _ => ?_)
  split
  · exact reply_ok h
  · exact ite_ok (reply_ok h) (ite_ok (reply_ok h) (reply_ok (modFrame_ok h)))

theorem execDbgRead_ok {ctx : Nat} {what : DbgWhat} {sealedOk : Bool} (h : s.ok = true) : NextOk (execDbgRead ctx what sealedOk s) := by
  unfold execDbgRead
  refine nextOk_next (debug_ok h fun _ => ?_)
  split
  · split <;> exact reply_ok h
  · dsimp only
    split
    · exact ite_ok (reply_ok h) (reply_ok h)
    · exact reply_ok h

theorem execDbgWrite_ok {ctx ref : Nat} {reg : BitVec 5} {val : W64} {sealedOk : Bool} (h : s.ok = true) :
    NextOk (execDbgWrite ctx ref reg val sealedOk s) := by
  unfold execDbgWrite
  refine nextOk_next (debug_ok h fun _ => ?_)
  split
  · exact reply_ok h
  · exact ite_ok (reply_ok h) (reply_ok (modFrame_ok h))

theorem ringDrain_ok {ctx n : Nat} (h : s.ok = true) : (s.ringDrain ctx n).ok = true := by
  induction n generalizing s with
  | zero => exact h
  | succ n ih =>
    unfold State.ringDrain
    split
    · exact h
    · split
      · exact h
      · exact ite_ok h (ih (modCtx_ok (ringPut_ok h)))

theorem execTraceRoomReturn_ok {ctx : Nat} (h : s.ok = true) : NextOk (execTraceRoomReturn ctx s) := by
  unfold execTraceRoomReturn
  refine nextOk_next ?_
  split
  · exact h
  · exact ringDrain_ok (ringLoss_ok h)

theorem walkRecord_ok {ctx st : Nat} {fn : W64} {bsq : W32} {blk cyc xw : Nat} {hnd det : Bool} (h : s.ok = true) :
    (s.walkRecord ctx st fn bsq blk cyc xw hnd det).ok = true := by
  unfold State.walkRecord
  split
  · exact h
  · exact ite_ok (ringOffer_ok h) h

theorem execCritPathWalkStep_ok {k : Nat} (h : s.ok = true) : NextOk (execCritPathWalkStep k s) := by
  unfold execCritPathWalkStep
  refine nextOk_next ?_
  split
  · exact h
  · split
    · refine ite_ok h ?_
      dsimp only
      split
      · exact walkRecord_ok (land_ok h)
      · exact ite_ok (walkRecord_ok (land_ok h)) (ship_ok (walkRecord_ok (land_ok h)))
    · exact h

theorem execCntRead_ok {ofStall : Bool} {which counter : Nat} {sealedOk : Bool} (h : s.ok = true) :
    NextOk (execCntRead ofStall which counter sealedOk s) := by
  unfold execCntRead
  refine nextOk_next ?_
  dsimp only
  split
  · exact reply_ok h
  · refine ite_ok (reply_ok h) (ite_ok (reply_ok h) ?_)
    split <;> exact reply_ok h

/-! Float -/

theorem deliverFp_ok {c : Cx} {hd : Hd} {v : Nat × FlagSet} (h : s.ok = true) : (s.deliverFp c hd v).ok = true :=
  raiseScalar_ok (deliver_ok h)

/-! Hall -/

theorem execPacerQuery_ok {hall : Nat} {cmd : W64} (h : s.ok = true) : NextOk (execPacerQuery hall cmd s) := by
  unfold execPacerQuery
  refine nextOk_next (ite_ok h ?_)
  split
  · exact ite_ok (reply_ok h) (reply_ok h)
  · exact reply_ok h

theorem stallsAfter_ok {hall : Nat} {f : FuseMap} (h : s.ok = true) : (s.stallsAfter hall f).ok = true :=
  foldl_ok h fun _ _ h1 => displace_ok h1

theorem loseDram_ok {hall : Nat} (h : s.ok = true) : (s.loseDram hall).ok = true := dropMem_ok h

theorem resetPairs_ok {hall : Nat} (h : s.ok = true) : (s.resetPairs hall).ok = true :=
  foldl_ok h fun _ _ h1 => ite_ok (takeBack_ok (modPair_ok (dropScratch_ok (rejectHeld_ok h1)))) (modPair_ok (dropScratch_ok
      (rejectHeld_ok h1)))

theorem execHallReset_ok {hall : Nat} {cold : Bool} (h : s.ok = true) : NextOk (execHallReset hall cold s) := by
  unfold execHallReset
  extract_lets x onIt paged told s1 s2 s3 s4 s5 s6
  have h1 : s1.ok = true := foldl_ok h fun _ _ h1 => foldl_ok h1 fun _ _ h2 => preemptStall_ok h2
  have h2 : s2.ok = true := foldl_ok h1 fun _ _ h2 => cancelInst_ok h2
  have h3 : s3.ok = true := foldl_ok h2 fun _ _ h3 => tellDriver_ok (modCtx_ok h3)
  have h4 : s4.ok = true := ite_ok (foldl_ok (loseDram_ok h3) fun _ _ h4 => modCtx_ok h4) h3
  have h6 : s6.ok = true := modHall_ok (resetPairs_ok h4) _ _
  exact nextOk_next (ite_ok (reply_ok h) (reply_ok (ok_of_same h6 rfl rfl rfl)))

theorem repaired_ok {link seq : Nat} (h : s.ok = true) : (s.repaired link seq).ok = true :=
  h

theorem landLost_ok {k : Nat} {w : Flight} (h : s.ok = true) : (s.landLost k w).ok = true := by
  dsimp only [State.landLost]
  split
  · exact modInst_ok (land_ok h)
  · exact levelSettle_ok (levelDown_ok (land_ok h))
  · exact levelSettle_ok (cancelDone_ok (land_ok h))
  · exact land_ok h

theorem execReplayEntryLost_ok {bridge seq : Nat} {retainedOk : Bool} (h : s.ok = true) :
    NextOk (execReplayEntryLost bridge seq retainedOk s) := by
  unfold execReplayEntryLost
  refine nextOk_next (ite_ok h (ite_ok (repaired_ok h) ?_))
  split
  · exact h
  · dsimp only
    refine report_ok ?_
    split
    · exact cancelInst_ok (landLost_ok h)
    · exact landLost_ok h

theorem lowerIsland_ok {e : Nat × Nat} (h : s.ok = true) : (s.lowerIsland e).ok = true :=
  ite_ok (modHall_ok h _ _) (modStall_ok h)

theorem lowerIslands_ok {p : Nat → Bool} {islands : List (Nat × Nat)} (h : s.ok = true) : (s.lowerIslands p islands).ok = true :=
  foldl_ok h fun _ _ h1 => lowerIsland_ok h1

/-! Run -/

theorem nextAct_ok (h : s.ok = true) : s.nextAct.1.ok = true := by
  unfold State.nextAct
  split <;> exact h

theorem fire_ok {bid slot : Nat} {run : Instr → State → Out} (h : s.ok = true)
    (hk : ∀ (a : Instr) (a_1 : State), a_1.ok = true → NextOk (run a a_1)) :
    NextOk (s.fire bid slot run) := by
  unfold State.fire
  split
  · exact nextOk_next h
  · exact hk _ _ h

theorem holdTrace_ok {o : Out} (h : s.ok = true) (ho : NextOk o) : NextOk (s.holdTrace o) := by
  cases o with
  | next t => exact nextOk_next (ite_ok h (ho t rfl))
  | fault r => exact nextOk_fault
  | refused r => exact nextOk_refused

theorem clock_ok {st n0 : Nat} (h : s.ok = true) : (s.clock st n0).ok = true :=
  ite_ok (count_ok (count_ok (modStall_ok h))) (modStall_ok h)

theorem hostWrite_ok {pa : Nat} {b : Byte} (h : s.ok = true) : (s.hostWrite pa b).ok = true := ite_ok (putMem_ok h _ _) h

theorem partFailed_ok {ctx image hall part : Nat} (h : s.ok = true) : (s.partFailed ctx image hall part).ok = true :=
  foldl_ok (modCtx_ok h) fun _ _ h1 => endInst_ok h1

theorem ueTake_ok {x : UeItem} (h : s.ok = true) : (s.ueTake x).ok = true := by
  unfold State.ueTake
  split
  · exact ship_ok (modInst_ok (credit_ok h))
  · exact ship_ok h
  · exact ship_ok h
  · exact ship_ok h
  · exact ship_ok h
  · exact credit_ok h
  · exact ship_ok h
  · exact endInst_ok h
  · exact partFailed_ok h
  · exact modInst_ok (breakParts_ok h)
  · exact partFreed_ok h

theorem ueArrive_ok {port : Nat} {x : UeItem} (h : s.ok = true) : (s.ueArrive port x).ok = true :=
  ite_ok (ueTake_ok h) h

theorem ueFlush_ok (h : s.ok = true) : s.ueFlush.ok = true :=
  ite_ok h h

theorem softError_ok {x : SoftError} (h : s.ok = true) : (s.softError x).ok = true := by
  unfold State.softError
  split
  · split
    · exact engReport_ok (paAbandon_ok h)
    · exact h
  · split
    · exact engReport_ok (vecAbandon_ok h)
    · exact h
  · split
    · exact engReport_ok (speAbandon_ok h)
    · exact h
  · split
    · exact engReport_ok (abandonJob_ok h)
    · exact h
  · split
    · exact requestReclaim_ok (report_ok h)
    · exact h
  · split
    · exact cancelInst_ok (report_ok h)
    · exact h
  · exact ite_ok h (modStall_ok h)
  · split
    · exact loseSector_ok h
    · exact loseSector_ok h
    · exact loseSector_ok h
    · exact h
  · split
    · exact dropLines_ok (ite_ok (loseSector_ok h) h)
    · exact h
  · exact putSet_ok (foldl_ok h fun _ _ h1 => loseSector_ok (loseSector_ok h1))
  · exact modHall_ok h _ _
  · exact modStall_ok h
  · exact modStall_ok h
  · exact modStall_ok h
  · split
    · exact loseSector_ok h
    · exact h
  · exact modStall_ok h
  · exact modHall_ok h _ _

theorem settleAll_ok (h : s.ok = true) : s.settleAll.ok = true :=
  foldl_ok h fun _ _ h1 => settleBlock_ok h1

theorem unpark_ok {f : Frame} (h : s.ok = true) : (s.unpark f).ok = true := by
  unfold State.unpark
  split
  · exact ite_ok (enterRoom_ok h) h
  · exact h

theorem unparkAll_ok (h : s.ok = true) : s.unparkAll.ok = true :=
  foldl_ok h fun _ _ h1 => unpark_ok h1

theorem haltAll_ok (h : s.ok = true) : s.haltAll.ok = true :=
  foldl_ok h fun _ _ h1 => ite_ok (stopFrame_ok h1) h1

theorem preemptAll_ok (h : s.ok = true) : s.preemptAll.ok = true := by
  unfold State.preemptAll
  refine foldl_ok h fun _ _ h1 => ?_
  split
  · exact ite_ok (preemptStall_ok h1) h1
  · exact h1

theorem freeLaunches_ok (h : s.ok = true) : s.freeLaunches.ok = true :=
  h

theorem cancelLate_ok (h : s.ok = true) : s.cancelLate.ok = true :=
  foldl_ok h fun _ _ h1 => ite_ok (requestReclaim_ok h1) h1

theorem reclaimLate_ok (h : s.ok = true) : s.reclaimLate.ok = true := by
  unfold State.reclaimLate
  refine foldl_ok h fun _ _ h1 => ?_
  split
  · exact reclaimFrame_ok h1
  · exact h1

theorem settleEarly_ok (h : s.ok = true) : s.settleEarly.ok = true :=
  h

theorem warmPort_ok (h : s.ok = true) : s.warmPort.ok = true := by
  unfold State.warmPort
  split
  · exact h
  · split
    · exact translated_ok (translated_ok h)
    · exact h

theorem sweep_ok (h : s.ok = true) : s.sweep.ok = true :=
  ueFlush_ok (settleEarly_ok (reclaimLate_ok (cancelLate_ok (freeLaunches_ok (replaceSuspects_ok (preemptAll_ok (haltAll_ok
      (unparkAll_ok (settleAll_ok (warmPort_ok h))))))))))

/-! Dispatch -/

/-- Every instruction, and every operation and event of the device, keeps the canonical form. -/
theorem exec_ok {i : Instr} (h : s.ok = true) : NextOk (exec i s) :=
  match i with
  | .bro .. | .call .. | .fend .. => runWord_ok h fun _ => fireExit_ok h
  | .bri _ e => execBri_ok (x := e) h
  | .ret _ e => execRet_ok (x := e) h
  | .iter .. | .movi .. | .movhi .. | .mov .. | .sel .. | .tst .. | .add .. | .sub .. | .mul .. | .mulh .. | .mulhu .. | .div ..
  | .divu .. | .rem .. | .remu .. | .and .. | .or .. | .xor .. | .andn .. | .shl .. | .shr .. | .sar .. | .rotl .. | .clz ..
  | .ctz .. | .popc .. | .min .. | .max .. | .minu .. | .maxu .. | .abs .. | .addsh .. | .addi .. | .andi .. | .ori .. | .xori ..
  | .shli .. | .shri .. | .sari .. | .sext .. | .zext .. | .bfx .. | .bfi .. | .fclass .. | .fsgn .. => runWord_ok h fun _ => deliver_ok h
  | .null .. | .gwr .. => runWord_ok h fun _ => satisfyReg_ok h
  | .mnull .. => runWord_ok h fun _ => satisfyLsid_ok h fun _ h1 => done_ok h1
  | .grd .. => execGrd_ok h
  | .nop .. | .bkpt .. => runWord_ok h fun _ => done_ok h
  | .yld .. | .ppset .. | .svc .. | .mark .. | .markV .. => runWord_ok h fun _ => effect_ok h
  | .fadd .. | .fsub .. | .fmul .. | .ffma .. | .fdiv .. | .fsqrt .. | .fmin .. | .fmax .. | .ftst .. | .frnd .. =>
    runWord_ok h fun _ => deliverFp_ok h
  | .fcvt .. => runWord_ok h fun _ => raiseScalar_ok (deliver_ok h)
  | .ld .. | .ldh .. => runWord_ok h fun _ => loadBy_ok h
  | .st .. => runWord_ok h fun _ => satisfyLsid_ok h fun _ h1 => checked_ok h1 fun _ => sees_ok (effect_ok (reserve_ok h1))
  | .lds .. => execLds_ok h
  | .pref .. => execPref_ok h
  | .amoAdd .. | .amoAnd .. | .amoOr .. | .amoXor .. | .amoSwap .. | .amoMin .. | .amoMax .. | .cas .. =>
    runWord_ok h fun _ => atomicBy_ok h
  | .fence .. => runWord_ok h fun _ => satisfyLsid_ok h fun _ h1 => modBlock_ok (done_ok h1)
  | .stmc .. => execStmc_ok h
  | .htNew .. => execHtNew_ok h
  | .htEnd .. => execHtEnd_ok h
  | .htCancel .. => runWord_ok h fun _ => ite_ok (faultAt_ok h) (effect_ok h)
  | .hdInit .. | .hdArr .. | .hdXpct .. => runWord_ok h fun _ => hurdleBy_ok h
  | .hdWait .. => execHdWait_ok h
  | .hdTest .. => execHdTest_ok h
  | .spawn .. => execSpawn_ok h
  | .fref .. => execFref_ok h
  | .fdrop .. => execFdrop_ok h
  | .fget .. => execFget_ok h
  | .fset .. => runWord_ok h fun _ => satisfyLsid_ok h fun _ h1 => syncChecked_keepsOk h1 fun _ => sees_ok (effect_ok h1)
  | .ftest .. => execFtest_ok h
  | .peek .. => execPeek_ok h
  | .launch .. => execLaunch_ok h
  | .lwait .. => execLwait_ok h
  | .cancel .. => execCancel_ok h
  | .send .. => execSend_ok h
  | .tdef .. | .tfree .. | .tzero .. | .tsetE .. | .tsetLnk .. | .tsetExp .. | .tring .. | .tcopy .. | .pbar .. | .spld ..
  | .spst .. | .spz .. | .xsend .. | .xrecv .. => runWord_ok h fun _ => sendAt_ok h
  | .tstate .. | .spfence .. => runWord_ok h fun _ => ite_ok (waitOn_ok h) (deliver_ok h)
  | .ttest .. => runWord_ok h fun _ => ite_ok (waitOn_ok h) (ite_ok (deliverFrom_ok h) (ite_ok (waitOn_ok h) (deliver_ok h)))
  | .tget .. => execTget_ok h
  | .pld .. | .pst .. | .pcpy .. | .pgat .. | .psct .. | .prdc .. | .pxpd .. | .pcmp .. | .pstrmIn .. | .pstrmOut .. =>
    runWord_ok h fun _ => cardAt_ok h
  | .pmmaI .. | .pmmaS .. | .pmmaX .. | .pmvI .. | .pmvS .. | .pmvX .. | .pzacc .. | .pwmap .. => runWord_ok h fun _ => planeExec_ok h
  | .spt .. | .spd .. => runBare_ok fun _ => sendAt_ok h
  | .vadd .. | .vsub .. | .vmul .. | .vfma .. | .vfms .. | .vmin .. | .vmax .. | .vabs .. | .vneg .. | .vrcp .. | .vrsq ..
  | .vdiv .. | .vsqrt .. | .vexp2 .. | .vlog2 .. | .vcvt .. | .vqnt .. | .vdqnt .. | .vscl .. | .vred .. | .vscan .. | .vbcast ..
  | .vperm .. | .vsel .. | .vcmp .. | .vand .. | .vor .. | .vxor .. | .vshl .. | .vshr .. | .vpopc .. | .viota .. | .visect ..
  | .vpfx .. | .vgat .. | .vsct .. | .vdot8 .. => runWord_ok h fun _ => vecExec_ok h
  | .red .. => execRed_ok h
  | .rdinit .. => runWord_ok h fun _ => redInit_ok h
  | .rdinitFree .. => execRdinitFree_ok h
  | .rdwait .. | .rdwaitF .. => runWord_ok h fun _ => redWait_ok h
  | .trap .. => runWord_ok h fun _ => faultAt_ok h
  | .eret .. | .eretEnd .. => runWord_ok h fun _ => eretBy_ok h
  | .eretRedir .. => execEretRedir_ok h
  | .csrr .. => execCsrr_ok h
  | .csrw .. => runWord_ok h fun _ => ite_ok (faultAt_ok h) (ite_ok (waitOn_ok h) (ite_ok (waitOn_ok h) (effect_ok h)))
  | .fltrd .. => execFltrd_ok h
  | .hint .. => runBare_ok fun _ => done_ok h
  | .frameServe .. => execFrameServe_ok h
  | .blockFetch .. => execBlockFetch_ok h
  | .blockMap .. => execBlockMap_ok h
  | .speculativeMap .. => execSpeculativeMap_ok h
  | .operandTokenArrival .. => execOperandTokenArrival_ok h
  | .blockCommit .. => execBlockCommit_ok h
  | .handlerFrameCreate .. => execHandlerFrameCreate_ok h
  | .atomicAdmit .. => execAtomicAdmit_ok h
  | .memReadResponse .. => execMemReadResponse_ok h
  | .pageWalkDone .. => execPageWalkDone_ok h
  | .storePerform .. => execStorePerform_ok h
  | .hurdleUpdatePerform .. => execHurdleUpdatePerform_ok h
  | .mcastDelivery .. => execMcastDelivery_ok h
  | .futureCellFset .. => execFutureCellFset_ok h
  | .futureReachChange .. => execFutureReachChange_ok h
  | .producerEnd .. => execProducerEnd_ok h
  | .continuationUnlink .. => execContinuationUnlink_ok h
  | .tokenArrival .. => execTokenArrival_ok h
  | .levelCounterUpdate .. => execLevelCounterUpdate_ok h
  | .reclaimRequest .. => execReclaimRequest_ok h
  | .heatCellsFree .. => execHeatCellsFree_ok h
  | .callroomOverflowEntry .. => execCallroomOverflowEntry_ok h
  | .paMessageStart .. => execPaMessageStart_ok h
  | .paChunkEnd .. => execPaChunkEnd_ok h
  | .paMessageComplete .. => execPaMessageComplete_ok h
  | .vecMessageStart .. => execVecMessageStart_ok h
  | .vecRowEnd .. => execVecRowEnd_ok h
  | .vecMessageComplete .. => execVecMessageComplete_ok h
  | .speMessageIssue .. => execSpeMessageIssue_ok h
  | .speMessageComplete .. => execSpeMessageComplete_ok h
  | .tileTableOpApply .. => execTileTableOpApply_ok h
  | .porterJobAccept .. => execPorterJobAccept_ok h
  | .porterJobStart .. => execPorterJobStart_ok h
  | .porterRoundStart .. => execPorterRoundStart_ok h
  | .porterRoundComplete .. => execPorterRoundComplete_ok h
  | .porterJobComplete .. => execPorterJobComplete_ok h
  | .tilePageRefill .. => execTilePageRefill_ok h
  | .xmsgArrive .. => execXmsgArrive_ok h
  | .redContributionArrive .. => execRedContributionArrive_ok h
  | .redPartForwardArrive .. => execRedPartForwardArrive_ok h
  | .redResultArrive .. => execRedResultArrive_ok h
  | .stuckDetection .. => execStuckDetection_ok h
  | .ingressSlotWrite .. => execIngressSlotWrite_ok h
  | .launchPacket .. => execLaunchPacket_ok h
  | .tokenPacket .. => execTokenPacket_ok h
  | .cancelPacket .. => execCancelPacket_ok h
  | .startPacket .. => execStartPacket_ok h
  | .stopPacket .. => execStopPacket_ok h
  | .imageLoad .. => execImageLoad_ok h
  | .instanceSourceRelease .. => execInstanceSourceRelease_ok h
  | .completionEntryPost .. => execCompletionEntryPost_ok h
  | .cqHeadWrite .. => execCqHeadWrite_ok h
  | .ctxCreate .. => nextOk_next (ite_ok h (ite_ok (reply_ok h) (reply_ok (zeroRun_ok (foldl_ok h fun _ _ h1 => displace_ok h1)))))
  | .ctxRun .. => execCtxRun_ok h
  | .ctxDestroy .. => execCtxDestroy_ok h
  | .ctxChange .. => execCtxChange_ok h
  | .repitch .. => execRepitch_ok h
  | .classSet .. => nextOk_next (ite_ok (reply_ok h) (reply_ok (foldl_ok h fun _ _ h1 => putClass_ok h1)))
  | .classGet .. | .migrThreshSet .. => nextOk_next (ite_ok (reply_ok h) (reply_ok h))
  | .admissionWindow .. | .slotTableUpdate .. => nextOk_next h
  | .tlbInval .. => nextOk_next (invalidate_ok h)
  | .drainTokenArrive .. => execDrainTokenArrive_ok h
  | .blockInval .. | .migrClear .. | .hallStatus | .fuseRead | .transportParameterSet .. => nextOk_next (reply_ok h)
  | .pairDelegate .. => execPairDelegate_ok h
  | .pairRelease .. => execPairRelease_ok h
  | .wprWrite .. => nextOk_next (controlStore_ok h fun _ _ _ _ _ h1 => storeWpr_ok h1)
  | .wprPhase1End .. => execWprPhase1End_ok h
  | .wprChangeEnd .. => execWprChangeEnd_ok h
  | .registerWrite .. => nextOk_next (controlStore_ok h fun _ _ _ _ _ h1 => ite_ok (modPair_ok h1) h1)
  | .attest .. => execAttest_ok h
  | .dbgBp .. | .dbgWp .. => nextOk_next (debug_ok h fun _ => ite_ok (reply_ok h) (reply_ok (modCtx_ok h)))
  | .dbgHalt .. => execDbgHalt_ok h
  | .dbgResume .. => execDbgResume_ok h
  | .dbgRead .. => execDbgRead_ok h
  | .dbgWrite .. => execDbgWrite_ok h
  | .traceSet .. => nextOk_next (debug_ok h fun _ => ite_ok (reply_ok h) (reply_ok (vaWrite_ok _ _ _ _ (modCtx_ok h))))
  | .traceRoomReturn .. => execTraceRoomReturn_ok h
  | .critPathWalkStep .. => execCritPathWalkStep_ok h
  | .cntRead .. => execCntRead_ok h
  | .pacerOpen .. | .pacerClose .. => nextOk_next (ite_ok h (ite_ok (reply_ok h) (reply_ok h)))
  | .pacerQuery .. => execPacerQuery_ok h
  | .preempt .. => execPreempt_ok h
  | .stallResume .. => nextOk_next (ite_ok (reply_ok (resumeStall_ok h)) (reply_ok h))
  | .hallReset .. => execHallReset_ok h
  | .lostClear .. => nextOk_next (ite_ok (reply_ok (modHall_ok h _ _)) (reply_ok h))
  | .bridgeFlitBadCheck .. => nextOk_next (ite_ok (repaired_ok h) h)
  | .replayEntryLost .. => execReplayEntryLost_ok h
  | .uePacketTrimmed .. => nextOk_next (repaired_ok h)
  | .tdispRequest .. => execTdispRequest_ok h
  | .powerGood => nextOk_next (ite_ok h h)
  | .stageB .. => nextOk_next (ite_ok h (ite_ok (reply_ok h) (sameHalls_ok h rfl rfl rfl)))
  | .stageC .. => nextOk_next (ite_ok h (ite_ok (modHall_ok h _ _) (modHall_ok (foldl_ok h fun _ _ h1 => displace_ok h1) _ _)))
  | .powerEnvelopeExceeded .. => nextOk_next (ite_ok h (lowerIslands_ok h))
  | .junctionLimit .. => nextOk_next (ite_ok h (ite_ok (modHall_ok h _ _) (lowerIslands_ok (modHall_ok h _ _))))
  | .reservedTypePacket .. => execReservedTypePacket_ok h
  | .linkLevelRetry .. => nextOk_next (ite_ok h (ite_ok (repaired_ok h) (repaired_ok h)))
  | .mailboxMemoryAccess .. => execMailboxMemoryAccess_ok h
  | .pageMap .. => execPageMap_ok h
  | .ingressGrantSet .. => nextOk_next (ite_ok (reply_ok h) (reply_ok (modCtx_ok h)))

/-! Mailbox -/

theorem readOf_ok {ctx : Nat} {k : Ctx → List Nat} (h : s.ok = true) : (s.readOf ctx k).ok = true := by
  unfold State.readOf
  split
  · exact reply_ok h
  · exact ite_ok (reply_ok h) (reply_ok h)

theorem mailRead_ok {x : MailRead} (h : s.ok = true) : (s.mailRead x).ok = true := by
  unfold State.mailRead
  split
  · exact readOf_ok h
  · exact readOf_ok h
  · exact readOf_ok h
  · exact reply_ok h
  · exact reply_ok h
  · exact reply_ok h
  · exact reply_ok h
  · exact reply_ok h
  · split <;> exact reply_ok h
  · exact reply_ok h

theorem portRead_ok {ctx ofs : Nat} (h : s.ok = true) : (s.portRead ctx ofs).ok = true := by
  unfold State.portRead
  split
  · exact h
  · exact reply_ok h

/-! Step -/

theorem act_ok {x : Act} (h : s.ok = true) : NextOk (s.act x) := by
  unfold State.act
  split
  · exact holdTrace_ok h (fire_ok h fun _ _ h1 => exec_ok h1)
  · exact nextOk_ite (nextOk_next h) (nextOk_ite (exec_ok h) (holdTrace_ok h (exec_ok h)))
  · exact nextOk_next (clock_ok h)
  · exact nextOk_next (hostWrite_ok h)
  · exact nextOk_next (takeNotices_ok h)
  · exact nextOk_next (mailRead_ok h)
  · exact nextOk_next (portRead_ok h)
  · exact nextOk_next (ueArrive_ok h)
  · exact nextOk_next (softError_ok h)

/-- One step keeps the canonical form: the action does, and so does the sweep after it. -/
theorem step_ok (h : s.ok = true) : NextOk (step s) := by
  unfold step
  split
  · next t e => exact nextOk_next (sweep_ok (act_ok (nextAct_ok h) t e))
  · exact nextOk_fault
  · exact nextOk_refused

end

/-- Settles O59: by `step_ok`. -/
theorem stepKeepsForm : Obligations.StepKeepsForm := fun _ t h e => step_ok h t e

/-! A hall beyond the four -/

/-- A package of nine halls: the last of them starts, and one stall carries the number 4096, which counts as of hall 0 (log 133) and stands
at 512 times the last hall's number. -/
def nineHalls : State :=
  { State.reset with
    pkg := { Package.reset with stage := 2 }, halls := List.replicate 8 .reset ++ [{ Hall.reset with st := .starting }],
    stalls := [(4096, Stall.zeroed 0 16)] }

/-- A fuse map above the minimums of R3 without stall 0. -/
def fuseWithoutFirst : FuseMap := ⟨List.range' 1 304, List.range 76, List.range 60, [0, 1]⟩

/-- The start of a hall keeps a stall that belongs to another one. -/
theorem stallsAfter_keeps_other {s : State} {hall st : Nat} {f : FuseMap} {x : Stall} (hs : s.stalls = [(st, x)])
    (ho : hallOfStall st ≠ hall) : (s.stallsAfter hall f).stall? st = some x := by
  simp [State.stallsAfter, State.stall?, hs, ho]

theorem stageC_keeps_other {s t : State} {hall st : Nat} {fuse : FuseMap} {x : Stall} (hs : s.stalls = [(st, x)])
    (ho : hallOfStall st ≠ hall) (e : exec (.stageC hall fuse) s = .next t) : t.stall? st = some x := by
  have hx : s.stall? st = some x := by simp [State.stall?, hs]
  cases e
  dsimp only
  split
  · exact hx
  · split
    · exact hx
    · exact stallsAfter_keeps_other hs ho

theorem fuseWithoutFirst_ascending : fuseWithoutFirst.stalls.Pairwise (· < ·) ∧ fuseWithoutFirst.slices.Pairwise (· < ·) ∧
    fuseWithoutFirst.channels.Pairwise (· < ·) ∧ fuseWithoutFirst.ports.Pairwise (· < ·) :=
  ⟨List.pairwise_lt_range', List.pairwise_lt_range, List.pairwise_lt_range, by decide⟩

theorem fuseWithoutFirst_exists : (∀ n ∈ fuseWithoutFirst.stalls, n < 320) ∧ (∀ n ∈ fuseWithoutFirst.slices, n < 80) ∧
    (∀ n ∈ fuseWithoutFirst.channels, n < 64) ∧ ∀ n ∈ fuseWithoutFirst.ports, n < 2 := by
  refine ⟨fun n hn => ?_, fun n hn => ?_, fun n hn => ?_, by decide⟩ <;> simp [fuseWithoutFirst] at hn <;> omega

theorem first_not_mem_fuse : 4096 % 512 ∉ fuseWithoutFirst.stalls := by simp [fuseWithoutFirst]

theorem nineHalls_enough :
    let absent := fun (k : Nat) => if k = 8 then 2 - fuseWithoutFirst.ports.length
      else if (nineHalls.hallD k).st = .available then 2 - (nineHalls.hallD k).fuse.ports.length else 0
    304 ≤ fuseWithoutFirst.stalls.length ∧ 76 ≤ fuseWithoutFirst.slices.length ∧ 60 ≤ fuseWithoutFirst.channels.length ∧
      absent 0 + absent 1 + absent 2 + absent 3 ≤ 1 := by
  refine ⟨?_, ?_, ?_, by decide⟩ <;> simp [fuseWithoutFirst]

/-- Refutes O51: the start of hall 8 of a package of nine halls leaves stall 4096, which `st / 512` places in that hall, where it stood. -/
theorem not_hallLifetime : ¬ Obligations.HallLifetime := by
  unfold Obligations.HallLifetime
  rintro ⟨hstart, -, -⟩
  obtain ⟨-, -, hC⟩ := hstart nineHalls
  obtain ⟨h1, h2, h3, h4⟩ := fuseWithoutFirst_ascending
  obtain ⟨k1, k2, k3, k4⟩ := fuseWithoutFirst_exists
  obtain ⟨t, e, hrest⟩ := hC 8 fuseWithoutFirst rfl (by decide) (.inl rfl) h1 h2 h3 h4 k1 k2 k3 k4
  rw [if_pos nineHalls_enough] at hrest
  obtain ⟨-, -, -, -, habsent, -⟩ := hrest
  have hnone := (habsent 4096 (Stall.zeroed 0 16) rfl rfl first_not_mem_fuse).1
  rw [stageC_keeps_other rfl (by decide) e] at hnone
  cases hnone

/-! Words that record a write, fetch ahead or fence -/

/-- An access that passes its checks goes on (R234). -/
theorem checked_passes {s : State} {c : Cx} {n : Need} {store : Bool} {ea : W64} {size heat : Nat} {a : Acc}
    (h : s.checkAccess c.f.stall c.f.ctx c.b.bid n store ea size heat = .ok a) (k : Acc → State) :
    s.checked c n store ea size heat k = k a := by
  simp only [State.checked, h]

/-- A memory word that is the first of its LSID goes on with the LSID noted (R46). -/
theorem exec_satisfyLsid {s : State} {h : Hd} {c : Cx} {n : BitVec 5} (r : Runs s h c) (hf : FirstOf c n) (k : Cx → State → State) :
    (s.runWord h fun c => s.satisfyLsid c n (k c)) = .next (k c (noted s c n)) := by
  rw [runWord_on r, satisfyLsid_first hf]

theorem passes_noted {s : State} {c : Cx} {m : MF} {n : Need} {store : Bool} {a : Acc} {l : BitVec 5} (h : Passes s c m n store a) :
    (noted s c l).checkAccess c.f.stall c.f.ctx c.b.bid n store (m.ea (m.base c)) m.wid.bytes (m.heat c) = .ok a :=
  (checkAccess_noted ..).trans h

theorem isRel_eq (o : Ord) : o.isRel = (o == .rel || o == .acqRel) := by cases o <;> rfl

/-- ST records its write (R239, R248). -/
theorem st_records {s : State} {h : Hd} {m : MF} {c : Cx} {a : Acc} (r : Runs s h c) (hf : FirstOf c m.lsid)
    (hp : Passes s c m ⟨false, true, false, m.wid == .d && m.ord == .plain, c.f.handler⟩ true a) :
    ∃ t, exec (.st h m) s = .next t ∧ Ran ((noted s c m.lsid).reserve c.b.bid a) t c
      { accessed c m.lsid ⟨a, false, true, true⟩ with
        effs := c.b.effs ++ [(c.slot, .store m.lsid.toNat a (m.data c) (m.ord == .rel || m.ord == .acqRel))] } := by
  refine ⟨_, (exec_satisfyLsid r hf _).trans (congrArg _ (checked_passes (passes_noted hp) _)), ?_⟩
  rw [← isRel_eq]
  have hb : ((noted s c m.lsid).reserve c.b.bid a).block? c.b.bid = some { c.b with lsids := c.b.lsids ++ [(m.lsid.toNat, c.slot)] } :=
    (onlyBlock_noted r.1 m.lsid).block
  exact ran_effect_sees (onlyBlock_refl (b := { c.b with lsids := c.b.lsids ++ [(m.lsid.toNat, c.slot)] }) hb) rfl _ a false true true

/-! The entries of a multicast list (R248) -/

theorem readLE_eq_ofBytes (g : Nat → Byte) (a n : Nat) : readLE g a n = ofBytes ((List.range' a n).map g) := by
  induction n generalizing a with
  | zero => rfl
  | succ n ih => simp only [readLE, List.range'_succ, List.map_cons, ofBytes, ih]

theorem pieces_length (k n : Nat) (l : List Byte) : (pieces k n l).length = n := by
  induction n generalizing l with
  | zero => rfl
  | succ n ih => simp [pieces, ih]

theorem pieces_range' (g : Nat → Byte) (k n a : Nat) :
    pieces k n ((List.range' a (k * n)).map g) = (List.range n).map fun i => (List.range' (a + k * i) k).map g := by
  induction n generalizing a with
  | zero => rfl
  | succ n ih =>
    have hsplit : List.range' a (k * (n + 1)) = List.range' a k ++ List.range' (a + k) (k * n) := by
      rw [List.range'_append_1, Nat.mul_succ, Nat.add_comm]
    have hlen : ((List.range' a k).map g).length = k := by simp
    rw [hsplit, List.map_append, pieces, List.take_left' hlen, List.drop_left' hlen, ih, List.range_succ_eq_map, List.map_cons, List.map_map]
    simp only [Nat.mul_zero, Nat.add_zero, List.cons.injEq, true_and]
    refine List.map_congr_left fun i _ => ?_
    rw [Function.comp_apply, Nat.mul_succ, Nat.add_assoc, Nat.add_comm k]

/-- Where no earlier write of the frame stands, a read of ordinary bytes finds memory (R213). -/
theorem readOver_memory (s : State) (ctx heat va size a n : Nat) :
    s.readOver ⟨ctx, heat, va, size, locsFrom va a n false⟩ [] = (List.range' a n).map s.rd8 := by
  rw [List.range'_eq_map_range]
  simp [State.readOver, locsFrom, State.rdLoc]

theorem multicast_entries (s : State) (ctx heat va size a : Nat) :
    (pieces 8 15 (s.readOver ⟨ctx, heat, va, size, locsFrom va a 120 false⟩ [])).map (fun e => BitVec.ofNat 64 (ofBytes e)) =
      (List.range 15).map fun i => BitVec.ofNat 64 (s.rdLE (a + 8 * i) 8) := by
  rw [readOver_memory, show 120 = 8 * 15 from rfl, pieces_range', List.map_map]
  refine List.map_congr_left fun i _ => ?_
  rw [Function.comp_apply, State.rdLE, readLE_eq_ofBytes]

/-- STMC records its write and the entries of its list (R239, R248). -/
theorem stmc_records {s : State} {h : Hd} {m : MF} {c : Cx} {a : Acc} (r : Runs s h c) (hf : FirstOf c m.lsid)
    (hp : Passes s c m ⟨false, true, false, false, false⟩ true a) (hline : (m.ea (m.base c)).toNat % 128 < 8)
    (halign : (m.ea (m.base c)).toNat % m.wid.bytes = 0) (hhp : ∀ l ∈ a.locs, l.hp = false) :
    let line := (m.ea (m.base c)).toNat / 128 * 128
    let entries : Acc := { a with va := line + 8, size := 120, locs := locsFrom (line + 8) (a.pa / 128 * 128 + 8) 120 false }
    let u := noted s c m.lsid
    u.readReady c.b c.f ⟨0, c.b.bid, c.slot, m.lsid.toNat, .load false false false, entries, none, c.org, []⟩ = true →
    s.accLost entries true = false →
    ∃ t es, exec (.stmc h m) s = .next t ∧ Ran s t c
      { accessed c m.lsid ⟨a, false, true, true⟩ with
        effs := c.b.effs ++ [(c.slot, .mcast m.lsid.toNat a (m.data c) (m.ord == .rel || m.ord == .acqRel) es)] } ∧
      es.length ≤ 15 ∧ (∀ e ∈ es, e.getLsbD 63 = true) ∧
      (u.ownWrites c.b c.f m.lsid.toNat = [] →
        es = ((List.range 15).map fun i => BitVec.ofNat 64 (s.rdLE (a.pa / 128 * 128 + 8 + 8 * i) 8)).filter (·.getLsbD 63)) := by
  intro line entries u hready hlost
  let es := ((pieces 8 15 (u.readOver entries (u.ownWrites c.b c.f m.lsid.toNat))).map fun e => BitVec.ofNat 64 (ofBytes e)).filter
    (·.getLsbD 63)
  have hany : a.locs.any (·.hp) = false := by simpa using hhp
  have hlost' : u.accLost entries true = false := hlost
  refine ⟨((u.effect c (.mcast m.lsid.toNat a (m.data c) (m.ord == .rel || m.ord == .acqRel) es)).sees c a false true true), es, ?_, ?_,
    ?_, ?_, ?_⟩
  · refine (exec_satisfyLsid r hf _).trans (congrArg _ ?_)
    refine (if_neg (by simp [halign]; omega)).trans ((checked_passes (passes_noted hp) _).trans ?_)
    simp only [hany, isRel_eq]
    refine (if_neg (by decide)).trans ((if_neg ?_).trans ((if_neg ?_).trans rfl))
    · simpa using hready
    · simpa using hlost'
  · exact ran_effect_sees (onlyBlock_noted r.1 m.lsid) rfl _ a false true true
  · exact Nat.le_trans (List.length_filter_le _ _) (Nat.le_of_eq (by rw [List.length_map, pieces_length]))
  · intro e he
    exact (List.mem_filter.1 he).2
  · intro hown
    show List.filter _ _ = _
    rw [hown, multicast_entries]
    rfl

/-- A walk begins, and the word, its LSID noted, waits for it (R390). -/
theorem startWalk_noted {s : State} {c : Cx} (h : s.cx? = some c) (n : BitVec 5) (va first heat : Nat) (quiet wr : Bool) :
    OnlyBlock { s with walks := s.walks ++ [⟨s.nextId, c.f.ctx, va, c.f.stall, .slot c.b.bid c.slot quiet, wr, heat, first⟩],
                       nextId := s.nextId + 1 }
      ((noted s c n).startWalk c va first heat quiet wr)
      { c.b with lsids := c.b.lsids ++ [(n.toNat, c.slot)], waits := (c.slot, .walk) :: c.b.waits.filter fun x => x.1 != c.slot } := by
  let t : State := { s with walks := s.walks ++ [⟨s.nextId, c.f.ctx, va, c.f.stall, .slot c.b.bid c.slot quiet, wr, heat, first⟩],
                            nextId := s.nextId + 1 }
  have hb : t.block? c.b.bid = some c.b := (cx?_eq h).2.1
  show OnlyBlock t ((t.modBlock c.b.bid _).modBlock c.b.bid _) _
  rw [modBlock_modBlock t c.b.bid (fun b => { b with lsids := b.lsids ++ [(n.toNat, c.slot)] }) _ (fun _ => rfl)]
  exact onlyBlock_modBlock hb
    ((fun b => { b with waits := (c.slot, .walk) :: b.waits.filter fun x => x.1 != c.slot }) ∘
      fun b => { b with lsids := b.lsids ++ [(n.toNat, c.slot)] }) fun _ => rfl

/-- PREF changes no value (R241, R390). -/
theorem pref_quiet {s : State} {h : Hd} {m : MF} {c : Cx} (r : Runs s h c) (hf : FirstOf c m.lsid) :
    let quiet := { fired c true with lsids := c.b.lsids ++ [(m.lsid.toNat, c.slot)] }
    let check := s.checkAccess c.f.stall c.f.ctx c.b.bid ⟨true, false, false, false, false⟩ false (m.ea (m.base c)) 1 (m.heat c)
    ∃ t, exec (.pref h m) s = .next t ∧
      (c.b.zeroed.contains c.slot = true → Ran s t c quiet) ∧
      (c.b.zeroed.contains c.slot = false →
        (∀ b, check = .ok b → ∃ v, Ran s v c quiet ∧ OnlyCounts v t) ∧
        (∀ cls va heat, check = .fault cls va heat → Ran s t c quiet) ∧
        (∀ va, check = .walk va → c.b.spec = false →
          let w : Walk := ⟨s.nextId, c.f.ctx, va, c.f.stall, .slot c.b.bid c.slot true, false, m.heat c, (m.ea (m.base c)).toNat⟩
          OnlyBlock { s with walks := s.walks ++ [w], nextId := s.nextId + 1 } t
            { c.b with lsids := c.b.lsids ++ [(m.lsid.toNat, c.slot)],
                       waits := (c.slot, .walk) :: c.b.waits.filter fun x => x.1 != c.slot })) := by
  intro quiet check
  have hn := onlyBlock_noted r.1 m.lsid
  have hdone : Ran s ((noted s c m.lsid).done c) c quiet := by
    obtain ⟨hblock, hothers, hrest⟩ := onlyBlock_modBlock hn.block (fun b => b.markFired c.slot true) fun _ => rfl
    exact ⟨_, ⟨hblock, fun i hi => (hothers i hi).trans (hn.others i hi), rfl⟩, onlyCounter_count ..⟩
  have hcheck : (noted s c m.lsid).checkAccess c.f.stall c.f.ctx c.b.bid needR false (m.ea (m.base c)) 1 (m.heat c) = check :=
    checkAccess_noted ..
  refine ⟨_, exec_satisfyLsid r hf _, ?_, ?_⟩
  · intro hz
    rwa [if_pos hz]
  · intro hz
    rw [if_neg (ne_true_of_eq_false hz), hcheck]
    refine ⟨?_, ?_, ?_⟩
    · intro b e
      rw [e]
      exact ⟨_, hdone, onlyCounts_served ..⟩
    · intro cls va heat e
      rwa [e]
    · intro va e hspec
      rw [e]
      show OnlyBlock _ (if c.b.spec = true then _ else _) _
      rw [if_neg (ne_true_of_eq_false hspec)]
      exact startWalk_noted r.1 m.lsid va _ _ true false

theorem fence_marks {s : State} {h : Hd} {m : MF} {c : Cx} (r : Runs s h c) (hf : FirstOf c m.lsid) :
    ∃ t, exec (.fence h m) s = .next t ∧ Ran s t c
      { fired c true with lsids := c.b.lsids ++ [(m.lsid.toNat, c.slot)], fences := c.b.fences ++ [(m.lsid.toNat, m.ord, m.scp)] } :=
  ⟨_, exec_satisfyLsid r hf _,
    ran_from (onlyBlock_noted r.1 m.lsid) rfl (fun b => { b with fences := b.fences ++ [(m.lsid.toNat, m.ord, m.scp)] }) fun _ => rfl⟩

theorem mem_wf {s : State} (h : s.ok = true) : Memory.wf s.mem = true := ((ok_iff s).1 h).1

theorem cells_wf {s : State} (h : s.ok = true) : Memory.wf s.cells = true := ((ok_iff s).1 h).2.1

/-! A store that performs -/

/-- The stores of bytes hold the same: memory, the heats' cells and the sectors with a cell. -/
structure SameBytes (s t : State) : Prop where
  mem   : t.mem = s.mem
  cells : t.cells = s.cells
  made  : t.made = s.made

/-- The writes on their way, the frames and the mapped blocks stand as before. -/
structure SameWork (s t : State) : Prop where
  flight : t.flight = s.flight
  frames : t.frames = s.frames
  blocks : t.blocks = s.blocks

theorem SameBytes.trans {s t u : State} (h : SameBytes s t) (g : SameBytes t u) : SameBytes s u :=
  ⟨g.mem.trans h.mem, g.cells.trans h.cells, g.made.trans h.made⟩

theorem SameWork.trans {s t u : State} (h : SameWork s t) (g : SameWork t u) : SameWork s u :=
  ⟨g.flight.trans h.flight, g.frames.trans h.frames, g.blocks.trans h.blocks⟩

theorem SameBytes.rd8 {s t : State} (h : SameBytes s t) (pa : Nat) : t.rd8 pa = s.rd8 pa := by
  simp [State.rd8, h.mem]

theorem SameBytes.rdLoc {s t : State} (h : SameBytes s t) (ctx heat : Nat) (l : BLoc) : t.rdLoc ctx heat l = s.rdLoc ctx heat l := by
  simp [State.rdLoc, State.hasCell, State.rd8, h.mem, h.cells, h.made]

theorem healScratch_same (s : State) (pa : Nat) : SameBytes s (s.healScratch pa) ∧ SameWork s (s.healScratch pa) := by
  unfold State.healScratch
  split <;> exact ⟨⟨rfl, rfl, rfl⟩, rfl, rfl, rfl⟩

theorem healed_same (es : List (BLoc × Byte)) (s : State) :
    SameBytes s (es.foldl (fun s e => s.healScratch e.1.pa) s) ∧ SameWork s (es.foldl (fun s e => s.healScratch e.1.pa) s) := by
  induction es generalizing s with
  | nil => exact ⟨⟨rfl, rfl, rfl⟩, rfl, rfl, rfl⟩
  | cons e es ih =>
    have h1 := healScratch_same s e.1.pa
    have h2 := ih (s.healScratch e.1.pa)
    exact ⟨h1.1.trans h2.1, h1.2.trans h2.2⟩

theorem onlyCounts_same {s t : State} (h : OnlyCounts s t) : SameBytes s t ∧ SameWork s t := by
  rw [h.rest]
  exact ⟨⟨rfl, rfl, rfl⟩, rfl, rfl, rfl⟩

theorem materialise_work (s : State) (ctx heat va pa : Nat) : SameWork s (s.materialise ctx heat va pa) := by
  unfold State.materialise
  split <;> exact ⟨rfl, rfl, rfl⟩

theorem wrLoc_work (s : State) (ctx heat : Nat) (b : BLoc) (v : Byte) : SameWork s (s.wrLoc ctx heat b v) := by
  unfold State.wrLoc
  split
  · obtain ⟨hflight, hframes, hblocks⟩ := materialise_work s ctx heat b.va b.pa
    exact ⟨hflight, hframes, hblocks⟩
  · exact ⟨rfl, rfl, rfl⟩

theorem wrLocs_work (ctx heat : Nat) : ∀ (bs : List BLoc) (vs : List Byte) (s : State), SameWork s (s.wrLocs ctx heat bs vs)
  | [], _, _ => ⟨rfl, rfl, rfl⟩
  | _ :: _, [], _ => ⟨rfl, rfl, rfl⟩
  | b :: bs, v :: vs, s => (wrLoc_work s ctx heat b v).trans (wrLocs_work ctx heat bs vs _)

/-- A write that no cell's heat is too late for puts all its bytes at their locations. -/
theorem performWrite_wrLocs (s : State) (bid : Nat) (a : Acc) (bs : List Byte) (hlen : bs.length = a.locs.length)
    (hgo : ∀ l ∈ a.locs, l.hp = false ∨ a.heat = 0 ∨ s.heatLive a.ctx a.heat = true) :
    SameBytes (s.wrLocs a.ctx a.heat a.locs bs) (s.performWrite bid a bs) ∧
      SameWork (s.wrLocs a.ctx a.heat a.locs bs) (s.performWrite bid a bs) := by
  have hall : (a.locs.zip bs).filter (fun e => !e.1.hp || a.heat == 0 || s.heatLive a.ctx a.heat) = a.locs.zip bs := by
    refine List.filter_eq_self.2 fun e he => ?_
    simpa [or_assoc] using hgo e.1 (List.of_mem_zip he).1
  unfold State.performWrite
  simp only [hall, List.map_fst_zip (Nat.le_of_eq hlen.symm), List.map_snd_zip (Nat.le_of_eq hlen)]
  have h := healed_same (a.locs.zip bs) (s.wrLocs a.ctx a.heat a.locs bs)
  split
  · exact h
  · exact ⟨h.1.trans ⟨rfl, rfl, rfl⟩, h.2.trans ⟨rfl, rfl, rfl⟩⟩

theorem dropCopies_same (s : State) (fid : Nat) : SameBytes s (s.dropCopies fid) ∧ SameWork s (s.dropCopies fid) :=
  ⟨⟨rfl, rfl, rfl⟩, rfl, rfl, rfl⟩

theorem startCells_none {s : State} {fid : Nat} (h : ∀ e ∈ s.copies, e.fid ≠ fid) (a : Acc) : s.startCells fid a = s := by
  have hnone : (s.copies.filter fun k => k.fid == fid && k.ctx == a.ctx && k.heat == a.heat && a.sectors.contains k.sec) = [] := by
    refine List.filter_eq_nil_iff.2 fun e he => ?_
    simp [h e he]
  unfold State.startCells
  rw [hnone]
  rfl

/-- The byte that stands at place `i` of a little-endian word. -/
theorem bytesLE_getElem (v n i : Nat) (hi : i < (bytesLE v n).length) : (bytesLE v n)[i] = BitVec.ofNat 8 (v / 256 ^ i) := by
  induction n generalizing v i with
  | zero => exact absurd hi (Nat.not_lt_zero i)
  | succ n ih =>
    cases i with
    | zero => simp [bytesLE]
    | succ i =>
      simp only [bytesLE, List.getElem_cons_succ]
      rw [ih, Nat.div_div_eq_div_mul, Nat.pow_succ']

/-- A store whose turn it is, and whose bytes are whole and present, performs: it leaves the writes on their way, and puts the bytes of its data
at its locations (R10, R239). -/
theorem storePerform_performs {s : State} {k : Nat} {w : Flight} {a : Acc} {d : W64} {rel : Bool} {mc : Bool}
    (hw : s.flight[k]? = some w) (hcargo : w.cargo = .store a d rel mc)
    (hgo : ∀ l ∈ a.locs, l.hp = false ∨ a.heat = 0 ∨ s.heatLive a.ctx a.heat = true) (hcopies : ∀ e ∈ s.copies, e.fid ≠ w.org.fid)
    (hkind : paKind a.pa ≠ .control) (horder : s.writeOrder w = true) (hclear : s.writeClear w a = true)
    (hothers : s.othersPend w a = false) (hgone : (s.land k).accGone a = false) (hlost : (s.land k).accLost a false = false) :
    ∃ t, exec (.storePerform k false) s = .next t ∧
      SameBytes ((s.land k).wrLocs a.ctx a.heat a.locs (bytesLE d.toNat a.locs.length)) t ∧ SameWork (s.land k) t := by
  let bytes := bytesLE d.toNat a.locs.length
  have hp := performWrite_wrLocs (s.land k) w.org.bid a bytes (bytesLE_length ..) hgo
  have hc := onlyCounts_same (onlyCounts_countAccess (((s.land k).performWrite w.org.bid a bytes).dropCopies w.org.fid) w.org.stall a true)
  have hd := dropCopies_same ((s.land k).performWrite w.org.bid a bytes) w.org.fid
  refine ⟨_, ?_, (hp.1.trans hd.1).trans hc.1, (((wrLocs_work ..).trans hp.2).trans hd.2).trans hc.2⟩
  show execStorePerform k false s = _
  have hgoes : s.writeGoes w a = true := by simp [State.writeGoes, horder]
  have hearly : s.noteEarly w a = s := if_pos horder
  unfold execStorePerform
  simp only [hw, hcargo, beq_eq_false_iff_ne.2 hkind, hgoes, hclear, hothers, hearly, hgone, hlost, startCells_none (s := s.land k) hcopies]
  rfl

/-! The bytes of a write to memory -/

theorem wrLoc_base {heat : Nat} {b : BLoc} (h : heat = 0 ∨ b.hp = false) (s : State) (ctx : Nat) (v : Byte) :
    s.wrLoc ctx heat b v = { s with mem := spPut 0 s.mem b.pa v } := by
  refine if_neg ?_
  rcases h with h | h <;> simp [h]

theorem rd8_putMem {s : State} (h : s.ok = true) (pa x : Nat) (v : Byte) :
    State.rd8 { s with mem := spPut 0 s.mem pa v } x = if x = pa then v else s.rd8 x :=
  spGet_spPut 0 s.mem 0 pa v x (mem_wf h)

theorem wrLocs_base_cells {heat : Nat} (ctx : Nat) : ∀ (bs : List BLoc) (vs : List Byte) (s : State), (heat = 0 ∨ ∀ l ∈ bs, l.hp = false) →
    (s.wrLocs ctx heat bs vs).cells = s.cells
  | [], _, _, _ => rfl
  | _ :: _, [], _, _ => rfl
  | b :: bs, v :: vs, s, h => by
    rw [State.wrLocs, wrLoc_base (h.imp_right fun h => h b (by simp))]
    exact wrLocs_base_cells ctx bs vs _ (h.imp_right fun h l hl => h l (by simp [hl]))

theorem rd8_wrLocs_other {heat : Nat} (ctx pa : Nat) : ∀ (bs : List BLoc) (vs : List Byte) (s : State), s.ok = true →
    (heat = 0 ∨ ∀ l ∈ bs, l.hp = false) → (∀ l ∈ bs, l.pa ≠ pa) → (s.wrLocs ctx heat bs vs).rd8 pa = s.rd8 pa
  | [], _, _, _, _, _ => rfl
  | _ :: _, [], _, _, _, _ => rfl
  | b :: bs, v :: vs, s, hs, h, hne => by
    have hb := wrLoc_base (h.imp_right fun h => h b (by simp)) s ctx v
    rw [State.wrLocs, hb, rd8_wrLocs_other ctx pa bs vs _ (putMem_ok hs _ _) (h.imp_right fun h l hl => h l (by simp [hl]))
      (fun l hl => hne l (by simp [hl])), rd8_putMem hs, if_neg (hne b (by simp)).symm]

theorem rd8_wrLocs_at {heat : Nat} (ctx : Nat) : ∀ (bs : List BLoc) (vs : List Byte) (s : State), s.ok = true →
    (heat = 0 ∨ ∀ l ∈ bs, l.hp = false) → (bs.map (·.pa)).Nodup → ∀ i (hi : i < bs.length) (hv : i < vs.length),
      (s.wrLocs ctx heat bs vs).rd8 bs[i].pa = vs[i]
  | b :: bs, v :: vs, s, hs, h, hnd, i, hi, hv => by
    have hb := wrLoc_base (h.imp_right fun h => h b (by simp)) s ctx v
    have hrest : heat = 0 ∨ ∀ l ∈ bs, l.hp = false := h.imp_right fun h l hl => h l (by simp [hl])
    obtain ⟨hfirst, hnd⟩ := List.nodup_cons.1 hnd
    rw [State.wrLocs, hb]
    cases i with
    | zero =>
      have hne : ∀ l ∈ bs, l.pa ≠ b.pa := fun l hl e => hfirst (List.mem_map.2 ⟨l, hl, e⟩)
      simp only [List.getElem_cons_zero]
      rw [rd8_wrLocs_other ctx b.pa bs vs _ (putMem_ok hs _ _) hrest hne, rd8_putMem hs, if_pos rfl]
    | succ i => exact rd8_wrLocs_at ctx bs vs _ (putMem_ok hs _ _) hrest hnd i (Nat.lt_of_succ_lt_succ hi) (Nat.lt_of_succ_lt_succ hv)

/-! The bytes of a write to a heat's cells -/

theorem hasCell_materialise_self (s : State) (ctx heat va pa : Nat) : (s.materialise ctx heat va pa).hasCell ctx heat va = true := by
  unfold State.materialise
  split
  · assumption
  · simp [State.hasCell]

theorem hasCell_materialise_mono {s : State} {ctx heat x : Nat} (va pa : Nat) (h : s.hasCell ctx heat x = true) :
    (s.materialise ctx heat va pa).hasCell ctx heat x = true := by
  unfold State.materialise
  split
  · exact h
  · exact List.contains_iff_mem.2 (List.mem_cons_of_mem _ (List.contains_iff_mem.1 h))

theorem hasCell_materialise_heat (s : State) (ctx : Nat) {heat g : Nat} (hg : g ≠ heat) (va pa x : Nat) :
    (s.materialise ctx heat va pa).hasCell ctx g x = s.hasCell ctx g x := by
  unfold State.materialise
  split
  · rfl
  · simp [State.hasCell, hg]

theorem materialise_mem (s : State) (ctx heat va pa : Nat) : (s.materialise ctx heat va pa).mem = s.mem := by
  unfold State.materialise
  split <;> rfl

theorem getBytes_length (m : List Host.Cell) (a n : Nat) : (getBytes m a n).length = n := by
  rw [getBytes, List.length_map, List.length_range]

/-- Materialising a sector leaves every byte of another sector's cell. -/
theorem spGet_materialise {s : State} (hs : s.ok = true) {ctx heat va pa key : Nat}
    (hk : key < cellKey ctx heat (va / 128) ∨ cellKey ctx heat (va / 128) + 128 ≤ key) :
    spGet 0 (s.materialise ctx heat va pa).cells key = spGet 0 s.cells key := by
  unfold State.materialise
  split
  · rfl
  · dsimp only
    rw [spGet_putBytes _ _ _ _ (cells_wf hs), getBytes_length, if_neg (by omega)]

theorem cellKey_heats {ctx g heat x y : Nat} (hne : g ≠ heat) (hx : x < 2 ^ 56) (hy : y < 2 ^ 56) :
    cellKey ctx g (x / 128) + 128 ≤ cellKey ctx heat (y / 128) ∨ cellKey ctx heat (y / 128) + 128 ≤ cellKey ctx g (x / 128) := by
  unfold cellKey
  omega

theorem cellKey_byte_inj {ctx heat x y : Nat}
    (h : cellKey ctx heat (x / 128) + x % 128 = cellKey ctx heat (y / 128) + y % 128) : x = y := by
  unfold cellKey at h
  omega

theorem wrLoc_cell {heat : Nat} {b : BLoc} (hp : b.hp = true) (hh : heat ≠ 0) (s : State) (ctx : Nat) (v : Byte) :
    s.wrLoc ctx heat b v =
      { s.materialise ctx heat b.va b.pa with
        cells := spPut 0 (s.materialise ctx heat b.va b.pa).cells (cellKey ctx heat (b.va / 128) + b.va % 128) v } := by
  refine if_pos ?_
  simp [hp, hh]

theorem hasCell_wrLoc_mono {s : State} {ctx heat x : Nat} {b : BLoc} (hp : b.hp = true) (hh : heat ≠ 0) (v : Byte)
    (h : s.hasCell ctx heat x = true) : (s.wrLoc ctx heat b v).hasCell ctx heat x = true := by
  rw [wrLoc_cell hp hh]
  exact hasCell_materialise_mono b.va b.pa h

/-- A heat reads the byte it stored in its cell. -/
theorem rdLoc_wrLoc_self {s : State} (hs : s.ok = true) {ctx heat : Nat} {b : BLoc} (hp : b.hp = true) (hh : heat ≠ 0) (v : Byte) :
    (s.wrLoc ctx heat b v).rdLoc ctx heat b = v := by
  have hcell : (s.wrLoc ctx heat b v).hasCell ctx heat b.va = true := by
    rw [wrLoc_cell hp hh]
    exact hasCell_materialise_self ..
  have hwf := cells_wf (materialise_ok hs ctx heat b.va b.pa)
  rw [State.rdLoc, hcell, hp, if_pos (by simp [hh]), wrLoc_cell hp hh]
  exact (spGet_spPut 0 _ 0 _ v _ hwf).trans (if_pos rfl)

/-- A byte of the same heat's cells stands. -/
theorem rdLoc_wrLoc_other {s : State} (hs : s.ok = true) {ctx heat : Nat} {b l : BLoc} (hp : b.hp = true) (hh : heat ≠ 0) (v : Byte)
    (hl : l.hp = true) (hcell : s.hasCell ctx heat l.va = true) (hne : l.va ≠ b.va) :
    (s.wrLoc ctx heat b v).rdLoc ctx heat l = s.rdLoc ctx heat l := by
  have hwf := cells_wf (materialise_ok hs ctx heat b.va b.pa)
  rw [State.rdLoc, State.rdLoc, hasCell_wrLoc_mono hp hh v hcell, hcell, if_pos (by simp [hl, hh]), if_pos (by simp [hl, hh]), wrLoc_cell hp hh]
  refine ((spGet_spPut 0 _ 0 _ v _ hwf).trans (if_neg fun e => hne (cellKey_byte_inj e))).trans ?_
  by_cases hsec : l.va / 128 = b.va / 128
  · have hmat : s.materialise ctx heat b.va b.pa = s := if_pos (by rwa [State.hasCell, ← hsec])
    rw [hmat]
  · exact spGet_materialise hs (by unfold cellKey; omega)

/-- A store to a heat's cell leaves what every other heat reads. -/
theorem rdLoc_wrLoc_heat {s : State} (hs : s.ok = true) {ctx heat g : Nat} {b l : BLoc} (hp : b.hp = true) (hh : heat ≠ 0) (v : Byte)
    (hg : g ≠ heat) (hb : b.va < 2 ^ 56) (hl : l.va < 2 ^ 56) : (s.wrLoc ctx heat b v).rdLoc ctx g l = s.rdLoc ctx g l := by
  have hwf := cells_wf (materialise_ok hs ctx heat b.va b.pa)
  have hkeys := cellKey_heats (ctx := ctx) hg hl hb
  have hcell : spGet 0 (s.wrLoc ctx heat b v).cells (cellKey ctx g (l.va / 128) + l.va % 128) =
      spGet 0 s.cells (cellKey ctx g (l.va / 128) + l.va % 128) := by
    rw [wrLoc_cell hp hh]
    exact ((spGet_spPut 0 _ 0 _ v _ hwf).trans (if_neg (by omega))).trans (spGet_materialise hs (by omega))
  have hhas : (s.wrLoc ctx heat b v).hasCell ctx g l.va = s.hasCell ctx g l.va := by
    rw [wrLoc_cell hp hh]
    exact hasCell_materialise_heat s ctx hg b.va b.pa l.va
  have hmem : (s.wrLoc ctx heat b v).mem = s.mem := by
    rw [wrLoc_cell hp hh]
    exact materialise_mem s ctx heat b.va b.pa
  simp only [State.rdLoc, State.rd8, hcell, hhas, hmem]

/-- Every location lies on a page of which each heat has its own cells (R38, R85). -/
def OnHeatPage (bs : List BLoc) : Prop := ∀ l ∈ bs, l.hp = true ∧ l.va < 2 ^ 56

theorem wrLocs_cell_mem {ctx heat : Nat} (hh : heat ≠ 0) : ∀ (bs : List BLoc) (vs : List Byte) (s : State), OnHeatPage bs →
    (s.wrLocs ctx heat bs vs).mem = s.mem
  | [], _, _, _ => rfl
  | _ :: _, [], _, _ => rfl
  | b :: bs, v :: vs, s, h => by
    have hb := h b (by simp)
    rw [State.wrLocs, wrLocs_cell_mem hh bs vs _ fun l hl => h l (by simp [hl]), wrLoc_cell hb.1 hh]
    exact materialise_mem ..

theorem rdLoc_wrLocs_heat {ctx heat g : Nat} {l : BLoc} (hh : heat ≠ 0) (hg : g ≠ heat) (hl : l.va < 2 ^ 56) :
    ∀ (bs : List BLoc) (vs : List Byte) (s : State), s.ok = true → OnHeatPage bs →
      (s.wrLocs ctx heat bs vs).rdLoc ctx g l = s.rdLoc ctx g l
  | [], _, _, _, _ => rfl
  | _ :: _, [], _, _, _ => rfl
  | b :: bs, v :: vs, s, hs, h => by
    obtain ⟨hp, hva⟩ := h b (by simp)
    rw [State.wrLocs, rdLoc_wrLocs_heat hh hg hl bs vs _ (wrLoc_ok hs ctx heat b v) fun l hl => h l (by simp [hl]),
      rdLoc_wrLoc_heat hs hp hh v hg hva hl]

theorem rdLoc_wrLocs_other {ctx heat : Nat} {l : BLoc} (hh : heat ≠ 0) (hl : l.hp = true) :
    ∀ (bs : List BLoc) (vs : List Byte) (s : State), s.ok = true → OnHeatPage bs → s.hasCell ctx heat l.va = true →
      (∀ b ∈ bs, b.va ≠ l.va) → (s.wrLocs ctx heat bs vs).rdLoc ctx heat l = s.rdLoc ctx heat l
  | [], _, _, _, _, _, _ => rfl
  | _ :: _, [], _, _, _, _, _ => rfl
  | b :: bs, v :: vs, s, hs, h, hcell, hne => by
    obtain ⟨hp, -⟩ := h b (by simp)
    rw [State.wrLocs, rdLoc_wrLocs_other hh hl bs vs _ (wrLoc_ok hs ctx heat b v) (fun l hl => h l (by simp [hl]))
      (hasCell_wrLoc_mono hp hh v hcell) (fun b hb => hne b (by simp [hb])), rdLoc_wrLoc_other hs hp hh v hl hcell (hne b (by simp)).symm]

theorem rdLoc_wrLocs_at {ctx heat : Nat} (hh : heat ≠ 0) : ∀ (bs : List BLoc) (vs : List Byte) (s : State), s.ok = true → OnHeatPage bs →
    (bs.map (·.va)).Nodup → ∀ i (hi : i < bs.length) (hv : i < vs.length), (s.wrLocs ctx heat bs vs).rdLoc ctx heat bs[i] = vs[i]
  | b :: bs, v :: vs, s, hs, h, hnd, i, hi, hv => by
    obtain ⟨hp, -⟩ := h b (by simp)
    have hrest : OnHeatPage bs := fun l hl => h l (by simp [hl])
    have hs' := wrLoc_ok hs ctx heat b v
    obtain ⟨hfirst, hnd⟩ := List.nodup_cons.1 hnd
    rw [State.wrLocs]
    cases i with
    | zero =>
      have hne : ∀ l ∈ bs, l.va ≠ b.va := fun l hl e => hfirst (List.mem_map.2 ⟨l, hl, e⟩)
      have hcell : (s.wrLoc ctx heat b v).hasCell ctx heat b.va = true := by
        rw [wrLoc_cell hp hh]
        exact hasCell_materialise_self ..
      simp only [List.getElem_cons_zero]
      rw [rdLoc_wrLocs_other hh hp bs vs _ hs' hrest hcell hne, rdLoc_wrLoc_self hs hp hh]
    | succ i => exact rdLoc_wrLocs_at hh bs vs _ hs' hrest hnd i (Nat.lt_of_succ_lt_succ hi) (Nat.lt_of_succ_lt_succ hv)

/-- Settles O9: part 1 by what each word records, parts 2 and 3 by the bytes that the performing store writes. -/
theorem stores : Obligations.Stores := by
  refine ⟨?_, ?_, ?_⟩
  · intro h m s c a r hf
    exact ⟨st_records r hf, stmc_records r hf, pref_quiet r hf, fence_marks r hf⟩
  · intro s k w a d rel mc hw hcargo hs hbase hcopies hkind horder hclear hothers hgone hlost
    obtain ⟨t, e, hbytes, hflight, hframes, hblocks⟩ := storePerform_performs hw hcargo
      (fun l hl => (hbase.imp_right fun h => h l hl).elim (fun h => .inr (.inl h)) .inl) hcopies hkind horder hclear hothers hgone hlost
    have hs' : (s.land k).ok = true := hs
    refine ⟨t, e, hflight, hframes, hblocks, hbytes.cells.trans (wrLocs_base_cells _ _ _ _ hbase), ?_, ?_⟩
    · intro pa hpa
      exact (hbytes.rd8 pa).trans (rd8_wrLocs_other a.ctx pa a.locs _ _ hs' hbase hpa)
    · intro hnd i hi
      rw [hbytes.rd8, rd8_wrLocs_at a.ctx a.locs _ _ hs' hbase hnd i hi (by rwa [bytesLE_length]), bytesLE_getElem]
  · intro s k w a d rel mc hw hcargo hs hheat _ hlive hcopies hpage hkind horder hclear hothers hgone hlost
    obtain ⟨t, e, hbytes, -⟩ := storePerform_performs hw hcargo (fun _ _ => .inr (.inr hlive)) hcopies hkind horder hclear hothers hgone hlost
    have hs' : (s.land k).ok = true := hs
    refine ⟨t, e, hbytes.mem.trans (wrLocs_cell_mem hheat _ _ _ hpage), ?_, ?_⟩
    · intro g l _ hg hl
      exact (hbytes.rdLoc a.ctx g l).trans (rdLoc_wrLocs_heat hheat hg hl _ _ _ hs' hpage)
    · intro hnd i hi
      rw [hbytes.rdLoc, rdLoc_wrLocs_at hheat a.locs _ _ hs' hpage hnd i hi (by rwa [bytesLE_length]), bytesLE_getElem]

end Sys2Proof.Machine
